-- ==== Sys2Proof/Word.lean ====
section
/-! DEFINITION. The word types of the Adeone (R1): a byte is 8 bits, a scalar 64, a vector register 2048,
a mask register 256, an accumulator element 32. -/

namespace Sys2Proof

/-- A byte (R1). -/
abbrev Byte := BitVec 8

/-- A 64-bit scalar: a train position, a k or m register, a shape variable, a doubleword (R1, R81). -/
abbrev Word := BitVec 64

/-- A 32-bit word: an accumulator element, a generator state, a transfer id (R1). -/
abbrev Word32 := BitVec 32

/-- A vector register, v0 to v31 (R81, R195). -/
abbrev VecReg := BitVec 2048

/-- A mask register, f0 to f7, one bit a byte of a vector register (R81, R195). -/
abbrev MaskReg := BitVec 256

end Sys2Proof
end

