-- ==== Sys2Proof/Syntax.lean ====
section
/-! DEFINITION. The instructions of the Adeone as syntax (R29 to R49), and the steps of the opcode table that no
chain starts (95_what_each_step_holds.md): one constructor for each row of spec/opcode_table.json. -/

namespace Sys2Proof

/-- An agent that runs threads: a tile core by its global core id (R8), or the supervisor core of a die (R430). -/
inductive Agent where
  | tile (id : Nat)
  | sup (die : Nat)
deriving DecidableEq, Repr

/-- A scalar operand that is read (R32, R33): a train position, a named or main register, or a constant-window word
that a KONST prefix puts in the field's place (R39). -/
inductive Src where
  | t (i : Fin 16)
  | k (i : Fin 16)
  | m (i : Fin 64)
  | c (i : Fin 256)
deriving DecidableEq, Repr

/-- A scalar register that is written: a k or m register (R87). -/
inductive Dst where
  | k (i : Fin 16)
  | m (i : Fin 64)
deriving DecidableEq, Repr

/-- A vector register number (R34). -/
abbrev VReg := Fin 32
/-- An accumulator bank number (R34). -/
abbrev Acc := Fin 4
/-- A mask register number (R34). -/
abbrev MReg := Fin 8
/-- The pair mP, mP + 1 of main registers with P = 2p (R262). -/
abbrev MPair := Fin 32
/-- The four main registers mQ to mQ + 3 with Q = 4q (R241, R243). -/
abbrev MQuad := Fin 16

/-- The load widths of R30 and R135, by their codes 0 to 6. -/
inductive Width where
  | b | bu | h | hu | w | wu | d
deriving DecidableEq, Repr

/-- The store widths of R173: codes 0, 2, 4 and 6. -/
inductive StWidth where
  | b | h | w | d
deriving DecidableEq, Repr

/-- The four scopes of R27, by their codes 0 to 3. -/
inductive Scope where
  | cl | die | pkg | sys
deriving DecidableEq, Repr

/-- The operations of `amo` (R173), by their codes 0 to 10. -/
inductive AmoOp where
  | add | and | or | xor | min | max | minu | maxu | swap | fadd | fmax
deriving DecidableEq, Repr

/-- The kinds of `fence` (R173): 0 full, 1 acq, 2 rel. -/
inductive FenceKind where
  | full | acq | rel
deriving DecidableEq, Repr

/-- The kinds of `flush` (R173): 0 clean, 1 cinv, 2 inv. -/
inductive FlushKind where
  | clean | cinv | inv
deriving DecidableEq, Repr

/-- The levels of `flush` (R173): 0 l1, 1 l2. -/
inductive FlushLevel where
  | l1 | l2
deriving DecidableEq, Repr

/-- The rounding modes of R64. -/
inductive Rnd where
  | rne | rz | sr
deriving DecidableEq, Repr

/-- The shared format codes 0x0 to 0xC of R63. -/
inductive Fmt where
  | bf16 | fp16 | e4m3 | e5m2 | qb8 | qb5 | qb4 | mxfp8 | mxfp6 | mxfp4 | int8 | fp32 | int32
deriving DecidableEq, Repr

/-- A format of a conversion: a shared format, or MXINT8 by its encoding of its own (R60, R222, R233). -/
inductive CFmt where
  | shared (f : Fmt)
  | mxint8
deriving DecidableEq, Repr

/-- The vector types of R195, by their codes 0 to 6. -/
inductive VType where
  | i8 | i16 | i32 | i64 | bf16 | fp16 | fp32
deriving DecidableEq, Repr

/-- The operations of `vred` (R220): 0 add, 1 min, 2 max. -/
inductive RedOp where
  | add | min | max
deriving DecidableEq, Repr

/-- The register that `wlease` names, by its class (R109). -/
inductive LeaseReg where
  | scalar (d : Dst)
  | vec (v : VReg)
  | acc (a : Acc)
deriving DecidableEq, Repr

/-- The modes of `unpark` (R395), by their codes 0 to 3. -/
inductive UnparkMode where
  | resume | replay | skip | abort
deriving DecidableEq, Repr

/-- The control and status registers of R407. `awin n` is AWIN(n+1). -/
inductive Csr where
  | nflags | srseed | vcfg | awin (n : Fin 7) | estat | carvew | genval | rlstat | hintdrop | vshare
  | xdone | xnext | xstage | xstat | xpart | uictl | uira | txstat | txts | txfault | txfpc | mstk
  | deadline | mbstat | astab
deriving DecidableEq, Repr

/-- A unit that can leave coherence (R194). -/
inductive CohUnit where
  | cluster (die cluster : Nat)
  | slice (die slice : Nat)
  | die (die : Nat)
deriving DecidableEq, Repr

/-- A function of the module that tests itself and sets its READY or FAIL bit (R414); of an Ethernet port also the mode
that the host selected before (R420). -/
inductive ModFn where
  | die (d : Fin 8)
  | hbm (s : Fin 16)
  | pcp
  | host
  | eth (n : Fin 8) (split : Bool)
deriving DecidableEq, Repr

/-- An Ethernet port, or the half of one that is split (R420). -/
structure EthPort where
  port : Fin 8
  half : Bool
deriving DecidableEq, Repr

/-- What the home of a line grants (R152): the peer that asks, whether it is to own the line, and the line's bytes where
another module is the home. -/
structure Granted where
  peer : Nat
  own : Bool
  data : List Byte
deriving DecidableEq, Repr

/-- A record from another module (R361): its sender's transfer id, its bytes, and the payload of a `wenq` with its
virtual address. -/
structure FarRecord where
  id : Word32
  bytes : List Byte
  payload : Option (Nat × List Byte)
deriving DecidableEq, Repr

/-- The instructions, and the steps of the opcode table that no chain starts. The arguments of a step name the agent
or the operation it happens to, and whatever its environment decides (a placement, a sensor's value, a host's data). -/
inductive Instr where
  -- page 0 (R47)
  | nop
  | pick (x : Src)
  | put (d : Dst) (x : Src)
  | add (x y : Src)
  | sub (x y : Src)
  | addi (x : Src) (imm : Int)
  | mul (x y : Src)
  | and (x y : Src)
  | or (x y : Src)
  | xor (x y : Src)
  | andi (x : Src) (imm : Nat)
  | shl (x y : Src)
  | shr (x y : Src)
  | sra (x y : Src)
  | shli (x : Src) (n : Nat)
  | shri (x : Src) (n : Nat)
  | srai (x : Src) (n : Nat)
  | ceq (x y : Src)
  | clt (x y : Src)
  | cltu (x y : Src)
  | clti (x : Src) (imm : Int)
  | min (x y : Src)
  | max (x y : Src)
  | minu (x y : Src)
  | maxu (x y : Src)
  | popc (x : Src)
  | clz (x : Src)
  | ctz (x : Src)
  | li (imm : Int)
  | ldc (n : Fin 256)
  | lld (w : Width) (addr : Src) (off : Int)
  | lstB (addr val : Src) (off : Int)
  | lstH (addr val : Src) (off : Int)
  | lstW (addr val : Src) (off : Int)
  | lstD (addr val : Src) (off : Int)
  | br (off : Int)
  | bz (x : Src) (off : Int)
  | bnz (x : Src) (off : Int)
  | call (off : Int)
  | jr (x : Src)
  | dbnz (k : Fin 16) (off : Int)
  | ewait (x : Src)
  | earr (x : Src)
  | await (x : Src)
  | wlease (r : LeaseReg)
  | chime
  | yield
  | endTask
  | brk (n : Nat)
  | svc (n : Nat)
  -- page 1 (R124)
  | sel (x y cond : Src)
  | bmux (x y s : Src) (lo hi : Fin 16)
  | fshl (x y n : Src)
  | fshr (x y n : Src)
  | mulh (x y : Src)
  | mulhu (x y : Src)
  | div (x y : Src)
  | divu (x y : Src)
  | rem (x y : Src)
  | remu (x y : Src)
  | madd (x y z : Src)
  | lea (x y : Src) (sh : Fin 64)
  | bext (x pos len : Src)
  | bdep (x val : Src) (pos : Fin 64) (len : Nat)
  | sext (x : Src) (bits : Nat)
  | zext (x : Src) (bits : Nat)
  | rotl (x n : Src)
  | bswap (x : Src)
  | clamp (x lo hi : Src)
  | rdsv (i : Fin 32)
  | wrsv (i : Fin 32) (x : Src)
  | rdtime
  -- page 2 (R172)
  | ldg (w : Width) (acq : Bool) (s : Scope) (d : Dst) (addr : Src) (off : Int)
  | stg (w : StWidth) (rel : Bool) (s : Scope) (addr val : Src) (off : Int)
  | amoW (op : AmoOp) (s : Scope) (addr val : Src)
  | amoD (op : AmoOp) (s : Scope) (addr val : Src)
  | casW (s : Scope) (addr expect new : Src)
  | casD (s : Scope) (addr expect new : Src)
  | fence (kind : FenceKind) (s : Scope) (e : Bool)
  | ifence
  | flush (kind : FlushKind) (lvl : FlushLevel) (addr len : Src)
  | pref (addr len : Src) (lvl : Fin 3)
  | resid (addr len : Src) (mode : Fin 3)
  -- page 3 (R212)
  | vcfg (ty : VType) (fm : MReg)
  | vadd (d a b : VReg)
  | vsub (d a b : VReg)
  | vmul (d a b : VReg)
  | vmulh (d a b : VReg)
  | vfma (d a b : VReg)
  | vdiv (d a b : VReg)
  | vsqrt (d a : VReg)
  | vrcp (d a : VReg)
  | vrsq (d a : VReg)
  | vexp2 (d a : VReg)
  | vlog2 (d a : VReg)
  | vmin (d a b : VReg)
  | vmax (d a b : VReg)
  | vabs (d a : VReg)
  | vand (d a b : VReg)
  | vor (d a b : VReg)
  | vxor (d a b : VReg)
  | vbmux (d a b : VReg) (lo hi : Fin 16)
  | vshl (d a b : VReg)
  | vshr (d a b : VReg)
  | vsra (d a b : VReg)
  | vfshl (d a b : VReg) (n : Fin 64)
  | vfshr (d a b : VReg) (n : Fin 64)
  | vpopc (d a : VReg)
  | vclz (d a : VReg)
  | vceq (fd : MReg) (a b : VReg)
  | vclt (fd : MReg) (a b : VReg)
  | vcle (fd : MReg) (a b : VReg)
  | vsel (d a b : VReg)
  | vsplat (d : VReg) (x : Src)
  | vext (a : VReg) (idx : Src)
  | vins (d : VReg) (x idx : Src)
  | vperm (d a idx : VReg)
  | vslide (d a : VReg) (dist : Src)
  | vred (op : RedOp) (a : VReg)
  | vcvt (f g : CFmt) (r : Rnd) (d a : VReg)
  | vmask (tbl : Fin 16) (fd fa fb : MReg)
  | vld (d : VReg) (addr : Src)
  | vst (a : VReg) (addr : Src)
  | vldg (d : VReg) (addr : Src)
  | vstg (a : VReg) (addr : Src)
  | vgath (d : VReg) (base : Src) (idx : VReg)
  | vscat (a : VReg) (base : Src) (idx : VReg)
  -- page 4 (R262)
  | mma (a : Acc) (cw : Src) (p : MPair)
  | mmat (a : Acc) (cw : Src) (p : MPair)
  | mred (i32 : Bool) (a : Acc) (len : Nat)
  | mzero (a : Acc)
  | mld (a : Acc) (addr : Src)
  | mst (f : Fmt) (r : Rnd) (a : Acc) (addr : Src)
  | amov (d : VReg) (a : Acc) (col : Nat)
  | mwait (a : Acc)
  -- page 5 (R241, R104)
  | copy (src dst : Src)
  | copyf (src dst : Src) (q : MQuad) (stream2 : Bool)
  | gath (table idx dst : Src)
  | stage (n : Nat)
  | xdone
  | einit (x n : Src)
  | eexp (x bytes : Src)
  | earrn (x n : Src)
  | etest (x : Src)
  | uien (x : Src)
  | uidis
  | uiret
  -- page 6 (R299)
  | tbegin (off : Int)
  | tend
  | tabort (code : Nat)
  | tstat
  | tcaddW (addr val : Src)
  | tcaddF (addr val : Src)
  | tcmaxW (addr val : Src)
  | tcminW (addr val : Src)
  | tcorD (addr val : Src)
  | tdepth
  -- page 7 (R304, R325)
  | hsift (heap score id : Src)
  | vhsift (block : Src) (score : VReg) (id : Src)
  | hsort (block : Src)
  | route (rec : Src)
  | rtbl (rec : Src)
  | mrg (rec : Src)
  | umrg (rec : Src)
  | rmstat (rec : Src)
  -- page 8 (R349)
  | xsend (src count : Src) (w : Nat)
  | xrecv (dst : Src) (w : Nat)
  | xput (src drec : Src)
  | rput (sh val : Src) (off : Int)
  | rget (d : Dst) (sh : Src)
  | renq (handle rec : Src)
  | wenq (target rec : Src)
  | qpop (dst : Src)
  | qtry (dst : Src)
  | permit (walk n : Src)
  | walk (rec : Src)
  | chimex (layer : Src)
  -- page 9 (R375, R409)
  | succ (i : Fin 8) (ma mb : Src)
  | carve (word : Src)
  | launch (handle rec : Src)
  | sig (ctr : Src)
  | rdcsr (n : Csr)
  | wrcsr (n : Csr) (x : Src)
  | mbox (x y : Src)
  | park (core : Src)
  | unpark (core : Src) (mode : UnparkMode)
  | rpl (core : Src) (i : Nat)
  | wpl (core : Src) (i : Nat) (x : Src)
  | tlbinv (addr sel : Src)
  | pclr (line : Src)
  | ctxsave (team area : Src)
  | ctxload (team area : Src)
  -- steps of a core's own units
  | pendingArrival (a : Agent) (tag : Nat)
  | ewaitWake (a : Agent)
  | awaitWake (a : Agent)
  | wleaseWake (a : Agent)
  | mwaitWake (a : Agent)
  | qpopWake (a : Agent)
  | chimeRelease (launch : Nat)
  | startRelease (launch : Nat)
  | remoteArrival (n : Nat)
  | userLevelInterrupt (a : Agent)
  | pageTableWalk (die asid va : Nat)
  | messageDelivery (die row : Nat) (merge : Bool)
  | globalLoadReturns (a : Agent) (tag : Nat)
  | atomicCompletes (a : Agent) (tag : Nat)
  | fenceCompletion (a : Agent)
  | flushWalkCompletes (a : Agent) (tag : Nat)
  | releaseCompletion (a : Agent)
  | pclrCompletion (a : Agent)
  | tlbinvCompletion (a : Agent)
  | vectorExecution (a : Agent)
  | channelOperationCompletes (a : Agent) (id : Word32)
  | commandPlacement (a : Agent) (id : Word32)
  | matrixOperationStart (a : Agent) (stream : Fin 4)
  | matrixOperationCompletes (a : Agent) (stream : Fin 4)
  | teamRendezvous (team : Nat)
  | mredMessage (a : Agent)
  | commitPoint (a : Agent)
  | transactionAbort (a : Agent)
  | routeCompletion (die : Nat)
  | tableStaged (die : Nat)
  | rmstatCompletion (a : Agent) (tag : Nat)
  | mrgCompletion (a : Agent)
  | windowStart (launch w : Nat)
  | lastPayloadBeat (launch w : Nat)
  | windowEnd (launch w : Nat)
  | xputDelivery (a : Agent) (id : Word32)
  | rputLanding (a : Agent) (tag : Nat)
  | rputAcknowledgement (a : Agent) (tag : Nat)
  | rgetReply (a : Agent) (tag : Nat)
  | tileDelivery (owner : Nat) (wid : Fin 8)
  | enqueue (a : Agent) (id : Word32)
  -- dispatch and supervisor steps
  | launchRecordTaken (queue : Nat)
  | dependencesMet (launch : Nat)
  | dispatch (launch team die gx gy : Nat)
  | admission (launch : Nat) (place : List (Nat × Nat × Nat))
  | teamRetirement (team : Nat)
  | handOver (team : Nat)
  | carveRenegotiation (team : Nat)
  | deadlineExpiry (save : Nat)
  | cooperativeEviction (save : Nat)
  | restore (save : Nat)
  -- memory, fabric, host and power steps
  | unitLeavesCoherence (u : CohUnit)
  | softError (line : Nat)
  | inv (line from_ : Nat)
  | invack (line from_ : Nat)
  | grant (line : Nat) (to_ : Granted)
  | wback (line : Nat) (data : List Byte)
  | poison (line : Nat)
  | chimearr (launch module : Nat) (given : List (Option (BitVec 16)))
  | chimerel (launch : Nat) (release : Option (Option (BitVec 16)))
  | qrec (from_ : Nat) (handle : Word) (rec : FarRecord) (sv : List Word)
  | qack (a : Agent) (id : Word32) (code : Fin 4)
  | myzilTlbinv (from_ : Nat) (addr sel : Word)
  | tlback (from_ : Nat)
  | notice (vector : Nat)
  | linkUp (n : Fin 32)
  | linkDown (n : Fin 32)
  | moduleReset (made : List Byte)
  | selfTestComplete (fn : ModFn) (ok : Bool)
  | frameReceive (port : EthPort) (pa : Nat) (data : List Byte) (counter : Nat)
  | frameTransmit (port : EthPort) (pa len : Nat)
  | hostRead (bar : Fin 3) (off len : Nat)
  | hostWrite (bar : Fin 3) (off : Nat) (data : List Byte)
  | doorbell (queue : Nat) (index : Word)
  | queueDescriptorWrite (queue : Nat) (word : Fin 4) (x : Word)
  | run
  | idle
  | standby
  | off
  | clusterGate (die cluster : Nat) (gate : Bool)
  | dieGate (die : Nat) (gate : Bool)
  | sliceGate (die slice : Nat) (gate : Bool)
  | pcapWrite (cap : BitVec 16)
  | thermalAlarm (temp : BitVec 16)
  | fallback
  | alarmClear
  | modidWrite (id : BitVec 9)
  | loadImage (buf len : Word)
  | attestationQuote (buf len : Word)
  | readIdentity (buf len : Word)
  | firmwareRequestDone
  | registerWrite (off : Nat) (x : Word)
  | plotRegistration (a : Agent) (tag : Nat)
deriving DecidableEq, Repr

end Sys2Proof
end

