-- ==== Sys2Proof/WellFormed.lean ====
section
/-! DEFINITION. Which instructions are well formed: the ranges of the entries (R50), at most one constant-window
operand (R39), and an immediate that fits the prefixes the operands leave (R38, R40). -/

namespace Sys2Proof

/-- The 8-bit code of a scalar register (R32). A constant-window operand holds zero in its field (R39). -/
def Src.code : Src → Nat
  | .t i => i.val
  | .k i => 0x10 + i.val
  | .m i => 0x20 + i.val
  | .c _ => 0

/-- The 8-bit code of a register that is written (R32). -/
def Dst.code : Dst → Nat
  | .k i => 0x10 + i.val
  | .m i => 0x20 + i.val

/-- The operand is a constant-window word, which takes the KONST prefix (R39). -/
def Src.isC : Src → Bool
  | .c _ => true
  | _ => false

/-- At most one of the operands is a constant-window word, since KONST appears at most once (R40). -/
def oneC (xs : List Src) : Bool := (xs.filter Src.isC).length ≤ 1

/-- The IMM prefixes left to a chain of four (R40), given whether it has PAGE, the codes of its a and b fields and of
its c field, and its sources. -/
def chunksLeft (paged : Bool) (ab : List Nat) (c : Nat) (xs : List Src) : Nat :=
  4 - (if paged then 1 else 0) - (if ab.any (fun n => 32 ≤ n) || 64 ≤ c then 1 else 0)
    - (if xs.any Src.isC then 1 else 0)

/-- A signed immediate of w bits (R38). -/
def fitsS (w : Nat) (v : Int) : Bool := 0 < w && decide (-(2 ^ (w - 1) : Int) ≤ v) && decide (v < (2 ^ (w - 1) : Int))

/-- An unsigned immediate of w bits (R38). -/
def fitsU (w : Nat) (v : Nat) : Bool := decide (v < 2 ^ w)

/-- A signed immediate carried by IMM alone: 0 needs no IMM (R38). -/
def fitsImm (chunks : Nat) (v : Int) : Bool := v == 0 || fitsS (10 * chunks) v

/-- An agent of the part: a core id from 0 to 2559 (R8), or the supervisor core of a die from 0 to 7. -/
def Agent.wf : Agent → Bool
  | .tile id => id < 2560
  | .sup die => die < 8

/-- The ranges of an instruction's fields, and the room its prefixes leave. -/
def Instr.wf : Instr → Bool
  | .add x y | .sub x y | .mul x y | .and x y | .or x y | .xor x y | .shl x y | .shr x y | .sra x y | .ceq x y
  | .clt x y | .cltu x y | .min x y | .max x y | .minu x y | .maxu x y => oneC [x, y]
  | .addi x imm | .clti x imm => fitsS (5 + 10 * chunksLeft false [x.code] 0 [x]) imm
  | .andi x imm => fitsU (5 + 10 * chunksLeft false [x.code] 0 [x]) imm
  | .shli _ n | .shri _ n | .srai _ n => n < 64
  | .li imm => fitsS 50 imm
  | .lld _ x o => fitsImm (chunksLeft false [x.code] 0 [x]) o
  | .lstB x y o | .lstH x y o | .lstW x y o | .lstD x y o =>
      oneC [x, y] && fitsImm (chunksLeft false [x.code, y.code] 0 [x, y]) o
  | .br o | .call o => fitsS 50 o
  | .bz x o | .bnz x o => fitsS (5 + 10 * chunksLeft false [x.code] 0 [x]) o
  | .dbnz _ o => fitsS 45 o
  | .brk n | .svc n => n < 1024
  | .sel x y z | .bmux x y z _ _ | .fshl x y z | .fshr x y z | .madd x y z | .bext x y z | .clamp x y z
  | .casW _ x y z | .casD _ x y z | .gath x y z => oneC [x, y, z]
  | .mulh x y | .mulhu x y | .div x y | .divu x y | .rem x y | .remu x y | .lea x y _ | .rotl x y
  | .amoW _ _ x y | .flush _ _ x y | .pref x y _ | .resid x y _ | .copy x y | .copyf x y _ _
  | .einit x y | .eexp x y | .earrn x y | .tcaddW x y | .tcaddF x y | .tcmaxW x y | .tcminW x y | .tcorD x y
  | .xput x y | .renq x y | .wenq x y | .permit x y | .succ _ x y | .launch x y | .mbox x y | .tlbinv x y
  | .ctxsave x y | .ctxload x y | .vins _ x y | .vhsift x _ y => oneC [x, y]
  | .amoD op _ x y => oneC [x, y] && !(op == .fadd || op == .fmax)
  | .hsift x y z => oneC [x, y, z]
  | .bdep x y pos len =>
      oneC [x, y] && len ≤ 64 && fitsU (10 * chunksLeft true [x.code, y.code] 0 [x, y]) (len * 64 + pos.val)
  | .sext _ n | .zext _ n => 1 ≤ n && n ≤ 64
  | .ldg _ _ _ d x o => fitsImm (chunksLeft true [d.code, x.code] 0 [x]) o
  | .stg _ _ _ x y o | .rput x y o =>
      oneC [x, y] && fitsImm (chunksLeft true [x.code, y.code] 0 [x, y]) o
  | .mred _ _ len => 1 ≤ len && len ≤ 64
  | .amov _ _ col => col < 80
  | .stage n => 1 ≤ n && n ≤ 256
  | .tbegin o => fitsImm 3 o
  | .tabort n => n < 256
  | .xsend x y w => oneC [x, y] && w < 256
  | .xrecv _ w => w < 256
  | .rpl _ i => i < 256
  | .wpl x i y => oneC [x, y] && i < 256
  | .pendingArrival a _ | .ewaitWake a | .awaitWake a | .wleaseWake a | .mwaitWake a | .qpopWake a
  | .userLevelInterrupt a | .globalLoadReturns a _ | .atomicCompletes a _ | .fenceCompletion a
  | .flushWalkCompletes a _ | .tlbinvCompletion a | .vectorExecution a | .channelOperationCompletes a _
  | .commandPlacement a _ | .matrixOperationStart a _ | .matrixOperationCompletes a _ | .mredMessage a
  | .commitPoint a | .transactionAbort a | .rmstatCompletion a _ | .mrgCompletion a | .xputDelivery a _
  | .rputLanding a _ | .rputAcknowledgement a _ | .rgetReply a _ | .enqueue a _ | .qack a _ _
  | .plotRegistration a _ | .releaseCompletion a | .pclrCompletion a => a.wf
  | .nop | .pick _ | .put _ _ | .popc _ | .clz _ | .ctz _ | .ldc _ | .jr _ | .ewait _ | .earr _ | .await _
  | .wlease _ | .chime | .yield | .endTask | .bswap _ | .rdsv _ | .wrsv _ _ | .rdtime | .fence _ _ _ | .ifence
  | .vcfg _ _ | .vadd _ _ _ | .vsub _ _ _ | .vmul _ _ _ | .vmulh _ _ _ | .vfma _ _ _ | .vdiv _ _ _ | .vsqrt _ _
  | .vrcp _ _ | .vrsq _ _ | .vexp2 _ _ | .vlog2 _ _ | .vmin _ _ _ | .vmax _ _ _ | .vabs _ _ | .vand _ _ _
  | .vor _ _ _ | .vxor _ _ _ | .vbmux _ _ _ _ _ | .vshl _ _ _ | .vshr _ _ _ | .vsra _ _ _ | .vfshl _ _ _ _
  | .vfshr _ _ _ _ | .vpopc _ _ | .vclz _ _ | .vceq _ _ _ | .vclt _ _ _ | .vcle _ _ _ | .vsel _ _ _
  | .vsplat _ _ | .vext _ _ | .vperm _ _ _ | .vslide _ _ _ | .vred _ _ | .vcvt _ _ _ _ _
  | .vmask _ _ _ _ | .vld _ _ | .vst _ _ | .vldg _ _ | .vstg _ _ | .vgath _ _ _ | .vscat _ _ _ | .mma _ _ _
  | .mmat _ _ _ | .mzero _ | .mld _ _ | .mst _ _ _ _ | .mwait _ | .xdone | .etest _ | .uien _ | .uidis | .uiret
  | .tend | .tstat | .tdepth | .hsort _ | .route _ | .rtbl _ | .mrg _ | .umrg _ | .rmstat _
  | .rget _ _ | .qpop _ | .qtry _ | .walk _ | .chimex _ | .carve _ | .sig _ | .rdcsr _ | .wrcsr _ _ | .park _
  | .unpark _ _ | .pclr _ => true
  | .chimeRelease _ | .startRelease _ | .remoteArrival _ | .pageTableWalk _ _ _ | .messageDelivery _ _ _
  | .teamRendezvous _ | .routeCompletion _ | .tableStaged _ | .windowStart _ _ | .lastPayloadBeat _ _
  | .windowEnd _ _ | .tileDelivery _ _ | .launchRecordTaken _ | .dependencesMet _ | .dispatch _ _ _ _ _
  | .admission _ _ | .teamRetirement _ | .handOver _ | .carveRenegotiation _ | .deadlineExpiry _
  | .cooperativeEviction _ | .restore _ | .unitLeavesCoherence _ | .softError _ | .inv _ _ | .invack _ _
  | .grant _ _ | .wback _ _ | .poison _ | .chimearr _ _ _ | .chimerel _ _ | .qrec _ _ _ _
  | .myzilTlbinv _ _ _ | .tlback _ | .notice _ | .linkUp _ | .linkDown _ | .moduleReset _
  | .selfTestComplete _ _ | .frameReceive _ _ _ _ | .frameTransmit _ _ _ | .hostRead _ _ _ | .hostWrite _ _ _
  | .doorbell _ _ | .queueDescriptorWrite _ _ _ | .run | .idle | .standby | .off | .clusterGate _ _ _
  | .dieGate _ _ | .sliceGate _ _ _ | .pcapWrite _ | .thermalAlarm _ | .fallback | .alarmClear | .modidWrite _
  | .loadImage _ _ | .attestationQuote _ _ | .readIdentity _ _ | .firmwareRequestDone | .registerWrite _ _ => true

end Sys2Proof
end

