-- ==== Sys2Proof/Decode.lean ====
section
/-! DEFINITION. Decoding a chain (R29 to R52) and encoding a well-formed instruction, from the same tables
(R47, R48, R104, R118, R124, R172, R173, R212, R241, R262, R299, R304, R325, R349, R375, R409). -/

namespace Sys2Proof

/-! ## Prefixes and chains -/

/-- The four prefixes of R36, with their fields. -/
inductive Pfx where
  | imm (chunk : Nat)
  | wide (a b c : Nat)
  | page (p c : Nat)
  | konst (target index : Nat)
deriving DecidableEq, Repr

/-- The kind of a prefix: its op6 less 0x3C. -/
def Pfx.kind : Pfx → Nat
  | .imm _ => 0
  | .wide _ _ _ => 1
  | .page _ _ => 2
  | .konst _ _ => 3

/-- A chain whose prefixes have passed the checks that stand at a prefix (R51): its prefixes in order and the fields
of its base word (R29). -/
structure Chain where
  pfx : List Pfx
  op : Nat
  a : Nat
  b : Nat
deriving DecidableEq, Repr

/-- What a prefix word says, or none for a fault that stands at a prefix (R40, R51): `seen` are the prefixes before
it. -/
def readPfx (seen : List Pfx) (h : Nat) : Option Pfx :=
  let kind := h / 1024 % 64 - 0x3C
  if 4 ≤ seen.length then none
  else if kind != 0 && seen.any (fun p => p.kind == kind) then none
  else match kind with
    | 0 => some (.imm (h % 1024))
    | 1 => if h % 4 = 0 then some (.wide (h / 128 % 8) (h / 16 % 8) (h / 4 % 4)) else none
    | 2 => if 1 ≤ h / 64 % 16 ∧ h / 64 % 16 ≤ 9 then some (.page (h / 64 % 16) (h % 64)) else none
    | _ => if h / 256 % 4 < 3 then some (.konst (h / 256 % 4) (h % 256)) else none

/-- How far the words of a chain have been read: more are needed, the word of this index is a faulting prefix, or the
chain is complete. -/
inductive Scan where
  | more
  | bad (word : Nat)
  | done (c : Chain)
deriving DecidableEq, Repr

/-- Read the words of a chain in order. -/
def scanFrom : List Pfx → List Nat → Scan
  | _, [] => .more
  | seen, h :: t =>
    if h / 1024 % 64 < 0x3C then .done ⟨seen, h / 1024 % 64, h / 32 % 32, h % 32⟩
    else match readPfx seen h with
      | none => .bad seen.length
      | some p => scanFrom (seen ++ [p]) t

/-- Read the words of a chain from its first word. -/
def scan (ws : List Nat) : Scan := scanFrom [] ws

/-- The page that the chain selects: 0 without PAGE (R41). -/
def Chain.page (c : Chain) : Nat :=
  (c.pfx.findSome? (fun p => match p with | .page n _ => some n | _ => none)).getD 0
/-- PAGE[5:0] (R31). -/
def Chain.cLow (c : Chain) : Nat :=
  (c.pfx.findSome? (fun p => match p with | .page _ n => some n | _ => none)).getD 0
/-- The three groups of WIDE (R36). -/
def Chain.hi (c : Chain) : Nat × Nat × Nat :=
  (c.pfx.findSome? (fun p => match p with | .wide x y z => some (x, y, z) | _ => none)).getD (0, 0, 0)
/-- The target and index of KONST. -/
def Chain.konst (c : Chain) : Option (Nat × Nat) :=
  c.pfx.findSome? (fun p => match p with | .konst t n => some (t, n) | _ => none)
/-- The IMM chunks in chain order (R38). -/
def Chain.chunks (c : Chain) : List Nat :=
  c.pfx.filterMap (fun p => match p with | .imm n => some n | _ => none)

/-! ## Forms -/

/-- What a field of a form holds (R30, R31, R34). -/
inductive Cls where
  /-- must hold zero -/
  | zero
  /-- a scalar that is read -/
  | src
  /-- k0 to k15, read and written (`dbnz`) -/
  | kReg
  /-- a k or m register that is written -/
  | dst
  | vreg
  | acc
  | mask
  | maskDst
  /-- an immediate or a variant -/
  | part
  /-- the AW width field (R30) -/
  | width
  /-- the class field b of `wlease` -/
  | lcls
  /-- the register field a of `wlease` -/
  | lease
  /-- bits 9:5 of `ldc`, whose upper two must be zero -/
  | ldcHi
  /-- an even main register (R262) -/
  | pair
  /-- a main register whose number is a multiple of 4 (R241) -/
  | quad
deriving DecidableEq, Repr

/-- How a form takes its immediate (R30, R38, R41). -/
inductive ImmK where
  | no
  /-- from IMM alone, signed -/
  | immS
  /-- from IMM alone, unsigned -/
  | immU
  /-- AIs -/
  | b5S
  /-- AIu -/
  | b5U
  /-- I10s -/
  | ab10S
  /-- I10u, complete in the base word -/
  | ab10U
deriving DecidableEq, Repr

/-- The form of an operation: its three fields and its immediate. -/
structure Form where
  a : Cls
  b : Cls
  c : Cls
  imm : ImmK
deriving DecidableEq, Repr

/-- The forms of page 0 (R47). -/
def form0 : Nat → Option Form
  | 0x00 | 0x2D | 0x2E | 0x2F => some ⟨.zero, .zero, .zero, .no⟩
  | 0x01 | 0x19 | 0x1A | 0x1B | 0x27 | 0x29 | 0x2A | 0x2B => some ⟨.src, .zero, .zero, .no⟩
  | 0x02 => some ⟨.dst, .src, .zero, .no⟩
  | 0x05 | 0x14 | 0x24 | 0x25 => some ⟨.src, .part, .zero, .b5S⟩
  | 0x0A | 0x0E | 0x0F | 0x10 => some ⟨.src, .part, .zero, .b5U⟩
  | 0x1C | 0x23 | 0x26 => some ⟨.part, .part, .zero, .ab10S⟩
  | 0x1D => some ⟨.ldcHi, .part, .zero, .ab10U⟩
  | 0x1E => some ⟨.src, .width, .zero, .immS⟩
  | 0x1F | 0x20 | 0x21 | 0x22 => some ⟨.src, .src, .zero, .immS⟩
  | 0x28 => some ⟨.kReg, .part, .zero, .b5S⟩
  | 0x2C => some ⟨.lease, .lcls, .zero, .no⟩
  | 0x30 | 0x31 => some ⟨.part, .part, .zero, .ab10U⟩
  | 0x03 | 0x04 | 0x06 | 0x07 | 0x08 | 0x09 | 0x0B | 0x0C | 0x0D | 0x11 | 0x12 | 0x13 | 0x15 | 0x16 | 0x17 | 0x18 =>
      some ⟨.src, .src, .zero, .no⟩
  | _ => none

/-- The forms of page 1 (R124). -/
def form1 : Nat → Option Form
  | 0x01 | 0x03 | 0x04 | 0x0B | 0x0D | 0x13 => some ⟨.src, .src, .src, .no⟩
  | 0x02 => some ⟨.src, .src, .src, .immU⟩
  | 0x05 | 0x06 | 0x07 | 0x08 | 0x09 | 0x0A | 0x11 => some ⟨.src, .src, .zero, .no⟩
  | 0x0C | 0x0E => some ⟨.src, .src, .zero, .immU⟩
  | 0x0F | 0x10 => some ⟨.src, .zero, .zero, .immU⟩
  | 0x12 => some ⟨.src, .zero, .zero, .no⟩
  | 0x14 => some ⟨.part, .zero, .zero, .no⟩
  | 0x15 => some ⟨.part, .src, .zero, .no⟩
  | 0x16 => some ⟨.zero, .zero, .zero, .no⟩
  | _ => none

/-- The forms of page 2 (R172). -/
def form2 : Nat → Option Form
  | 0x01 => some ⟨.dst, .src, .part, .immS⟩
  | 0x02 => some ⟨.src, .src, .part, .immS⟩
  | 0x03 | 0x04 | 0x09 => some ⟨.src, .src, .part, .no⟩
  | 0x05 | 0x06 => some ⟨.src, .src, .src, .immU⟩
  | 0x07 => some ⟨.zero, .zero, .part, .no⟩
  | 0x08 => some ⟨.zero, .zero, .zero, .no⟩
  | 0x0A | 0x0B => some ⟨.src, .src, .zero, .immU⟩
  | _ => none

/-- The forms of page 3 (R212). -/
def form3 : Nat → Option Form
  | 0x01 => some ⟨.part, .mask, .zero, .no⟩
  | 0x08 | 0x09 | 0x0A | 0x0B | 0x0C | 0x0F | 0x19 | 0x1A => some ⟨.vreg, .vreg, .zero, .no⟩
  | 0x13 | 0x17 | 0x18 => some ⟨.vreg, .vreg, .vreg, .immU⟩
  | 0x1B | 0x1C | 0x1D => some ⟨.vreg, .vreg, .maskDst, .no⟩
  | 0x1F | 0x20 | 0x27 | 0x28 | 0x29 | 0x2A => some ⟨.vreg, .src, .zero, .no⟩
  | 0x21 => some ⟨.vreg, .src, .src, .no⟩
  | 0x23 => some ⟨.vreg, .vreg, .src, .no⟩
  | 0x24 => some ⟨.vreg, .zero, .part, .no⟩
  | 0x25 => some ⟨.vreg, .vreg, .zero, .immU⟩
  | 0x26 => some ⟨.mask, .mask, .maskDst, .immU⟩
  | 0x2B | 0x2C => some ⟨.vreg, .src, .vreg, .no⟩
  | 0x02 | 0x03 | 0x04 | 0x05 | 0x06 | 0x07 | 0x0D | 0x0E | 0x10 | 0x11 | 0x12 | 0x14 | 0x15 | 0x16 | 0x1E | 0x22 =>
      some ⟨.vreg, .vreg, .vreg, .no⟩
  | _ => none

/-- The forms of page 4 (R262). -/
def form4 : Nat → Option Form
  | 0x01 | 0x02 => some ⟨.acc, .src, .pair, .no⟩
  | 0x03 => some ⟨.acc, .zero, .zero, .immU⟩
  | 0x04 | 0x08 => some ⟨.acc, .zero, .zero, .no⟩
  | 0x05 => some ⟨.acc, .src, .zero, .no⟩
  | 0x06 => some ⟨.acc, .src, .part, .no⟩
  | 0x07 => some ⟨.vreg, .acc, .zero, .immU⟩
  | _ => none

/-- The forms of page 5 (R104, R241). -/
def form5 : Nat → Option Form
  | 0x01 | 0x06 | 0x07 | 0x08 => some ⟨.src, .src, .zero, .no⟩
  | 0x02 => some ⟨.src, .src, .quad, .immU⟩
  | 0x03 => some ⟨.src, .src, .src, .no⟩
  | 0x04 => some ⟨.zero, .zero, .zero, .immU⟩
  | 0x05 | 0x0B | 0x0C => some ⟨.zero, .zero, .zero, .no⟩
  | 0x09 | 0x0A => some ⟨.src, .zero, .zero, .no⟩
  | _ => none

/-- The forms of page 6 (R299). -/
def form6 : Nat → Option Form
  | 0x01 => some ⟨.zero, .zero, .zero, .immS⟩
  | 0x03 => some ⟨.zero, .zero, .zero, .immU⟩
  | 0x02 | 0x04 | 0x0A => some ⟨.zero, .zero, .zero, .no⟩
  | 0x05 | 0x06 | 0x07 | 0x08 | 0x09 => some ⟨.src, .src, .zero, .no⟩
  | _ => none

/-- The forms of page 7 (R304, R325). -/
def form7 : Nat → Option Form
  | 0x01 => some ⟨.src, .src, .src, .no⟩
  | 0x02 => some ⟨.src, .vreg, .src, .no⟩
  | 0x03 | 0x04 | 0x05 | 0x06 | 0x07 | 0x08 => some ⟨.src, .zero, .zero, .no⟩
  | _ => none

/-- The forms of page 8 (R349). -/
def form8 : Nat → Option Form
  | 0x01 => some ⟨.src, .src, .zero, .immU⟩
  | 0x02 => some ⟨.src, .zero, .zero, .immU⟩
  | 0x04 => some ⟨.src, .src, .zero, .immS⟩
  | 0x05 => some ⟨.dst, .src, .zero, .no⟩
  | 0x03 | 0x06 | 0x07 | 0x0A => some ⟨.src, .src, .zero, .no⟩
  | 0x08 | 0x09 | 0x0B | 0x0C => some ⟨.src, .zero, .zero, .no⟩
  | _ => none

/-- The forms of page 9 (R375, R409). -/
def form9 : Nat → Option Form
  | 0x01 => some ⟨.part, .src, .src, .no⟩
  | 0x05 => some ⟨.zero, .zero, .zero, .immU⟩
  | 0x06 | 0x09 | 0x0A => some ⟨.src, .zero, .zero, .immU⟩
  | 0x0B => some ⟨.src, .src, .zero, .immU⟩
  | 0x02 | 0x04 | 0x08 | 0x0D => some ⟨.src, .zero, .zero, .no⟩
  | 0x03 | 0x07 | 0x0C | 0x0E | 0x0F => some ⟨.src, .src, .zero, .no⟩
  | _ => none

/-- The form of an operation; none where the encoding is reserved (R47, R48). -/
def form (page op : Nat) : Option Form :=
  match page with
  | 0 => form0 op
  | 1 => form1 op
  | 2 => form2 op
  | 3 => form3 op
  | 4 => form4 op
  | 5 => form5 op
  | 6 => form6 op
  | 7 => form7 op
  | 8 => form8 op
  | 9 => form9 op
  | _ => none

/-! ## Operand fields -/

/-- A field as its class reads it. A number stands for the field's raw code. -/
inductive Fld where
  | num (n : Nat)
  | src (s : Src)
  | dst (d : Dst)
  | lease (r : LeaseReg)
deriving DecidableEq, Repr

/-- The fields of an instruction and its immediate. -/
structure Fields where
  a : Fld
  b : Fld
  c : Fld
  imm : Int
deriving DecidableEq, Repr

/-- The register of a scalar code (R32). -/
def Src.ofCode (n : Nat) : Src :=
  if n < 0x10 then .t (Fin.ofNat 16 n) else if n < 0x20 then .k (Fin.ofNat 16 (n - 0x10)) else .m (Fin.ofNat 64 (n - 0x20))

/-- The k or m register of a scalar code (R32). -/
def Dst.ofCode (n : Nat) : Dst :=
  if n < 0x20 then .k (Fin.ofNat 16 (n - 0x10)) else .m (Fin.ofNat 64 (n - 0x20))

/-- The scalar operand of a field. -/
def Fld.toSrc : Fld → Src
  | .src s => s
  | _ => .t 0
/-- The written register of a field. -/
def Fld.toDst : Fld → Dst
  | .dst d => d
  | _ => .k 0
/-- The raw code of a field. -/
def Fld.toNum : Fld → Nat
  | .num n => n
  | _ => 0
/-- The register that `wlease` names. -/
def Fld.toLease : Fld → LeaseReg
  | .lease r => r
  | _ => .vec 0

/-- A field that R34 and R37 call a scalar operand field. -/
def Cls.isScalar : Cls → Bool
  | .src | .kReg | .dst | .pair | .quad | .lease => true
  | _ => false

/-- The field's WIDE bits may be nonzero (R37): a scalar operand field; for `wlease`, only in class 0 (R109). -/
def Cls.takesWide (cls : Cls) (b : Nat) : Bool :=
  match cls with
  | .lease => b == 0
  | cls => cls.isScalar

/-- Step 2 of R51: a field that the form restricts holds an allowed value. -/
def Cls.restrict (cls : Cls) (low : Nat) : Bool :=
  match cls with
  | .zero => low == 0
  | .width => low < 7
  | .lcls => low ≤ 2
  | .ldcHi => low < 8
  | _ => true

/-- Step 3 of R51: the code belongs to the class that the instruction gives the field (R32, R34). `b` is the base
word's b field, the class of `wlease`. -/
def Cls.codeOk (cls : Cls) (low full b : Nat) : Bool :=
  match cls with
  | .src => full < 0x60
  | .kReg => 0x10 ≤ full && full < 0x20
  | .dst => 0x10 ≤ full && full < 0x60
  | .vreg => low < 32
  | .acc => low < 4
  | .mask => low < 8
  | .maskDst => 0x20 ≤ low && low < 0x28
  | .pair => 0x20 ≤ full && full < 0x60 && full % 2 == 0
  | .quad => 0x20 ≤ full && full < 0x60 && full % 4 == 0
  | .lease => match b with
    | 0 => 0x10 ≤ full && full < 0x60
    | 1 => low < 32
    | _ => low < 4
  | .zero | .part | .width | .lcls | .ldcHi => true

/-- The value of a field whose code has been checked. -/
def Cls.value (cls : Cls) (low full b : Nat) (konst : Option Nat) : Fld :=
  match cls with
  | .src => match konst with
    | some n => .src (.c (Fin.ofNat 256 n))
    | none => .src (Src.ofCode full)
  | .dst => .dst (Dst.ofCode full)
  | .kReg | .pair | .quad => .num full
  | .lease => match b with
    | 0 => .lease (.scalar (Dst.ofCode full))
    | 1 => .lease (.vec (Fin.ofNat 32 low))
    | _ => .lease (.acc (Fin.ofNat 4 low))
  | _ => .num low

/-- The instruction takes IMM prefixes (R41). -/
def ImmK.takesImm : ImmK → Bool
  | .no | .ab10U => false
  | _ => true

/-- The chunks joined, the first the most significant (R38). -/
def joinChunks (cs : List Nat) : Nat := cs.foldl (fun acc n => acc * 1024 + n) 0

/-- A pattern of w bits taken as a signed integer. -/
def signed (w v : Nat) : Int := if 0 < w ∧ 2 ^ (w - 1) ≤ v then (v : Int) - 2 ^ w else v

/-- The immediate of a chain (R38). -/
def ImmK.value (k : ImmK) (cs : List Nat) (a b : Nat) : Int :=
  match k with
  | .no => 0
  | .immS => signed (10 * cs.length) (joinChunks cs)
  | .immU => joinChunks cs
  | .b5S => signed (5 + 10 * cs.length) (joinChunks cs * 32 + b)
  | .b5U => (joinChunks cs * 32 + b : Nat)
  | .ab10S => signed (10 + 10 * cs.length) (joinChunks cs * 1024 + a * 32 + b)
  | .ab10U => (a * 32 + b : Nat)

/-- Step 4 of R51: the instruction accepts the prefix, WIDE is zero where R37 says, and KONST targets a read-only
scalar field that holds zero (R39). -/
def Chain.accepts (ch : Chain) (f : Form) : Pfx → Bool
  | .page _ _ => true
  | .imm _ => f.imm.takesImm
  | .wide x y z =>
      (f.a.isScalar || f.b.isScalar || f.c.isScalar) && (x == 0 || f.a.takesWide ch.b)
        && (y == 0 || f.b.takesWide ch.b) && (z == 0 || f.c.takesWide ch.b)
  | .konst t _ => match t with
    | 0 => f.a == .src && ch.a == 0 && ch.hi.1 == 0
    | 1 => f.b == .src && ch.b == 0 && ch.hi.2.1 == 0
    | _ => f.c == .src && ch.cLow == 0 && ch.hi.2.2 == 0

/-! ## From fields to instructions -/

/-- The two traps of an encoding (R50). -/
inductive EncFault where
  | illegal
  | format
deriving DecidableEq, Repr

/-- A load width by its code (R30). -/
def Width.ofCode : Nat → Option Width
  | 0 => some .b | 1 => some .bu | 2 => some .h | 3 => some .hu | 4 => some .w | 5 => some .wu | 6 => some .d
  | _ => none
/-- The code of a load width. -/
def Width.code : Width → Nat
  | .b => 0 | .bu => 1 | .h => 2 | .hu => 3 | .w => 4 | .wu => 5 | .d => 6
/-- A store width by its code (R173). -/
def StWidth.ofCode : Nat → Option StWidth
  | 0 => some .b | 2 => some .h | 4 => some .w | 6 => some .d | _ => none
/-- The code of a store width. -/
def StWidth.code : StWidth → Nat
  | .b => 0 | .h => 2 | .w => 4 | .d => 6
/-- A scope by its code (R27). -/
def Scope.ofCode (n : Nat) : Scope :=
  match n % 4 with | 0 => .cl | 1 => .die | 2 => .pkg | _ => .sys
/-- The code of a scope. -/
def Scope.code : Scope → Nat
  | .cl => 0 | .die => 1 | .pkg => 2 | .sys => 3
/-- An operation of `amo` by its code (R173). -/
def AmoOp.ofCode : Nat → Option AmoOp
  | 0 => some .add | 1 => some .and | 2 => some .or | 3 => some .xor | 4 => some .min | 5 => some .max
  | 6 => some .minu | 7 => some .maxu | 8 => some .swap | 9 => some .fadd | 10 => some .fmax | _ => none
/-- The code of an operation of `amo`. -/
def AmoOp.code : AmoOp → Nat
  | .add => 0 | .and => 1 | .or => 2 | .xor => 3 | .min => 4 | .max => 5 | .minu => 6 | .maxu => 7 | .swap => 8
  | .fadd => 9 | .fmax => 10
/-- A rounding mode by its code (R64). -/
def Rnd.ofCode : Nat → Option Rnd
  | 0 => some .rne | 1 => some .rz | 2 => some .sr | _ => none
/-- The code of a rounding mode. -/
def Rnd.code : Rnd → Nat
  | .rne => 0 | .rz => 1 | .sr => 2
/-- A shared format by its code (R63). -/
def Fmt.ofCode : Nat → Option Fmt
  | 0 => some .bf16 | 1 => some .fp16 | 2 => some .e4m3 | 3 => some .e5m2 | 4 => some .qb8 | 5 => some .qb5
  | 6 => some .qb4 | 7 => some .mxfp8 | 8 => some .mxfp6 | 9 => some .mxfp4 | 10 => some .int8 | 11 => some .fp32
  | 12 => some .int32 | _ => none
/-- The code of a shared format. -/
def Fmt.code : Fmt → Nat
  | .bf16 => 0 | .fp16 => 1 | .e4m3 => 2 | .e5m2 => 3 | .qb8 => 4 | .qb5 => 5 | .qb4 => 6 | .mxfp8 => 7 | .mxfp6 => 8
  | .mxfp4 => 9 | .int8 => 10 | .fp32 => 11 | .int32 => 12
/-- A vector type by its code (R195). -/
def VType.ofCode : Nat → Option VType
  | 0 => some .i8 | 1 => some .i16 | 2 => some .i32 | 3 => some .i64 | 4 => some .bf16 | 5 => some .fp16
  | 6 => some .fp32 | _ => none
/-- The code of a vector type. -/
def VType.code : VType → Nat
  | .i8 => 0 | .i16 => 1 | .i32 => 2 | .i64 => 3 | .bf16 => 4 | .fp16 => 5 | .fp32 => 6
/-- A CSR by its number (R407). -/
def Csr.ofCode : Nat → Option Csr
  | 0x010 => some .nflags | 0x011 => some .srseed | 0x020 => some .vcfg
  | 0x021 => some (.awin 0) | 0x022 => some (.awin 1) | 0x023 => some (.awin 2) | 0x024 => some (.awin 3)
  | 0x025 => some (.awin 4) | 0x026 => some (.awin 5) | 0x027 => some (.awin 6)
  | 0x030 => some .estat | 0x031 => some .carvew | 0x040 => some .genval | 0x041 => some .rlstat
  | 0x042 => some .hintdrop | 0x050 => some .vshare | 0x060 => some .xdone | 0x061 => some .xnext
  | 0x062 => some .xstage | 0x063 => some .xstat | 0x064 => some .xpart | 0x065 => some .uictl | 0x066 => some .uira
  | 0x070 => some .txstat | 0x071 => some .txts | 0x072 => some .txfault | 0x073 => some .txfpc | 0x080 => some .mstk
  | 0x090 => some .deadline | 0x091 => some .mbstat | 0x092 => some .astab
  | _ => none
/-- The number of a CSR (R407). -/
def Csr.code : Csr → Nat
  | .nflags => 0x010 | .srseed => 0x011 | .vcfg => 0x020 | .awin n => 0x021 + n.val | .estat => 0x030
  | .carvew => 0x031 | .genval => 0x040 | .rlstat => 0x041 | .hintdrop => 0x042 | .vshare => 0x050 | .xdone => 0x060
  | .xnext => 0x061 | .xstage => 0x062 | .xstat => 0x063 | .xpart => 0x064 | .uictl => 0x065 | .uira => 0x066
  | .txstat => 0x070 | .txts => 0x071 | .txfault => 0x072 | .txfpc => 0x073 | .mstk => 0x080 | .deadline => 0x090
  | .mbstat => 0x091 | .astab => 0x092
/-- A mode of `unpark` by its code (R395). -/
def UnparkMode.ofCode (n : Nat) : UnparkMode :=
  match n % 4 with | 0 => .resume | 1 => .replay | 2 => .skip | _ => .abort
/-- The code of a mode of `unpark`. -/
def UnparkMode.code : UnparkMode → Nat
  | .resume => 0 | .replay => 1 | .skip => 2 | .abort => 3

/-- An instruction, or ILLEGAL. -/
def orIll (c : Bool) (i : Instr) : Except EncFault Instr := if c then .ok i else .error .illegal
/-- An instruction of an optional part, or ILLEGAL. -/
def optIll {α : Type} (o : Option α) (k : α → Except EncFault Instr) : Except EncFault Instr :=
  match o with | some a => k a | none => .error .illegal
/-- An instruction of a format code, or FORMAT for a code 0xD to 0xF (R50). -/
def optFmt (n : Nat) (k : Fmt → Except EncFault Instr) : Except EncFault Instr :=
  match Fmt.ofCode n with | some f => k f | none => .error .format

/-- `vcvt` from its IMM (R222). -/
def buildVcvt (v : Nat) (d a : VReg) : Except EncFault Instr :=
  let gi := v / 2048 % 2
  let fi := v / 1024 % 2
  let m := v / 256 % 4
  let g := v / 16 % 16
  let f := v % 16
  if 4096 ≤ v || m == 3 || (gi == 1 && g != 0) || (fi == 1 && f != 0) then .error .illegal
  else if (gi == 0 && 0xD ≤ g) || (fi == 0 && 0xD ≤ f) then .error .format
  else optIll (Rnd.ofCode m) fun r =>
    optFmt f fun ff => optFmt g fun gf =>
      .ok (.vcvt (if fi == 1 then .mxint8 else .shared ff) (if gi == 1 then .mxint8 else .shared gf) r d a)

/-- Page 0 from its checked fields. -/
def build0 (op : Nat) (f : Fields) : Except EncFault Instr :=
  let x := f.a.toSrc
  let y := f.b.toSrc
  let n := f.imm.toNat
  match op with
  | 0x00 => .ok .nop
  | 0x01 => .ok (.pick x)
  | 0x02 => .ok (.put f.a.toDst y)
  | 0x03 => .ok (.add x y)
  | 0x04 => .ok (.sub x y)
  | 0x05 => .ok (.addi x f.imm)
  | 0x06 => .ok (.mul x y)
  | 0x07 => .ok (.and x y)
  | 0x08 => .ok (.or x y)
  | 0x09 => .ok (.xor x y)
  | 0x0A => .ok (.andi x n)
  | 0x0B => .ok (.shl x y)
  | 0x0C => .ok (.shr x y)
  | 0x0D => .ok (.sra x y)
  | 0x0E => orIll (n < 64) (.shli x n)
  | 0x0F => orIll (n < 64) (.shri x n)
  | 0x10 => orIll (n < 64) (.srai x n)
  | 0x11 => .ok (.ceq x y)
  | 0x12 => .ok (.clt x y)
  | 0x13 => .ok (.cltu x y)
  | 0x14 => .ok (.clti x f.imm)
  | 0x15 => .ok (.min x y)
  | 0x16 => .ok (.max x y)
  | 0x17 => .ok (.minu x y)
  | 0x18 => .ok (.maxu x y)
  | 0x19 => .ok (.popc x)
  | 0x1A => .ok (.clz x)
  | 0x1B => .ok (.ctz x)
  | 0x1C => .ok (.li f.imm)
  | 0x1D => .ok (.ldc (Fin.ofNat 256 n))
  | 0x1E => optIll (Width.ofCode f.b.toNum) fun w => .ok (.lld w x f.imm)
  | 0x1F => .ok (.lstB x y f.imm)
  | 0x20 => .ok (.lstH x y f.imm)
  | 0x21 => .ok (.lstW x y f.imm)
  | 0x22 => .ok (.lstD x y f.imm)
  | 0x23 => .ok (.br f.imm)
  | 0x24 => .ok (.bz x f.imm)
  | 0x25 => .ok (.bnz x f.imm)
  | 0x26 => .ok (.call f.imm)
  | 0x27 => .ok (.jr x)
  | 0x28 => .ok (.dbnz (Fin.ofNat 16 (f.a.toNum - 0x10)) f.imm)
  | 0x29 => .ok (.ewait x)
  | 0x2A => .ok (.earr x)
  | 0x2B => .ok (.await x)
  | 0x2C => .ok (.wlease f.a.toLease)
  | 0x2D => .ok .chime
  | 0x2E => .ok .yield
  | 0x2F => .ok .endTask
  | 0x30 => .ok (.brk n)
  | 0x31 => .ok (.svc n)
  | _ => .error .illegal

/-- Page 1 from its checked fields. -/
def build1 (op : Nat) (f : Fields) : Except EncFault Instr :=
  let x := f.a.toSrc
  let y := f.b.toSrc
  let z := f.c.toSrc
  let n := f.imm.toNat
  match op with
  | 0x01 => .ok (.sel x y z)
  | 0x02 => orIll (n < 256) (.bmux x y z (Fin.ofNat 16 n) (Fin.ofNat 16 (n / 16)))
  | 0x03 => .ok (.fshl x y z)
  | 0x04 => .ok (.fshr x y z)
  | 0x05 => .ok (.mulh x y)
  | 0x06 => .ok (.mulhu x y)
  | 0x07 => .ok (.div x y)
  | 0x08 => .ok (.divu x y)
  | 0x09 => .ok (.rem x y)
  | 0x0A => .ok (.remu x y)
  | 0x0B => .ok (.madd x y z)
  | 0x0C => orIll (n < 64) (.lea x y (Fin.ofNat 64 n))
  | 0x0D => .ok (.bext x y z)
  | 0x0E => orIll (n / 64 ≤ 64) (.bdep x y (Fin.ofNat 64 n) (n / 64))
  | 0x0F => orIll (1 ≤ n && n ≤ 64) (.sext x n)
  | 0x10 => orIll (1 ≤ n && n ≤ 64) (.zext x n)
  | 0x11 => .ok (.rotl x y)
  | 0x12 => .ok (.bswap x)
  | 0x13 => .ok (.clamp x y z)
  | 0x14 => .ok (.rdsv (Fin.ofNat 32 f.a.toNum))
  | 0x15 => .ok (.wrsv (Fin.ofNat 32 f.a.toNum) y)
  | 0x16 => .ok .rdtime
  | _ => .error .illegal

/-- Page 2 from its checked fields (R173). -/
def build2 (op : Nat) (f : Fields) : Except EncFault Instr :=
  let x := f.a.toSrc
  let y := f.b.toSrc
  let z := f.c.toSrc
  let n := f.imm.toNat
  let v := f.c.toNum
  let sc := Scope.ofCode v
  match op with
  | 0x01 => optIll (Width.ofCode (v / 8)) fun w => .ok (.ldg w (v / 4 % 2 == 1) sc f.a.toDst y f.imm)
  | 0x02 => optIll (StWidth.ofCode (v / 8)) fun w => .ok (.stg w (v / 4 % 2 == 1) sc x y f.imm)
  | 0x03 => optIll (AmoOp.ofCode (v / 4)) fun o => .ok (.amoW o sc x y)
  | 0x04 => optIll (AmoOp.ofCode (v / 4)) fun o => orIll (!(o == .fadd || o == .fmax)) (.amoD o sc x y)
  | 0x05 => orIll (n < 4) (.casW (Scope.ofCode n) x y z)
  | 0x06 => orIll (n < 4) (.casD (Scope.ofCode n) x y z)
  | 0x07 =>
    if 32 ≤ v then .error .illegal
    else match v / 4 % 4 with
      | 0 => .ok (.fence .full sc (16 ≤ v))
      | 1 => .ok (.fence .acq sc (16 ≤ v))
      | 2 => .ok (.fence .rel sc (16 ≤ v))
      | _ => .error .illegal
  | 0x08 => .ok .ifence
  | 0x09 =>
    let lvl : FlushLevel := if v / 4 % 2 == 1 then .l2 else .l1
    if 8 ≤ v then .error .illegal
    else match v % 4 with
      | 0 => .ok (.flush .clean lvl x y)
      | 1 => .ok (.flush .cinv lvl x y)
      | 2 => .ok (.flush .inv lvl x y)
      | _ => .error .illegal
  | 0x0A => orIll (n < 3) (.pref x y (Fin.ofNat 3 n))
  | 0x0B => orIll (n < 3) (.resid x y (Fin.ofNat 3 n))
  | _ => .error .illegal

/-- Page 3 from its checked fields (R212). -/
def build3 (op : Nat) (f : Fields) : Except EncFault Instr :=
  let d : VReg := Fin.ofNat 32 f.a.toNum
  let a : VReg := Fin.ofNat 32 f.b.toNum
  let b : VReg := Fin.ofNat 32 f.c.toNum
  let fd : MReg := Fin.ofNat 8 f.c.toNum
  let x := f.b.toSrc
  let y := f.c.toSrc
  let n := f.imm.toNat
  match op with
  | 0x01 => optIll (VType.ofCode f.a.toNum) fun t => .ok (.vcfg t (Fin.ofNat 8 f.b.toNum))
  | 0x02 => .ok (.vadd d a b)
  | 0x03 => .ok (.vsub d a b)
  | 0x04 => .ok (.vmul d a b)
  | 0x05 => .ok (.vmulh d a b)
  | 0x06 => .ok (.vfma d a b)
  | 0x07 => .ok (.vdiv d a b)
  | 0x08 => .ok (.vsqrt d a)
  | 0x09 => .ok (.vrcp d a)
  | 0x0A => .ok (.vrsq d a)
  | 0x0B => .ok (.vexp2 d a)
  | 0x0C => .ok (.vlog2 d a)
  | 0x0D => .ok (.vmin d a b)
  | 0x0E => .ok (.vmax d a b)
  | 0x0F => .ok (.vabs d a)
  | 0x10 => .ok (.vand d a b)
  | 0x11 => .ok (.vor d a b)
  | 0x12 => .ok (.vxor d a b)
  | 0x13 => orIll (n < 256) (.vbmux d a b (Fin.ofNat 16 n) (Fin.ofNat 16 (n / 16)))
  | 0x14 => .ok (.vshl d a b)
  | 0x15 => .ok (.vshr d a b)
  | 0x16 => .ok (.vsra d a b)
  | 0x17 => orIll (n < 64) (.vfshl d a b (Fin.ofNat 64 n))
  | 0x18 => orIll (n < 64) (.vfshr d a b (Fin.ofNat 64 n))
  | 0x19 => .ok (.vpopc d a)
  | 0x1A => .ok (.vclz d a)
  | 0x1B => .ok (.vceq fd d a)
  | 0x1C => .ok (.vclt fd d a)
  | 0x1D => .ok (.vcle fd d a)
  | 0x1E => .ok (.vsel d a b)
  | 0x1F => .ok (.vsplat d x)
  | 0x20 => .ok (.vext d x)
  | 0x21 => .ok (.vins d x y)
  | 0x22 => .ok (.vperm d a b)
  | 0x23 => .ok (.vslide d a y)
  | 0x24 => match f.c.toNum with
    | 0 => .ok (.vred .add d)
    | 1 => .ok (.vred .min d)
    | 2 => .ok (.vred .max d)
    | _ => .error .illegal
  | 0x25 => buildVcvt n d a
  | 0x26 => orIll (n < 16) (.vmask (Fin.ofNat 16 n) fd (Fin.ofNat 8 f.a.toNum) (Fin.ofNat 8 f.b.toNum))
  | 0x27 => .ok (.vld d x)
  | 0x28 => .ok (.vst d x)
  | 0x29 => .ok (.vldg d x)
  | 0x2A => .ok (.vstg d x)
  | 0x2B => .ok (.vgath d x b)
  | 0x2C => .ok (.vscat d x b)
  | _ => .error .illegal

/-- Page 4 from its checked fields (R262). -/
def build4 (op : Nat) (f : Fields) : Except EncFault Instr :=
  let a : Acc := Fin.ofNat 4 f.a.toNum
  let x := f.b.toSrc
  let p : MPair := Fin.ofNat 32 ((f.c.toNum - 0x20) / 2)
  let n := f.imm.toNat
  match op with
  | 0x01 => .ok (.mma a x p)
  | 0x02 => .ok (.mmat a x p)
  | 0x03 => orIll (n < 256 && 1 ≤ n % 128 && n % 128 ≤ 64) (.mred (n / 128 == 1) a (n % 128))
  | 0x04 => .ok (.mzero a)
  | 0x05 => .ok (.mld a x)
  | 0x06 => optIll (Rnd.ofCode (f.c.toNum / 16)) fun r => optFmt (f.c.toNum % 16) fun g => .ok (.mst g r a x)
  | 0x07 => orIll (n < 80) (.amov (Fin.ofNat 32 f.a.toNum) (Fin.ofNat 4 f.b.toNum) n)
  | 0x08 => .ok (.mwait a)
  | _ => .error .illegal

/-- Page 5 from its checked fields (R104, R241). -/
def build5 (op : Nat) (f : Fields) : Except EncFault Instr :=
  let x := f.a.toSrc
  let y := f.b.toSrc
  let n := f.imm.toNat
  match op with
  | 0x01 => .ok (.copy x y)
  | 0x02 => orIll (n == 1 || n == 2) (.copyf x y (Fin.ofNat 16 ((f.c.toNum - 0x20) / 4)) (n == 2))
  | 0x03 => .ok (.gath x y f.c.toSrc)
  | 0x04 => orIll (1 ≤ n && n ≤ 256) (.stage n)
  | 0x05 => .ok .xdone
  | 0x06 => .ok (.einit x y)
  | 0x07 => .ok (.eexp x y)
  | 0x08 => .ok (.earrn x y)
  | 0x09 => .ok (.etest x)
  | 0x0A => .ok (.uien x)
  | 0x0B => .ok .uidis
  | 0x0C => .ok .uiret
  | _ => .error .illegal

/-- Page 6 from its checked fields (R299). -/
def build6 (op : Nat) (f : Fields) : Except EncFault Instr :=
  let x := f.a.toSrc
  let y := f.b.toSrc
  match op with
  | 0x01 => .ok (.tbegin f.imm)
  | 0x02 => .ok .tend
  | 0x03 => orIll (f.imm.toNat < 256) (.tabort f.imm.toNat)
  | 0x04 => .ok .tstat
  | 0x05 => .ok (.tcaddW x y)
  | 0x06 => .ok (.tcaddF x y)
  | 0x07 => .ok (.tcmaxW x y)
  | 0x08 => .ok (.tcminW x y)
  | 0x09 => .ok (.tcorD x y)
  | 0x0A => .ok .tdepth
  | _ => .error .illegal

/-- Page 7 from its checked fields (R304, R325). -/
def build7 (op : Nat) (f : Fields) : Except EncFault Instr :=
  let x := f.a.toSrc
  match op with
  | 0x01 => .ok (.hsift x f.b.toSrc f.c.toSrc)
  | 0x02 => .ok (.vhsift x (Fin.ofNat 32 f.b.toNum) f.c.toSrc)
  | 0x03 => .ok (.hsort x)
  | 0x04 => .ok (.route x)
  | 0x05 => .ok (.rtbl x)
  | 0x06 => .ok (.mrg x)
  | 0x07 => .ok (.umrg x)
  | 0x08 => .ok (.rmstat x)
  | _ => .error .illegal

/-- Page 8 from its checked fields (R349). -/
def build8 (op : Nat) (f : Fields) : Except EncFault Instr :=
  let x := f.a.toSrc
  let y := f.b.toSrc
  let n := f.imm.toNat
  match op with
  | 0x01 => orIll (n < 256) (.xsend x y n)
  | 0x02 => orIll (n < 256) (.xrecv x n)
  | 0x03 => .ok (.xput x y)
  | 0x04 => .ok (.rput x y f.imm)
  | 0x05 => .ok (.rget f.a.toDst y)
  | 0x06 => .ok (.renq x y)
  | 0x07 => .ok (.wenq x y)
  | 0x08 => .ok (.qpop x)
  | 0x09 => .ok (.qtry x)
  | 0x0A => .ok (.permit x y)
  | 0x0B => .ok (.walk x)
  | 0x0C => .ok (.chimex x)
  | _ => .error .illegal

/-- Page 9 from its checked fields (R375, R409). -/
def build9 (op : Nat) (f : Fields) : Except EncFault Instr :=
  let x := f.a.toSrc
  let y := f.b.toSrc
  let n := f.imm.toNat
  match op with
  | 0x01 => orIll (f.a.toNum < 8) (.succ (Fin.ofNat 8 f.a.toNum) y f.c.toSrc)
  | 0x02 => .ok (.carve x)
  | 0x03 => .ok (.launch x y)
  | 0x04 => .ok (.sig x)
  | 0x05 => optIll (Csr.ofCode n) fun r => .ok (.rdcsr r)
  | 0x06 => optIll (Csr.ofCode n) fun r => .ok (.wrcsr r x)
  | 0x07 => .ok (.mbox x y)
  | 0x08 => .ok (.park x)
  | 0x09 => orIll (n < 4) (.unpark x (UnparkMode.ofCode n))
  | 0x0A => orIll (n < 256) (.rpl x n)
  | 0x0B => orIll (n < 256) (.wpl x n y)
  | 0x0C => .ok (.tlbinv x y)
  | 0x0D => .ok (.pclr x)
  | 0x0E => .ok (.ctxsave x y)
  | 0x0F => .ok (.ctxload x y)
  | _ => .error .illegal

/-- The instruction of checked fields, with the immediate and variant checks of step 5 of R51. -/
def build (page op : Nat) (f : Fields) : Except EncFault Instr :=
  match page with
  | 0 => build0 op f
  | 1 => build1 op f
  | 2 => build2 op f
  | 3 => build3 op f
  | 4 => build4 op f
  | 5 => build5 op f
  | 6 => build6 op f
  | 7 => build7 op f
  | 8 => build8 op f
  | 9 => build9 op f
  | _ => .error .illegal

/-! ## Decoding -/

/-- An encoding fault (R50 to R52): the trap, and the indexes in the chain of the offending word and of the word that
NEXT names. -/
structure DecodeFault where
  fault : EncFault
  word : Nat
  next : Nat
deriving DecidableEq, Repr

/-- The full codes of the a, b and c fields (R37). -/
def Chain.full (ch : Chain) : Nat × Nat × Nat :=
  (ch.hi.1 * 32 + ch.a, ch.hi.2.1 * 32 + ch.b, ch.hi.2.2 * 64 + ch.cLow)

/-- The constant-window index of a field that KONST targets. -/
def Chain.konstOf (ch : Chain) (t : Nat) : Option Nat :=
  match ch.konst with
  | some (u, n) => if u = t then some n else none
  | none => none

/-- The checked fields of a chain of a form. -/
def Chain.fields (ch : Chain) (f : Form) : Fields where
  a := f.a.value ch.a ch.full.1 ch.b (ch.konstOf 0)
  b := f.b.value ch.b ch.full.2.1 ch.b (ch.konstOf 1)
  c := f.c.value ch.cLow ch.full.2.2 ch.b (ch.konstOf 2)
  imm := f.imm.value ch.chunks ch.a ch.b

/-- The checks of the base word, in the order of R51. Every fault of these steps is found at the base word, so NEXT is
the chain's next_pc (R52), also where the offending word is a prefix. DEDUCED: log entries 9, 52. -/
def Chain.decode (ch : Chain) : Except DecodeFault Instr :=
  let n := ch.pfx.length
  let atBase (e : EncFault) : Except DecodeFault Instr := .error ⟨e, n, n + 1⟩
  match form ch.page ch.op with
  | none => atBase .illegal
  | some f =>
    if !(f.a.restrict ch.a && f.b.restrict ch.b && f.c.restrict ch.cLow) then atBase .illegal
    else if !(f.a.codeOk ch.a ch.full.1 ch.b && f.b.codeOk ch.b ch.full.2.1 ch.b
        && f.c.codeOk ch.cLow ch.full.2.2 ch.b) then atBase .illegal
    else match ch.pfx.findIdx? (fun p => !ch.accepts f p) with
      | some i => .error ⟨.illegal, i, n + 1⟩
      | none => match build ch.page ch.op (ch.fields f) with
        | .ok i => .ok i
        | .error e => atBase e

/-- What the words of a chain decode to. -/
inductive Decoded where
  /-- the words end before the chain does -/
  | more
  | bad (f : DecodeFault)
  /-- an instruction and the number of its words -/
  | instr (i : Instr) (words : Nat)
deriving DecidableEq, Repr

/-- Decode the chain at the start of a list of words (R29 to R52). -/
def decodeWords (ws : List Nat) : Decoded :=
  match scan ws with
  | .more => .more
  | .bad i => .bad ⟨.illegal, i, i + 1⟩
  | .done ch => match ch.decode with
    | .ok i => .instr i (ch.pfx.length + 1)
    | .error f => .bad f

/-- The 16-bit words of bytes, little endian (R1). An odd last byte is dropped. -/
def wordsOfBytes : List Byte → List Nat
  | x :: y :: t => (x.toNat + 256 * y.toNat) :: wordsOfBytes t
  | _ => []

/-- Decode the chain at the start of any list of bytes. -/
def decodeBytes (bs : List Byte) : Decoded := decodeWords (wordsOfBytes bs)

/-- The words of the number by which the opcode table shows an instruction. The table writes the PAGE prefix of a
two-word row in bits 31:16 and the base word in bits 15:0; a number whose low half is the prefix is read in the
other order. -/
def tableWords (nbits w : Nat) : List Nat :=
  if nbits ≤ 16 then [w % 65536]
  else
    let hi := w / 65536 % 65536
    let lo := w % 65536
    if 0xF000 ≤ hi then [hi, lo] else [lo, hi]

/-- The instruction that the decoder reads from a row of the opcode table (operand words of zeros follow).
DEDUCED: log entry 52. -/
def decodeTableWord (nbits w : Nat) : Option Instr :=
  match decodeWords (tableWords nbits w ++ [0, 0, 0, 0, 0]) with
  | .instr i _ => some i
  | _ => none

/-! ## Encoding -/

/-- The raw code of a field. -/
def Fld.code : Fld → Nat
  | .num n => n
  | .src s => s.code
  | .dst d => d.code
  | .lease (.scalar d) => d.code
  | .lease (.vec v) => v.val
  | .lease (.acc a) => a.val

/-- The constant-window index of a field that takes KONST. -/
def Fld.konst : Fld → Option Nat
  | .src (.c n) => some n.val
  | _ => none

/-- The class code of the register of `wlease` (R109). -/
def LeaseReg.cls : LeaseReg → Nat
  | .scalar _ => 0
  | .vec _ => 1
  | .acc _ => 2

/-- The code of a conversion format in its 4-bit field, and its MXINT8 bit (R222). -/
def CFmt.code : CFmt → Nat × Nat
  | .shared f => (f.code, 0)
  | .mxint8 => (0, 1)

/-- Fields without an immediate. -/
def flds (a b c : Fld) : Fields := ⟨a, b, c, 0⟩
/-- A scalar field. -/
abbrev fs (x : Src) : Fld := .src x
/-- A numbered field. -/
abbrev fn (n : Nat) : Fld := .num n

/-- The page, op6 and fields of an instruction; none for a step that no chain starts. -/
def Instr.layout : Instr → Option (Nat × Nat × Fields)
  | .nop => some (0, 0x00, flds (fn 0) (fn 0) (fn 0))
  | .pick x => some (0, 0x01, flds (fs x) (fn 0) (fn 0))
  | .put d x => some (0, 0x02, flds (.dst d) (fs x) (fn 0))
  | .add x y => some (0, 0x03, flds (fs x) (fs y) (fn 0))
  | .sub x y => some (0, 0x04, flds (fs x) (fs y) (fn 0))
  | .addi x v => some (0, 0x05, ⟨fs x, fn 0, fn 0, v⟩)
  | .mul x y => some (0, 0x06, flds (fs x) (fs y) (fn 0))
  | .and x y => some (0, 0x07, flds (fs x) (fs y) (fn 0))
  | .or x y => some (0, 0x08, flds (fs x) (fs y) (fn 0))
  | .xor x y => some (0, 0x09, flds (fs x) (fs y) (fn 0))
  | .andi x v => some (0, 0x0A, ⟨fs x, fn 0, fn 0, v⟩)
  | .shl x y => some (0, 0x0B, flds (fs x) (fs y) (fn 0))
  | .shr x y => some (0, 0x0C, flds (fs x) (fs y) (fn 0))
  | .sra x y => some (0, 0x0D, flds (fs x) (fs y) (fn 0))
  | .shli x v => some (0, 0x0E, ⟨fs x, fn 0, fn 0, v⟩)
  | .shri x v => some (0, 0x0F, ⟨fs x, fn 0, fn 0, v⟩)
  | .srai x v => some (0, 0x10, ⟨fs x, fn 0, fn 0, v⟩)
  | .ceq x y => some (0, 0x11, flds (fs x) (fs y) (fn 0))
  | .clt x y => some (0, 0x12, flds (fs x) (fs y) (fn 0))
  | .cltu x y => some (0, 0x13, flds (fs x) (fs y) (fn 0))
  | .clti x v => some (0, 0x14, ⟨fs x, fn 0, fn 0, v⟩)
  | .min x y => some (0, 0x15, flds (fs x) (fs y) (fn 0))
  | .max x y => some (0, 0x16, flds (fs x) (fs y) (fn 0))
  | .minu x y => some (0, 0x17, flds (fs x) (fs y) (fn 0))
  | .maxu x y => some (0, 0x18, flds (fs x) (fs y) (fn 0))
  | .popc x => some (0, 0x19, flds (fs x) (fn 0) (fn 0))
  | .clz x => some (0, 0x1A, flds (fs x) (fn 0) (fn 0))
  | .ctz x => some (0, 0x1B, flds (fs x) (fn 0) (fn 0))
  | .li v => some (0, 0x1C, ⟨fn 0, fn 0, fn 0, v⟩)
  | .ldc n => some (0, 0x1D, ⟨fn 0, fn 0, fn 0, n.val⟩)
  | .lld w x v => some (0, 0x1E, ⟨fs x, fn w.code, fn 0, v⟩)
  | .lstB x y v => some (0, 0x1F, ⟨fs x, fs y, fn 0, v⟩)
  | .lstH x y v => some (0, 0x20, ⟨fs x, fs y, fn 0, v⟩)
  | .lstW x y v => some (0, 0x21, ⟨fs x, fs y, fn 0, v⟩)
  | .lstD x y v => some (0, 0x22, ⟨fs x, fs y, fn 0, v⟩)
  | .br v => some (0, 0x23, ⟨fn 0, fn 0, fn 0, v⟩)
  | .bz x v => some (0, 0x24, ⟨fs x, fn 0, fn 0, v⟩)
  | .bnz x v => some (0, 0x25, ⟨fs x, fn 0, fn 0, v⟩)
  | .call v => some (0, 0x26, ⟨fn 0, fn 0, fn 0, v⟩)
  | .jr x => some (0, 0x27, flds (fs x) (fn 0) (fn 0))
  | .dbnz k v => some (0, 0x28, ⟨fn (0x10 + k.val), fn 0, fn 0, v⟩)
  | .ewait x => some (0, 0x29, flds (fs x) (fn 0) (fn 0))
  | .earr x => some (0, 0x2A, flds (fs x) (fn 0) (fn 0))
  | .await x => some (0, 0x2B, flds (fs x) (fn 0) (fn 0))
  | .wlease r => some (0, 0x2C, flds (.lease r) (fn r.cls) (fn 0))
  | .chime => some (0, 0x2D, flds (fn 0) (fn 0) (fn 0))
  | .yield => some (0, 0x2E, flds (fn 0) (fn 0) (fn 0))
  | .endTask => some (0, 0x2F, flds (fn 0) (fn 0) (fn 0))
  | .brk n => some (0, 0x30, ⟨fn 0, fn 0, fn 0, n⟩)
  | .svc n => some (0, 0x31, ⟨fn 0, fn 0, fn 0, n⟩)
  | .sel x y z => some (1, 0x01, flds (fs x) (fs y) (fs z))
  | .bmux x y z lo hi => some (1, 0x02, ⟨fs x, fs y, fs z, (lo.val + 16 * hi.val : Nat)⟩)
  | .fshl x y z => some (1, 0x03, flds (fs x) (fs y) (fs z))
  | .fshr x y z => some (1, 0x04, flds (fs x) (fs y) (fs z))
  | .mulh x y => some (1, 0x05, flds (fs x) (fs y) (fn 0))
  | .mulhu x y => some (1, 0x06, flds (fs x) (fs y) (fn 0))
  | .div x y => some (1, 0x07, flds (fs x) (fs y) (fn 0))
  | .divu x y => some (1, 0x08, flds (fs x) (fs y) (fn 0))
  | .rem x y => some (1, 0x09, flds (fs x) (fs y) (fn 0))
  | .remu x y => some (1, 0x0A, flds (fs x) (fs y) (fn 0))
  | .madd x y z => some (1, 0x0B, flds (fs x) (fs y) (fs z))
  | .lea x y sh => some (1, 0x0C, ⟨fs x, fs y, fn 0, sh.val⟩)
  | .bext x y z => some (1, 0x0D, flds (fs x) (fs y) (fs z))
  | .bdep x y pos len => some (1, 0x0E, ⟨fs x, fs y, fn 0, (len * 64 + pos.val : Nat)⟩)
  | .sext x n => some (1, 0x0F, ⟨fs x, fn 0, fn 0, n⟩)
  | .zext x n => some (1, 0x10, ⟨fs x, fn 0, fn 0, n⟩)
  | .rotl x y => some (1, 0x11, flds (fs x) (fs y) (fn 0))
  | .bswap x => some (1, 0x12, flds (fs x) (fn 0) (fn 0))
  | .clamp x y z => some (1, 0x13, flds (fs x) (fs y) (fs z))
  | .rdsv i => some (1, 0x14, flds (fn i.val) (fn 0) (fn 0))
  | .wrsv i x => some (1, 0x15, flds (fn i.val) (fs x) (fn 0))
  | .rdtime => some (1, 0x16, flds (fn 0) (fn 0) (fn 0))
  | .ldg w q sc d x v => some (2, 0x01, ⟨.dst d, fs x, fn (w.code * 8 + q.toNat * 4 + sc.code), v⟩)
  | .stg w q sc x y v => some (2, 0x02, ⟨fs x, fs y, fn (w.code * 8 + q.toNat * 4 + sc.code), v⟩)
  | .amoW op sc x y => some (2, 0x03, flds (fs x) (fs y) (fn (op.code * 4 + sc.code)))
  | .amoD op sc x y => some (2, 0x04, flds (fs x) (fs y) (fn (op.code * 4 + sc.code)))
  | .casW sc x y z => some (2, 0x05, ⟨fs x, fs y, fs z, sc.code⟩)
  | .casD sc x y z => some (2, 0x06, ⟨fs x, fs y, fs z, sc.code⟩)
  | .fence k sc e =>
      some (2, 0x07, flds (fn 0) (fn 0)
        (fn (e.toNat * 16 + (match k with | .full => 0 | .acq => 1 | .rel => 2) * 4 + sc.code)))
  | .ifence => some (2, 0x08, flds (fn 0) (fn 0) (fn 0))
  | .flush k l x y =>
      some (2, 0x09, flds (fs x) (fs y)
        (fn ((match l with | .l1 => 0 | .l2 => 1) * 4 + (match k with | .clean => 0 | .cinv => 1 | .inv => 2))))
  | .pref x y l => some (2, 0x0A, ⟨fs x, fs y, fn 0, l.val⟩)
  | .resid x y l => some (2, 0x0B, ⟨fs x, fs y, fn 0, l.val⟩)
  | .vcfg ty fm => some (3, 0x01, flds (fn ty.code) (fn fm.val) (fn 0))
  | .vadd d a b => some (3, 0x02, flds (fn d.val) (fn a.val) (fn b.val))
  | .vsub d a b => some (3, 0x03, flds (fn d.val) (fn a.val) (fn b.val))
  | .vmul d a b => some (3, 0x04, flds (fn d.val) (fn a.val) (fn b.val))
  | .vmulh d a b => some (3, 0x05, flds (fn d.val) (fn a.val) (fn b.val))
  | .vfma d a b => some (3, 0x06, flds (fn d.val) (fn a.val) (fn b.val))
  | .vdiv d a b => some (3, 0x07, flds (fn d.val) (fn a.val) (fn b.val))
  | .vsqrt d a => some (3, 0x08, flds (fn d.val) (fn a.val) (fn 0))
  | .vrcp d a => some (3, 0x09, flds (fn d.val) (fn a.val) (fn 0))
  | .vrsq d a => some (3, 0x0A, flds (fn d.val) (fn a.val) (fn 0))
  | .vexp2 d a => some (3, 0x0B, flds (fn d.val) (fn a.val) (fn 0))
  | .vlog2 d a => some (3, 0x0C, flds (fn d.val) (fn a.val) (fn 0))
  | .vmin d a b => some (3, 0x0D, flds (fn d.val) (fn a.val) (fn b.val))
  | .vmax d a b => some (3, 0x0E, flds (fn d.val) (fn a.val) (fn b.val))
  | .vabs d a => some (3, 0x0F, flds (fn d.val) (fn a.val) (fn 0))
  | .vand d a b => some (3, 0x10, flds (fn d.val) (fn a.val) (fn b.val))
  | .vor d a b => some (3, 0x11, flds (fn d.val) (fn a.val) (fn b.val))
  | .vxor d a b => some (3, 0x12, flds (fn d.val) (fn a.val) (fn b.val))
  | .vbmux d a b lo hi => some (3, 0x13, ⟨fn d.val, fn a.val, fn b.val, (lo.val + 16 * hi.val : Nat)⟩)
  | .vshl d a b => some (3, 0x14, flds (fn d.val) (fn a.val) (fn b.val))
  | .vshr d a b => some (3, 0x15, flds (fn d.val) (fn a.val) (fn b.val))
  | .vsra d a b => some (3, 0x16, flds (fn d.val) (fn a.val) (fn b.val))
  | .vfshl d a b n => some (3, 0x17, ⟨fn d.val, fn a.val, fn b.val, n.val⟩)
  | .vfshr d a b n => some (3, 0x18, ⟨fn d.val, fn a.val, fn b.val, n.val⟩)
  | .vpopc d a => some (3, 0x19, flds (fn d.val) (fn a.val) (fn 0))
  | .vclz d a => some (3, 0x1A, flds (fn d.val) (fn a.val) (fn 0))
  | .vceq fd a b => some (3, 0x1B, flds (fn a.val) (fn b.val) (fn (0x20 + fd.val)))
  | .vclt fd a b => some (3, 0x1C, flds (fn a.val) (fn b.val) (fn (0x20 + fd.val)))
  | .vcle fd a b => some (3, 0x1D, flds (fn a.val) (fn b.val) (fn (0x20 + fd.val)))
  | .vsel d a b => some (3, 0x1E, flds (fn d.val) (fn a.val) (fn b.val))
  | .vsplat d x => some (3, 0x1F, flds (fn d.val) (fs x) (fn 0))
  | .vext a x => some (3, 0x20, flds (fn a.val) (fs x) (fn 0))
  | .vins d x y => some (3, 0x21, flds (fn d.val) (fs x) (fs y))
  | .vperm d a b => some (3, 0x22, flds (fn d.val) (fn a.val) (fn b.val))
  | .vslide d a x => some (3, 0x23, flds (fn d.val) (fn a.val) (fs x))
  | .vred op a => some (3, 0x24, flds (fn a.val) (fn 0) (fn (match op with | .add => 0 | .min => 1 | .max => 2)))
  | .vcvt f g r d a =>
      some (3, 0x25, ⟨fn d.val, fn a.val, fn 0,
        (g.code.2 * 2048 + f.code.2 * 1024 + r.code * 256 + g.code.1 * 16 + f.code.1 : Nat)⟩)
  | .vmask tbl fd fa fb => some (3, 0x26, ⟨fn fa.val, fn fb.val, fn (0x20 + fd.val), tbl.val⟩)
  | .vld d x => some (3, 0x27, flds (fn d.val) (fs x) (fn 0))
  | .vst d x => some (3, 0x28, flds (fn d.val) (fs x) (fn 0))
  | .vldg d x => some (3, 0x29, flds (fn d.val) (fs x) (fn 0))
  | .vstg d x => some (3, 0x2A, flds (fn d.val) (fs x) (fn 0))
  | .vgath d x i => some (3, 0x2B, flds (fn d.val) (fs x) (fn i.val))
  | .vscat d x i => some (3, 0x2C, flds (fn d.val) (fs x) (fn i.val))
  | .mma a x p => some (4, 0x01, flds (fn a.val) (fs x) (fn (0x20 + 2 * p.val)))
  | .mmat a x p => some (4, 0x02, flds (fn a.val) (fs x) (fn (0x20 + 2 * p.val)))
  | .mred i32 a len => some (4, 0x03, ⟨fn a.val, fn 0, fn 0, (i32.toNat * 128 + len : Nat)⟩)
  | .mzero a => some (4, 0x04, flds (fn a.val) (fn 0) (fn 0))
  | .mld a x => some (4, 0x05, flds (fn a.val) (fs x) (fn 0))
  | .mst f r a x => some (4, 0x06, flds (fn a.val) (fs x) (fn (r.code * 16 + f.code)))
  | .amov d a col => some (4, 0x07, ⟨fn d.val, fn a.val, fn 0, col⟩)
  | .mwait a => some (4, 0x08, flds (fn a.val) (fn 0) (fn 0))
  | .copy x y => some (5, 0x01, flds (fs x) (fs y) (fn 0))
  | .copyf x y q s2 => some (5, 0x02, ⟨fs x, fs y, fn (0x20 + 4 * q.val), if s2 then 2 else 1⟩)
  | .gath x y z => some (5, 0x03, flds (fs x) (fs y) (fs z))
  | .stage n => some (5, 0x04, ⟨fn 0, fn 0, fn 0, n⟩)
  | .xdone => some (5, 0x05, flds (fn 0) (fn 0) (fn 0))
  | .einit x y => some (5, 0x06, flds (fs x) (fs y) (fn 0))
  | .eexp x y => some (5, 0x07, flds (fs x) (fs y) (fn 0))
  | .earrn x y => some (5, 0x08, flds (fs x) (fs y) (fn 0))
  | .etest x => some (5, 0x09, flds (fs x) (fn 0) (fn 0))
  | .uien x => some (5, 0x0A, flds (fs x) (fn 0) (fn 0))
  | .uidis => some (5, 0x0B, flds (fn 0) (fn 0) (fn 0))
  | .uiret => some (5, 0x0C, flds (fn 0) (fn 0) (fn 0))
  | .tbegin v => some (6, 0x01, ⟨fn 0, fn 0, fn 0, v⟩)
  | .tend => some (6, 0x02, flds (fn 0) (fn 0) (fn 0))
  | .tabort n => some (6, 0x03, ⟨fn 0, fn 0, fn 0, n⟩)
  | .tstat => some (6, 0x04, flds (fn 0) (fn 0) (fn 0))
  | .tcaddW x y => some (6, 0x05, flds (fs x) (fs y) (fn 0))
  | .tcaddF x y => some (6, 0x06, flds (fs x) (fs y) (fn 0))
  | .tcmaxW x y => some (6, 0x07, flds (fs x) (fs y) (fn 0))
  | .tcminW x y => some (6, 0x08, flds (fs x) (fs y) (fn 0))
  | .tcorD x y => some (6, 0x09, flds (fs x) (fs y) (fn 0))
  | .tdepth => some (6, 0x0A, flds (fn 0) (fn 0) (fn 0))
  | .hsift x y z => some (7, 0x01, flds (fs x) (fs y) (fs z))
  | .vhsift x v z => some (7, 0x02, flds (fs x) (fn v.val) (fs z))
  | .hsort x => some (7, 0x03, flds (fs x) (fn 0) (fn 0))
  | .route x => some (7, 0x04, flds (fs x) (fn 0) (fn 0))
  | .rtbl x => some (7, 0x05, flds (fs x) (fn 0) (fn 0))
  | .mrg x => some (7, 0x06, flds (fs x) (fn 0) (fn 0))
  | .umrg x => some (7, 0x07, flds (fs x) (fn 0) (fn 0))
  | .rmstat x => some (7, 0x08, flds (fs x) (fn 0) (fn 0))
  | .xsend x y w => some (8, 0x01, ⟨fs x, fs y, fn 0, w⟩)
  | .xrecv x w => some (8, 0x02, ⟨fs x, fn 0, fn 0, w⟩)
  | .xput x y => some (8, 0x03, flds (fs x) (fs y) (fn 0))
  | .rput x y v => some (8, 0x04, ⟨fs x, fs y, fn 0, v⟩)
  | .rget d x => some (8, 0x05, flds (.dst d) (fs x) (fn 0))
  | .renq x y => some (8, 0x06, flds (fs x) (fs y) (fn 0))
  | .wenq x y => some (8, 0x07, flds (fs x) (fs y) (fn 0))
  | .qpop x => some (8, 0x08, flds (fs x) (fn 0) (fn 0))
  | .qtry x => some (8, 0x09, flds (fs x) (fn 0) (fn 0))
  | .permit x y => some (8, 0x0A, flds (fs x) (fs y) (fn 0))
  | .walk x => some (8, 0x0B, flds (fs x) (fn 0) (fn 0))
  | .chimex x => some (8, 0x0C, flds (fs x) (fn 0) (fn 0))
  | .succ i x y => some (9, 0x01, flds (fn i.val) (fs x) (fs y))
  | .carve x => some (9, 0x02, flds (fs x) (fn 0) (fn 0))
  | .launch x y => some (9, 0x03, flds (fs x) (fs y) (fn 0))
  | .sig x => some (9, 0x04, flds (fs x) (fn 0) (fn 0))
  | .rdcsr n => some (9, 0x05, ⟨fn 0, fn 0, fn 0, n.code⟩)
  | .wrcsr n x => some (9, 0x06, ⟨fs x, fn 0, fn 0, n.code⟩)
  | .mbox x y => some (9, 0x07, flds (fs x) (fs y) (fn 0))
  | .park x => some (9, 0x08, flds (fs x) (fn 0) (fn 0))
  | .unpark x m => some (9, 0x09, ⟨fs x, fn 0, fn 0, m.code⟩)
  | .rpl x i => some (9, 0x0A, ⟨fs x, fn 0, fn 0, i⟩)
  | .wpl x i y => some (9, 0x0B, ⟨fs x, fs y, fn 0, i⟩)
  | .tlbinv x y => some (9, 0x0C, flds (fs x) (fs y) (fn 0))
  | .pclr x => some (9, 0x0D, flds (fs x) (fn 0) (fn 0))
  | .ctxsave x y => some (9, 0x0E, flds (fs x) (fs y) (fn 0))
  | .ctxload x y => some (9, 0x0F, flds (fs x) (fs y) (fn 0))
  | _ => none

/-- The instruction is a chain of words, not a step of the part. -/
def Instr.isChain (i : Instr) : Bool := i.layout.isSome

/-- The smallest number of IMM chunks, of at most four, whose width satisfies `ok`. -/
def leastChunks (ok : Nat → Bool) : Nat :=
  if ok 0 then 0 else if ok 1 then 1 else if ok 2 then 2 else if ok 3 then 3 else 4

/-- The number of IMM chunks that an immediate takes (R38, R54). -/
def ImmK.chunksOf (k : ImmK) (v : Int) : Nat :=
  match k with
  | .no | .ab10U => 0
  | .immS => leastChunks (fun n => v == 0 || (n != 0 && fitsS (10 * n) v))
  | .immU => leastChunks (fun n => fitsU (10 * n) v.toNat)
  | .b5S => leastChunks (fun n => fitsS (5 + 10 * n) v)
  | .b5U => leastChunks (fun n => fitsU (5 + 10 * n) v.toNat)
  | .ab10S => leastChunks (fun n => fitsS (10 + 10 * n) v)

/-- The bits of the immediate that the base word carries. -/
def ImmK.baseBits : ImmK → Nat
  | .no | .immS | .immU => 0
  | .b5S | .b5U => 5
  | .ab10S | .ab10U => 10

/-- The pattern of an immediate in w bits. -/
def patternOf (w : Nat) (v : Int) : Nat := (v % (2 ^ w : Int)).toNat

/-- The n chunks of a value, the most significant first. -/
def splitChunks : Nat → Nat → List Nat
  | 0, _ => []
  | n + 1, v => (v / 1024 ^ n % 1024) :: splitChunks n v

/-- The chain of a page, an op6 and its fields: PAGE, WIDE, KONST, then the IMM chunks (R54). -/
def chainOf (page op : Nat) (k : ImmK) (f : Fields) : Chain :=
  let ca := f.a.code
  let cb := f.b.code
  let cc := f.c.code
  let n := k.chunksOf f.imm
  let raw := patternOf (k.baseBits + 10 * n) f.imm
  let pg : List Pfx := if page = 0 then [] else [.page page (cc % 64)]
  let wd : List Pfx :=
    if ca / 32 = 0 ∧ cb / 32 = 0 ∧ cc / 64 = 0 then [] else [.wide (ca / 32) (cb / 32) (cc / 64)]
  let kn : List Pfx := match f.a.konst, f.b.konst, f.c.konst with
    | some i, _, _ => [.konst 0 i]
    | none, some i, _ => [.konst 1 i]
    | none, none, some i => [.konst 2 i]
    | none, none, none => []
  let im := (splitChunks n (raw / 2 ^ k.baseBits)).map Pfx.imm
  let a := match k with | .ab10S | .ab10U => raw / 32 % 32 | _ => ca % 32
  let b := match k with | .ab10S | .ab10U | .b5S | .b5U => raw % 32 | _ => cb % 32
  ⟨pg ++ wd ++ kn ++ im, op, a, b⟩

/-- The word of a prefix (R36). -/
def Pfx.word : Pfx → Nat
  | .imm n => 0xF000 + n
  | .wide a b c => 0xF400 + a * 128 + b * 16 + c * 4
  | .page p c => 0xF800 + p * 64 + c
  | .konst t n => 0xFC00 + t * 256 + n

/-- The words of a chain. -/
def Chain.words (ch : Chain) : List Nat := ch.pfx.map Pfx.word ++ [ch.op * 1024 + ch.a * 32 + ch.b]

/-- The words of an instruction; none of a step that no chain starts. DEDUCED: log entry 9. -/
def encode (i : Instr) : List Nat :=
  match i.layout with
  | none => []
  | some (page, op, f) => match form page op with
    | none => []
    | some fm => (chainOf page op fm.imm f).words

/-- A 16-bit word as two bytes, little endian (R1). -/
def bytesOfWords : List Nat → List Byte
  | [] => []
  | w :: t => BitVec.ofNat 8 w :: BitVec.ofNat 8 (w / 256) :: bytesOfWords t

end Sys2Proof
end

