-- ==== Sys2Proof/Config.lean ====
section
/-! DEFINITION. What one part fixes, and the free values: constants with no body, so that nothing can evaluate them.
A free value is applied to the counter State.free, which every use advances. -/

namespace Sys2Proof.Config

/-- A byte that the spec leaves open: the later bytes of a transfer that faulted (R240, R315, R333, R337), general
scratch at launch (R81). DESIGN CHOICE: log entry 10. -/
opaque freeByte : Nat → Byte

/-- The way that a fill of a full L1 set replaces (R146), as an index into the ways of the set.
DESIGN CHOICE: log entries 10, 47. -/
opaque freeWay : Nat → Nat

/-- A choice between written and not written of an element after a faulting one (R240). DESIGN CHOICE: log entry 10. -/
opaque freeBool : Nat → Bool

/-- How many bytes another module had written when it refused or cut off a transfer (R354, R361).
DEDUCED: log entry 30. DESIGN CHOICE: log entry 10. -/
opaque farBytes : Nat → Nat

/-- The strap that sets the bridging of the host bridge (R424). PRESUMED: log entry 5. -/
opaque bridging : Bool

/-- Whether the signature of a firmware image verifies (R427, R428): a function of the image's bytes.
DESIGN CHOICE: log entry 10. -/
opaque imageVerifies : List Byte → Bool

/-- The modules of the domain that are present (R413, R418). DESIGN CHOICE: log entry 10. -/
opaque domain : List Nat

/-- The status word of a scale-up link, whose layout the spec does not give (R413): by link and time.
DESIGN CHOICE: log entries 10, 53. -/
opaque linkStatus : Nat → Nat → Word

/-- A word of the context that a record holds after software has altered it (R403): a function of its bytes.
DESIGN CHOICE: log entry 20. -/
opaque recordWord : List Byte → Nat → Word

/-- A byte of the quote or identity that the boot engine writes (R428): the command, what a quote contains and measures,
and the byte's index. DESIGN CHOICE: log entry 10. -/
opaque bootByte : Nat → List Byte → Nat → Byte

/-- The fused minimum version of a firmware image (R427). DESIGN CHOICE: log entry 10. -/
opaque minVersion : Nat

/-- A byte of the host's own memory, by time and address, as the boot engine reads it in recovery (R427).
DESIGN CHOICE: log entry 10. -/
opaque hostByte : Nat → Nat → Byte

end Sys2Proof.Config
end

