-- ==== Sys2Proof/Machine/State.lean ====
section
/-! DEFINITION. The state of the module: its cores, clusters, dies and package, as plain data, and the state after
reset. INVENTORY.md lists every field with its rule and its reset value. -/

namespace Sys2Proof.Machine

/-! ## Faults of the spec -/

/-- The fault codes of R388, by their order. -/
inductive Code where
  | none | illegal | format | lease | rangelock | xlate | protect | align | poison | carve | maplost | team | brk
  | svc | priv | deadline | remote
deriving DecidableEq, Repr

/-- The number of a fault code (R388). -/
def Code.num : Code → Nat
  | .none => 0x00 | .illegal => 0x01 | .format => 0x02 | .lease => 0x03 | .rangelock => 0x04 | .xlate => 0x05
  | .protect => 0x06 | .align => 0x07 | .poison => 0x08 | .carve => 0x09 | .maplost => 0x0A | .team => 0x0B
  | .brk => 0x0C | .svc => 0x0D | .priv => 0x0E | .deadline => 0x0F | .remote => 0x10

/-- A fault: its code, DETAIL, the physical address of a poisoned line for AUX, and MAL (R389, R399, R431). -/
structure Flt where
  code : Code
  detail : Word := 0
  aux : Word := 0
  mal : Bool := false
deriving DecidableEq, Repr

/-- A memory in canonical form: addresses rising, no byte that equals what an unlisted address reads as (0). -/
abbrev Memory := List Host.Cell

/-! ## Registers of a core -/

/-- A train position: its value, and the tag of the producer it awaits (R82, R83). -/
structure Pos where
  value : Word := 0
  tag : Option Nat := none
deriving DecidableEq, Repr

/-- A result train (R82). -/
abbrev Train := Vector Pos 16

/-- An accumulator bank (R89, R250). -/
abbrev Bank := Vector (Vector Word32 80) 64

/-- The registers of a context (R81, R85). -/
structure Regs where
  train : Train := Vector.replicate 16 {}
  /-- the shadow train of a user-level interrupt handler -/
  shadow : Train := Vector.replicate 16 {}
  k : Vector Word 16 := Vector.replicate 16 0
  /-- shadow k8 to k15 -/
  shadowK : Vector Word 8 := Vector.replicate 8 0
  m : Vector Word 64 := Vector.replicate 64 0
  v : Vector VecReg 32 := Vector.replicate 32 0
  /-- f0 is kept as all ones (R88) -/
  f : Vector MaskReg 8 := (Vector.replicate 8 0).set 0 (BitVec.allOnes 256)
  acc : Vector Bank 4 := Vector.replicate 4 (Vector.replicate 64 (Vector.replicate 80 0))
  sv : Vector Word 32 := Vector.replicate 32 0
deriving DecidableEq, Repr

/-- The control and status registers of a core (R407), each as it reads. GENVAL and the USED and COUNT fields are
views of other state. -/
structure Csrs where
  nflags : Word := 0
  srseed : Word := 0
  vcfg : Word := 0
  awin : Vector Word 7 := Vector.replicate 7 0
  estat : Word := 0
  carvew : Word := 0
  rlstat : Word := 0
  hintdrop : Word := 0
  vshare : Word := 0
  xdone : Word32 := 0
  xnext : Word32 := 0
  xstage : Word := 0
  xstat : Word := 0
  xpart : Word := 0
  /-- EN, ACT and HANDLER; PEND is the length of the queue of flagged completions -/
  uictl : Word := 0
  /-- bits 63:52 of the operand of the latest `uien`, which the first fetch of the handler meets (R247) -/
  uihigh : BitVec 12 := 0
  uira : Word := 0
  txstat : Word := 0
  txts : Word := 0
  txfault : Word := 0
  txfpc : Word := 0
  mstk : Word := 0
  deadline : Word := 0
  mbstat : Word := 0
  astab : Word := 0
deriving DecidableEq, Repr

/-- The generators of a core (R68, R238). -/
structure Gens where
  vec : Vector Word32 64 := Vector.replicate 64 1
  row : Vector Word32 64 := Vector.replicate 64 1
  chan : Word32 := 1
deriving DecidableEq, Repr

/-! ## What a thread is doing -/

/-- Captured operands, as OPA, OPB and OPC (R394). -/
structure Ops where
  a : Word := 0
  b : Word := 0
  c : Word := 0
deriving DecidableEq, Repr

/-- The blocking points at which a thread waits (R21). `yield` never waits. -/
inductive Block where
  | ewait (off par : Nat)
  | await (id : Word32)
  | chime (layer : Option (BitVec 16))
  | wlease (r : LeaseReg)
  | mwait (a : Acc)
  | qpop (dst : Word)
deriving DecidableEq, Repr

/-- What a core does. -/
inductive Run where
  /-- runs no task -/
  | idle
  | running
  | blocked (b : Block)
  /-- the wake of a blocking chain has come, and its acquire waits for the earlier loads (R107, R108, R155); no
  blocking point -/
  | waking (b : Block)
  /-- held by its own chain, with its operands, until a completion: a fence, a release, a renegotiation ... -/
  | held (i : Instr) (ops : Ops)
  | parked
  /-- stopped for an eviction that its team has taken, at a blocking point or after `yield` (R111, R401) -/
  | stopped
  | ended
  /-- a supervisor core after a fault or `end` (R430) -/
  | halted
deriving DecidableEq, Repr

/-- A lease (R90): the register, the tag of its producer, the array stream that holds it, and whether k8 to k15 are the
shadow ones of a handler (R87). -/
structure Lease where
  reg : LeaseReg
  own : Nat
  stream : Option Nat := none
  shadow : Bool := false
deriving DecidableEq, Repr

/-- An entry of the range-lock table (R167): the tag of its operation, kind D, global space, and the rounded span. -/
structure Lock where
  own : Nat
  dst : Bool
  glob : Bool
  low : Nat
  high : Nat
deriving DecidableEq, Repr

/-- An unfinished instruction (R393), or an operation of an array stream (R257). -/
structure Entry where
  tag : Nat
  instr : Instr
  /-- the address of its chain -/
  addr : Word
  ops : Ops := {}
  cfg0 : Word := 0
  cfg1 : Word := 0
  /-- it fills a train position -/
  tr : Bool := false
  flt : Bool := false
  v : Bool := true
  result : Word := 0
  /-- its value is known and waits only to land -/
  ready : Bool := false
  /-- the cycle in which it lands, where that is exact -/
  due : Option Nat := none
  /-- a team instruction whose rendezvous has formed (R265) -/
  met : Bool := false
  /-- it has faulted, and stays in the replay queue until its core goes on (R273, R392) -/
  stuck : Bool := false
  /-- a matrix operation that has started, and its K -/
  started : Bool := false
  k : Nat := 0
  /-- the position of a team instruction in its core's order (R265), or of a flush's walk -/
  seq : Nat := 0
  /-- when it was placed in its stream, among all placements (R258) -/
  placed : Nat := 0
  /-- a transactional access (R283) -/
  tx : Bool := false
  /-- a replayed part of a team instruction, which runs alone (R273) -/
  solo : Bool := false
  /-- issued by a user-level handler: its results go to the shadow train and the shadow k8 to k15 (R85, R87) -/
  shadow : Bool := false
deriving DecidableEq, Repr

/-- An operation of the channel, of a queue delivery, of the routing engine or of the merge engine: what it captured
at issue and how far it has come. -/
structure EngOp where
  /-- the transfer id, where it has one (R227) -/
  id : Word32
  tag : Nat
  instr : Instr
  addr : Word
  /-- captured scalar operands and registers -/
  ops : List Word
  /-- captured record words -/
  recs : List Word
  scope : Scope := .cl
  /-- the channel generator's state at issue (R238) -/
  gen : Word32 := 1
  /-- a held copy of a transaction (R293) -/
  held : Bool := false
  /-- the copy of a `copyf` whose command waits for its stream (R257), or a delivery that waits for a free place -/
  moved : Bool := false
  /-- the place of a waiting command in the order in which the copies ended (R243) -/
  order : Nat := 0
  /-- all that it writes is written; its completion awaits the peers' answers to a write of system scope (R163) -/
  wrote : Bool := false
  /-- its id has completed -/
  done : Bool := false
  /-- a restageable load cancelled at a save (R248) -/
  cancelled : Bool := false
  status : Nat := 0
  part : Nat := 0
deriving DecidableEq, Repr

/-- A plot of a transaction and its sets (R278): its virtual address over 1024, and the physical one, at which its home
meets other requests. -/
structure Plot where
  va : Nat := 0
  plot : Nat
  r : Bool
  w : Bool
  d : Bool
deriving DecidableEq, Repr

/-- A delta (R291): its kind (0 add, 1 fadd, 2 max, 3 min, 4 or), place and value. -/
structure Delta where
  kind : Fin 5
  pa : Nat
  value : Word
deriving DecidableEq, Repr

/-- The transaction of a core (R281): depth 0 when none is open. -/
structure Tx where
  depth : Nat := 0
  train : Train := Vector.replicate 16 {}
  k : Vector Word 16 := Vector.replicate 16 0
  m : Vector Word 64 := Vector.replicate 64 0
  sv : Vector Word 32 := Vector.replicate 32 0
  fallback : Word := 0
  /-- the lines that it has accessed, by address over 128 (R285) -/
  lines : List Nat := []
  /-- the serial number at the outermost `tbegin`: what the core issues from there on is inside the transaction -/
  since : Nat := 0
  plots : List Plot := []
  /-- speculative bytes by physical address -/
  spec : List Host.Cell := []
  /-- the share scope of the page of each line stored to, by address over 128 (R146, R287) -/
  scopes : List (Nat × Scope) := []
  deltas : List Delta := []
  /-- an abort that a home has decided and that takes effect between chains: cause and OTHER -/
  doom : Option (Nat × Nat) := none
deriving DecidableEq, Repr

/-- A running walk (R357, R358): its captured record and layout record, the next tile, each core's credit, and whether
the tile stands written and its arrival awaits the peers' answers (R163). -/
structure Walk where
  wid : Nat
  words : List Word
  layout : List Word
  next : Nat
  credits : List (Nat × Nat)
  wrote : Bool := false
deriving DecidableEq, Repr

/-- The frame of a parked core (R394). Its entries are the core's unfinished instructions. -/
structure Frame where
  code : Code := .none
  dec : Bool := false
  mal : Bool := false
  resume : Word := 0
  detail : Word := 0
  next : Word := 0
  aux : Word := 0
deriving DecidableEq, Repr

/-- What a core knows of its task (R12 to R14, R96). -/
structure Task where
  launch : Nat
  team : Nat
  rank : Nat
  gang : Bool
  ctx : Word32
  asid : Nat
deriving DecidableEq, Repr

/-- The writes into a scratch granule since it was last fresh (R404): whether it is restageable, and its copies. -/
structure Granule where
  g : Nat
  ok : Bool
  copies : List EngOp
deriving DecidableEq, Repr

/-- The fields of an escapement (R99): ARR, RLD, BYT, its phase, and nonzero bits where R99 forbids them. -/
structure Esc where
  arr : Nat
  rld : Nat
  byt : Int
  ph : Nat
  odd : Bool
deriving DecidableEq, Repr

/-- The updates that one cycle brings to an escapement (R101): the escapement, the cycle, its fields before and after
them, whether they held an over-arrival, ESTAT before it, the byte updates' sum where there is one, and the arrivals by
the place of their sender. -/
structure Gather where
  e : Nat
  time : Nat
  base : Esc
  now : Esc
  extra : Bool
  estat : Word
  delta : Option Int
  arrivals : List (Nat × Nat)
deriving DecidableEq, Repr

/-- A remote store that landed in a cycle (R139): the cycle, its sender's core id, and its place and bytes. -/
structure Landing where
  time : Nat
  from_ : Nat
  low : Nat
  len : Nat
deriving DecidableEq, Repr

/-- A core: a tile core or a supervisor core. -/
structure Core where
  who : Agent := .tile 0
  run : Run := .idle
  pc : Word := 0
  /-- the address after the chain being executed (R43) -/
  nextPc : Word := 0
  regs : Regs := {}
  csr : Csrs := {}
  gens : Gens := {}
  task : Option Task := none
  /-- local memory -/
  scratch : Memory := []
  /-- words fetched ahead, by address (R184, R430) -/
  fetched : List (Nat × BitVec 16) := []
  leases : List Lease := []
  locks : List Lock := []
  /-- spans of map slots that the merge engine fills (D) or reads (S); outside the table (R338) -/
  slotLocks : List Lock := []
  /-- the chain at pc has begun to issue and stalls; no interrupt is taken before it issues (R45, R247) -/
  stalling : Bool := false
  /-- the stalled chain has been counted in RLSTAT (R170) -/
  stallCounted : Bool := false
  /-- the id of the first entry that a stalled `stage` has released (R245) -/
  stageId : Option Word32 := none
  entries : List Entry := []
  /-- array streams 1 to 3; stream 0 is the matrix entries -/
  streams : Vector (List Entry) 3 := Vector.replicate 3 []
  /-- team instructions issued (R265), and banks kept for `mred` by position in that order -/
  teamCount : Nat := 0
  mredBanks : List (Nat × Bank) := []
  chan : List EngOp := []
  /-- the scopes of completed operations by id, for the acquire of a later `await` (R108) -/
  idScopes : List (Nat × Scope) := []
  merge : Option EngOp := none
  walks : List Walk := []
  /-- flagged completions: id, status word, scope (R247) -/
  flagged : List (Word32 × Word × Scope) := []
  /-- a chain has retired since the last `uiret` (R247) or abort (R296) -/
  uiReady : Bool := true
  /-- the cycle of the latest `yield`, which decides a tie with the deadline (R111) -/
  yieldAt : Option Nat := none
  tx : Tx := {}
  frame : Frame := {}
  /-- status doublewords of the last `route`, `rtbl`, and merge operations by record (R320) -/
  rmstats : List (Nat × Word) := []
  granules : List Granule := []
  /-- scopes of the engine operations that have counted on an escapement since its `einit` (R103) -/
  escScopes : List (Nat × Scope) := []
  /-- the escapement updates and the remote stores of the latest cycle that brought any (R101, R139) -/
  gathers : List Gather := []
  landings : List Landing := []
deriving DecidableEq, Repr

/-! ## Clusters, dies and the memory system -/

/-- A translation (R396, R399): the address space, the page and its size in bits, and the leaf's fields. -/
structure Tlb where
  asid : Nat
  va : Nat
  bits : Nat
  pa : Nat
  u : Bool
  imm : Bool
  scope : Scope
  x : Bool
  w : Bool
  l : Bool
deriving DecidableEq, Repr

/-- A line of a cluster L1 (R146): its way, its address over 128, its bytes with their valid and dirty masks. -/
structure Line where
  way : Nat
  line : Nat
  data : BitVec 1024
  valid : BitVec 128
  dirty : BitVec 128
  scope : Scope
  imm : Bool
  gen : BitVec 4
  excl : Bool
deriving DecidableEq, Repr

/-- A line of the cluster instruction cache (R184). -/
structure ILine where
  line : Nat
  data : BitVec 1024
  scope : Scope
  imm : Bool
  gen : BitVec 4
deriving DecidableEq, Repr

/-- A cluster (R146 to R148, R184, R399). -/
structure Cluster where
  id : Nat := 0
  gdie : BitVec 4 := 0
  gpkg : BitVec 4 := 0
  gsys : BitVec 4 := 0
  lines : List Line := []
  icache : List ILine := []
  tlb : List Tlb := []
deriving DecidableEq, Repr

/-- The states of a line in an L2 under MOESI (R150); an absent line is I. -/
inductive Moesi where
  | m | o | e | s
deriving DecidableEq, Repr

/-- The residency marks of R190. -/
inductive Mark where
  | normal | keep | stream
deriving DecidableEq, Repr

/-- A line present in a die's L2. -/
structure L2Line where
  die : Nat
  line : Nat
  st : Moesi
  mark : Mark := .normal
deriving DecidableEq, Repr

/-- A message to a supervisor (R389) and the cluster row it left from. -/
structure Msg where
  row : Nat
  w0 : Word
  w1 : Word
  w2 : Word
  w3 : Word
deriving DecidableEq, Repr

/-- A replica table slot of a stand or queued launch (R316): its records, LAYER, and whether it is active. -/
structure Table where
  launch : Nat
  slot : Nat
  active : Bool
  layer : BitVec 16
  words : List Word
deriving DecidableEq, Repr

/-- An engine operation of a core, as a die's engine holds it. -/
structure DieOp where
  who : Agent
  op : EngOp
deriving DecidableEq, Repr

/-- A compute die. -/
structure Die where
  id : Nat := 0
  tlb : List Tlb := []
  /-- posted messages that the row collectors hold, oldest first (R391) -/
  rows : List Msg := []
  mailbox : List Msg := []
  /-- the routing engine's queue (R309) -/
  routes : List DieOp := []
  /-- replica tables, active and staged (R316) -/
  tables : List Table := []
  /-- the weighted round-robin of its dispatcher: level, queue, turns taken (R370) -/
  rounds : List (Nat × Nat × Nat) := []
deriving DecidableEq, Repr

/-! ## Dispatch and exchange -/

/-- A record in a queue (R360): its bytes and, of a `launch`, the issuing core's shape variables. -/
structure QRec where
  bytes : List Byte
  sv : List Word
deriving DecidableEq, Repr

/-- A hardware queue (R369): its descriptor and its records, oldest first. -/
structure Queue where
  idx : Nat := 0
  d0 : Word := 0
  ringVa : Word := 0
  ringSize : Word := 0
  d3 : Word := 0
  recs : List QRec := []
  /-- the ring place up to which the queue has taken the host's records (R425) -/
  prod : Nat := 0
  /-- the records that a doorbell has announced and the queue has still to take -/
  toTake : Nat := 0
deriving DecidableEq, Repr

/-- A window of a stand in the current superstep (R345 to R350). -/
structure Win where
  entry : Word
  /-- the queued send: source address, bytes, COUNT asked for, tag of its producer -/
  send : Option (Nat × Nat × Nat × Nat) := none
  /-- the armed receive: address and tag -/
  recv : Option (Nat × Nat) := none
  /-- the header once the window has started -/
  header : Option Word := none
  /-- the payload has left, and its bytes -/
  sent : Bool := false
  data : List Byte := []
  ended : Bool := false
deriving DecidableEq, Repr

/-- A launch taken from a queue (R363 to R372). -/
structure Launch where
  id : Nat
  queue : Nat
  prio : Nat
  asid : Nat
  words : List Word
  /-- the 32 input values, then the evaluated shape variables (R368) -/
  sv : List Word
  /-- the dependence tokens once met stay met (R365) -/
  met : List Bool
  ready : Bool := false
  nt : Nat := 0
  /-- the indices of its teams that have not started -/
  todo : List Nat := []
  retired : Nat := 0
  /-- the constant block as read (R364, R373) -/
  consts : List Word := []
  /-- the status word that it completes with, as far as known (R364) -/
  code : Nat := 0
  /-- the launch whose chain of kernels it belongs to, and how many such launches wait (R382, R385) -/
  root : Option Nat := none
  children : Nat := 0
  admitted : Bool := false
  /-- the placement that its reservation holds, by team (R372) -/
  place : List (Nat × Nat × Nat) := []
  /-- the bypass counts of its ready teams by index (R370) -/
  bypassed : List (Nat × Nat) := []
  /-- the static copy schedule and the exchange windows as read (R364) -/
  sched : List Word := []
  wins : List Win := []
  superstep : Word := 0
  /-- the cycle of the start release or the last chime release -/
  released : Option Nat := none
  /-- a successor at the head of its level (R382) -/
  atHead : Bool := false
  /-- MSTK.LOST of each core of an inherit-void successor, by team and rank (R341) -/
  lostMaps : List (Nat × Nat) := []
  /-- the module has told the chime root of its arrival (R418) -/
  chimeSent : Bool := false
  /-- a chime release that has come and that a parked member holds up (R26) -/
  told : Option (Option (BitVec 16)) := none
deriving DecidableEq, Repr

/-- A resident team (R14): its launch, its index, and its rectangle on a die's core grid. -/
structure Team where
  id : Nat
  launch : Nat
  idx : Nat
  die : Nat
  gx : Nat
  gy : Nat
  w : Nat
  h : Nat
  /-- the launch record of the kernel that the slot runs, which a successor replaces -/
  words : List Word
  /-- the static copy schedule of that kernel (R245) -/
  sched : List Word
deriving DecidableEq, Repr

/-- A save that `ctxsave` asked for (R401). -/
structure Save where
  team : Nat
  area : Nat
  disc : Bool
  due : Option Nat
  die : Nat
  /-- the members have been stopped by force -/
  forced : Bool := false
deriving DecidableEq, Repr

/-- A saved context (R403): the team id of its header, its area, the bytes of one core's record, and where in the free
values the bytes of the records begin. -/
structure Saved where
  team : Nat
  area : Nat
  csz : Nat
  free : Nat
  teams : List Team
  cores : List Core
  launch : Nat
  /-- saved by force -/
  forced : Bool
  disc : Bool
  /-- a `ctxload` has asked for it back -/
  asked : Bool := false
  /-- the die whose supervisor asked for the save -/
  die : Nat := 0
deriving DecidableEq, Repr

/-! ## Ports -/

/-- A message that the module sent on the fabric: those of R418, and the requests of the transaction layer (R416): a
line asked for, to read or to own, bytes read, bytes written, an atomic, and those of an `xput`.
DEDUCED: log entry 54. -/
inductive FabMsg where
  | inv (to_ line : Nat)
  | invack (to_ line : Nat)
  | get (to_ line : Nat) (own : Bool)
  | grant (to_ line : Nat) (data : List Byte)
  | poison (to_ line : Nat)
  | load (pa n : Nat)
  /-- with its tag (R419) -/
  | atomic (tag pa n : Nat) (i : Instr) (ops : Ops)
  | wback (to_ line : Nat) (data : List Byte)
  | chimearr (to_ launch : Nat) (given : List (Option (BitVec 16)))
  | chimerel (to_ launch : Nat) (release : Option (Option (BitVec 16)))
  | qrec (to_ : Nat) (id : Word32) (handle : Word) (rec : List Byte) (sv : List Word) (payload : Option (Nat × List Byte))
  | qack (to_ : Nat) (id : Word32) (code : Nat)
  | tlbinv (to_ : Nat) (addr sel : Word)
  | tlback (to_ : Nat)
  | store (pa : Nat) (data : List Byte)
  /-- bytes of an `xput` for a core's scratch, and the update of its escapement -/
  | put (to_ core off : Nat) (data : List Byte)
  | count (to_ core e n : Nat)
  | frame (port : Nat) (half : Bool) (data : List Byte)
  | notice (vector : Nat)
deriving DecidableEq, Repr

/-- A line of this module's home that a peer holds (R152). -/
structure PeerLine where
  line : Nat
  mod : Nat
  own : Bool
deriving DecidableEq, Repr

/-- An arrival on its way to an escapement of another core (R103). -/
structure Arrival where
  n : Nat
  from_ : Nat
  core : Nat
  off : Nat
  count : Nat
  /-- a byte update in place of arrivals (R239) -/
  bytes : Int
  scope : Scope
deriving DecidableEq, Repr

/-- The registers and records of the port dies (R413 to R428). -/
structure Ports where
  modid : BitVec 9 := 0
  ready : BitVec 64 := 0
  failed : BitVec 64 := 0
  linkup : BitVec 32 := 0
  psctl : Word := 0
  tstat : Word := 0
  /-- commanded and actual gate words: three of each die (R421) -/
  gateCmd : Vector Word 24 := Vector.replicate 24 0
  gateSts : Vector Word 24 := Vector.replicate 24 0
  /-- the cycle of an alarm on which the host has not acted (R423) -/
  alarmAt : Option Nat := none
  hwin : Word := 0
  fwCmd : Word := 0
  fwBuf : Word := 0
  fwLen : Word := 0
  fwSt : Word := 1
  /-- the stored image and whether it verified (R427) -/
  image : List Byte := []
  imageOk : Bool := false
  /-- the stored image did not verify: only the firmware mailbox is served (R427) -/
  recovery : Bool := false
  /-- the firmware request in progress (R428) -/
  fwBusy : Option Nat := none
  /-- the Ethernet ports that are split, as the host selected before their READY bits set (R420) -/
  split : BitVec 8 := 0
  /-- host vectors raised, oldest first (R426) -/
  vectors : List Nat := []
  /-- fabric messages sent, oldest first, and the scale-up link that each took (R417) -/
  sent : List (Option Nat × FabMsg) := []
  /-- chime arrivals of other modules of a stand: launch, module, and the chimes given there, each once -/
  chimes : List (Nat × Nat × List (Option (BitVec 16))) := []
  /-- invalidations that await INVACK, as line and module (R156) -/
  invs : List (Nat × Nat) := []
  /-- completion counters that step once those invalidations are acknowledged (R366, R420) -/
  owed : List Nat := []
  /-- the tag of the next atomic that goes to another module (R419) -/
  atomTag : Nat := 0
  /-- modules that have not answered a translation invalidation (R400) -/
  tlbs : List Nat := []
  /-- the peer directory: 2 KiB regions and their sharers; none is the broadcast mark (R152) -/
  peers : List (Nat × Option (List Nat)) := []
  /-- the lines of this home that peers hold: line, module, and whether it may be modified there (R152, R192) -/
  held : List PeerLine := []
  /-- posted writes that wait for memory that is not READY, oldest first (R415, R425) -/
  posted : List (Nat × List Byte) := []
  /-- host reads that wait for such memory or behind such a write: address and bytes, oldest first -/
  hostWait : List (Nat × Nat) := []
  /-- what the last host read returned (R425) -/
  hostData : List Byte := []
deriving DecidableEq, Repr

/-! ## The module -/

/-- A line of an operand that one member of a team has fetched for a team operation, which every member that needs it
takes (R256): the team, the place of the operation in its order, the virtual address over 128, and the bytes. -/
structure TileLine where
  team : Nat
  seq : Nat
  line : Nat
  data : List Byte
deriving DecidableEq, Repr

/-- What moves next. -/
inductive Choice where
  /-- a step of the part that no chain starts -/
  | event (i : Instr)
  /-- the core whose chain issues next -/
  | turn (a : Agent)
deriving DecidableEq, Repr

/-- The state of the module. -/
structure State where
  /-- the core whose turn it is -/
  core : Core := {}
  /-- the other cores that are not as after reset -/
  others : List Core := []
  clusters : List Cluster := []
  dies : List Die := []
  /-- the package time counter (R9) -/
  time : Nat := 0
  /-- global memory by 56-bit physical address, as performed at an L2 or a home -/
  mem : Memory := []
  l2 : List L2Line := []
  /-- the lines that tile fetch units pin, by die, and those that they hold for a team operation (R256) -/
  pins : List (Nat × Nat) := []
  tileLines : List TileLine := []
  /-- poisoned lines (R192) -/
  poison : List Nat := []
  arrivals : List Arrival := []
  queues : List Queue := []
  /-- completion counters that are not zero (R365) -/
  counters : List (Nat × Word) := []
  launches : List Launch := []
  teams : List Team := []
  saves : List Save := []
  saved : List Saved := []
  ports : Ports := {}
  /-- team and context ids given, launches taken. DESIGN CHOICE: log entry 4. -/
  teamIds : Nat := 1
  ctxIds : Nat := 1
  launchIds : Nat := 1
  /-- the model's own: what moves next, whose turn it is between threads and engines, the next tag, and the counter of
  free values -/
  agenda : List Choice := []
  engTurn : Bool := false
  rr : Nat := 0
  serial : Nat := 1
  free : Nat := 0
deriving DecidableEq, Repr

/-- The reasons for which the machine stops. No meaning raises one: every trap of the spec is a next state. -/
inductive Fault where
  /-- raised by nothing; kept so that the outcome has a fault type. Safe. -/
  | stuck
deriving DecidableEq, Repr

/-- The reasons for which an instruction has no meaning. -/
inductive Refusal where
  /-- raised by an arm of exec that has no meaning yet; safe, since the run stops there -/
  | notModelled (mnemonic : String)
deriving DecidableEq, Repr

/-- The generators as SEED 0 leaves them (R68, R238); written out here so that State depends on no arithmetic. -/
def seedGen (k : Nat) : Word32 :=
  let s : Word32 := BitVec.ofNat 32 (k * 0x9E3779B9)
  if s = 0 then 1 else s

/-- Generators seeded from SEED 0. DESIGN CHOICE: log entry 1. -/
def Gens.seeded : Gens where
  vec := Vector.ofFn fun i => seedGen (i.val + 1)
  row := Vector.ofFn fun i => seedGen (i.val + 65)
  chan := seedGen 129

/-- A core after module reset. The supervisor core is taken as S = 16 (R430). DESIGN CHOICE: log entry 1. -/
def Core.reset (who : Agent) : Core :=
  { who := who
    gens := Gens.seeded
    csr := { carvew := match who with | .sup _ => 16 | .tile _ => 0 } }

/-- The module right after reset: no task runs, every table at its reset value, PSCTL as R421 gives.
DESIGN CHOICE: log entries 1, 8. -/
def State.reset : State :=
  { core := Core.reset (.tile 0)
    ports := { psctl := 0x0BB8151800645F00 } }

end Sys2Proof.Machine
end

