-- ==== Sys2Proof/Machine/Mem.lean ====
section
/-! DEFINITION. Bytes, memories in canonical form, and the places of the part: agents, clusters, dies and their
records in State. -/

namespace Sys2Proof.Machine

/-! ## Memories -/

/-- The byte at an address; an unlisted address reads 0. DESIGN CHOICE: log entry 2. -/
def Memory.read : Memory → Nat → Byte
  | [], _ => 0
  | (k, v) :: t, a => if a = k then v else if a < k then 0 else Memory.read t a

/-- Write one byte, keeping the canonical form: writing 0 removes the entry. DESIGN CHOICE: log entry 2. -/
def Memory.write : Memory → Nat → Byte → Memory
  | [], a, v => if v = 0 then [] else [(a, v)]
  | (k, w) :: t, a, v =>
    if a < k then (if v = 0 then (k, w) :: t else (a, v) :: (k, w) :: t)
    else if a = k then (if v = 0 then t else (a, v) :: t)
    else (k, w) :: Memory.write t a v

/-- The canonical form above a bound: addresses strictly rising, no entry 0. -/
def Memory.wfFrom : Nat → Memory → Bool
  | _, [] => true
  | lo, (k, v) :: t => decide (lo ≤ k) && decide (v ≠ 0) && Memory.wfFrom (k + 1) t

/-- The canonical form of a memory. DESIGN CHOICE: log entry 2. -/
def Memory.wf (m : Memory) : Bool := Memory.wfFrom 0 m

/-- n bytes from an address upwards. -/
def Memory.readBytes (m : Memory) (a n : Nat) : List Byte := (List.range n).map fun i => m.read (a + i)

/-- Write bytes from an address upwards. -/
def Memory.writeBytes : Memory → Nat → List Byte → Memory
  | m, _, [] => m
  | m, a, b :: t => Memory.writeBytes (m.write a b) (a + 1) t

/-- The little-endian number of bytes (R1). -/
def natOfBytes : List Byte → Nat
  | [] => 0
  | b :: t => b.toNat + 256 * natOfBytes t

/-- The n low bytes of a number, little endian (R1). -/
def bytesOfNat : Nat → Nat → List Byte
  | 0, _ => []
  | n + 1, v => BitVec.ofNat 8 v :: bytesOfNat n (v / 256)

/-- The little-endian number in n bytes of memory. -/
def Memory.readNat (m : Memory) (a n : Nat) : Nat := natOfBytes (m.readBytes a n)

/-- Store the n low bytes of a number. -/
def Memory.writeNat (m : Memory) (a n v : Nat) : Memory := m.writeBytes a (bytesOfNat n v)

/-- A doubleword of memory. -/
def Memory.word (m : Memory) (a : Nat) : Word := BitVec.ofNat 64 (m.readNat a 8)

/-- n doublewords of memory. -/
def Memory.words (m : Memory) (a n : Nat) : List Word := (List.range n).map fun i => m.word (a + 8 * i)

/-- The bytes of doublewords. -/
def bytesOfWords64 (ws : List Word) : List Byte := ws.flatMap fun w => bytesOfNat 8 w.toNat

/-- The doublewords of bytes. -/
def wordsOf (bs : List Byte) : List Word :=
  (List.range (bs.length / 8)).map fun i => BitVec.ofNat 64 (natOfBytes ((bs.drop (8 * i)).take 8))

/-- Bits hi to lo of a word, as a number. -/
def fld (x : Word) (hi lo : Nat) : Nat := x.toNat / 2 ^ lo % 2 ^ (hi + 1 - lo)

/-- Word i of a record; 0 beyond it. -/
def wordAt (r : List Word) (i : Nat) : Word := r.getD i 0

/-- ceildiv. -/
def ceilDiv (a b : Nat) : Nat := (a + b - 1) / b

/-! ## Lists of records -/

/-- Replace the record of a key, or add it in order of keys. -/
def upsert {α : Type} (key : α → Nat) (x : α) : List α → List α
  | [] => [x]
  | y :: t => if key x = key y then x :: t else if key x < key y then x :: y :: t else y :: upsert key x t

/-- The record of a key. -/
def lookup {α : Type} (key : α → Nat) (k : Nat) (xs : List α) : Option α := xs.find? fun x => key x == k

/-! ## Agents and places (R8) -/

/-- The number of an agent, its own: even of a tile core, odd of a supervisor core. -/
def agentKey : Agent → Nat
  | .tile id => 2 * id
  | .sup d => 2 * d + 1

/-- The cluster of a core. -/
def clusterOf (id : Nat) : Nat := id / 4
/-- Mesh coordinates of a cluster. -/
def meshX (c : Nat) : Nat := c % 16
def meshY (c : Nat) : Nat := c / 16
/-- The die of a cluster. -/
def dieOfCluster (c : Nat) : Nat := meshY c / 10 * 2 + meshX c / 8
/-- The cluster's index within its die. -/
def indexInDie (c : Nat) : Nat := meshY c % 10 * 8 + meshX c % 8
/-- The global cluster number of a die's cluster (R8). -/
def clusterId (d i : Nat) : Nat := (d / 2 * 10 + i / 8) * 16 + d % 2 * 8 + i % 8
/-- The core's position on its die's grid. -/
def gridX (id : Nat) : Nat := meshX (id / 4) % 8 * 2 + id % 2
def gridY (id : Nat) : Nat := meshY (id / 4) % 10 * 2 + id % 4 / 2
/-- The core at a grid position of a die. -/
def coreAt (d gx gy : Nat) : Nat := ((d / 2 * 10 + gy / 2) * 16 + d % 2 * 8 + gx / 2) * 4 + gy % 2 * 2 + gx % 2
/-- The die of an agent. -/
def dieOf : Agent → Nat
  | .tile id => dieOfCluster (clusterOf id)
  | .sup d => d

/-- A tile core's global core id; 0xFFF of a supervisor core. -/
def coreId : Agent → Nat
  | .tile id => id
  | .sup _ => 0xFFF

/-! ## Cores, clusters, dies of the state -/

/-- A core of the module; one that is not listed is as after reset. -/
def State.getCore (s : State) (a : Agent) : Core :=
  if a = s.core.who then s.core
  else match s.others.find? fun c => c.who == a with
    | some c => c
    | none => Core.reset a

/-- Put a core back. -/
def State.setCore (s : State) (c : Core) : State :=
  if c.who = s.core.who then { s with core := c }
  else { s with others := upsert (fun c => agentKey c.who) c s.others }

/-- Change a core. -/
def State.modCore (s : State) (a : Agent) (f : Core → Core) : State := s.setCore (f (s.getCore a))

/-- Give the turn to a core. -/
def State.focus (s : State) (a : Agent) : State :=
  if a = s.core.who then s
  else
    { s with
      core := s.getCore a
      others := upsert (fun c => agentKey c.who) s.core (s.others.filter fun c => c.who != a) }

/-- Every core that is not as after reset. -/
def State.cores (s : State) : List Core := s.core :: s.others

/-- A cluster. -/
def State.cluster (s : State) (id : Nat) : Cluster := (lookup Cluster.id id s.clusters).getD { id := id }
/-- Put a cluster back. -/
def State.setCluster (s : State) (c : Cluster) : State := { s with clusters := upsert Cluster.id c s.clusters }
/-- A die. -/
def State.die (s : State) (id : Nat) : Die := (lookup Die.id id s.dies).getD { id := id }
/-- Put a die back. -/
def State.setDie (s : State) (d : Die) : State := { s with dies := upsert Die.id d s.dies }
/-- A launch. -/
def State.launchOf (s : State) (id : Nat) : Option Launch := lookup Launch.id id s.launches
/-- Put a launch back. -/
def State.setLaunch (s : State) (l : Launch) : State := { s with launches := upsert Launch.id l s.launches }
/-- A team. -/
def State.teamOf (s : State) (id : Nat) : Option Team := lookup Team.id id s.teams
/-- Put a team back. -/
def State.setTeam (s : State) (t : Team) : State := { s with teams := upsert Team.id t s.teams }
/-- A queue. -/
def State.queue (s : State) (i : Nat) : Queue := (lookup Queue.idx i s.queues).getD { idx := i, d0 := BitVec.ofNat 64 (2 ^ 51 + 8 * 2 ^ 45 + i) }
/-- Put a queue back. -/
def State.setQueue (s : State) (q : Queue) : State := { s with queues := upsert Queue.idx q s.queues }
/-- A completion counter (R365). -/
def State.counter (s : State) (i : Nat) : Word := ((s.counters.find? fun p => p.1 == i).map Prod.snd).getD 0
/-- A valid dependence token is met by a value of its counter (R365). -/
def tokenMet (w : Word) (v : Word) : Bool := decide ((fld v 47 0 + 2 ^ 48 - fld w 47 0) % 2 ^ 48 < 2 ^ 47)

/-- A launch sees a counter: a token once met stays met (R365). -/
def Launch.see (l : Launch) (i : Nat) (v : Word) : Launch :=
  { l with met := (List.range 4).map fun k =>
      l.met.getD k false || (fld (wordAt l.words (10 + k)) 62 48 == i && tokenMet (wordAt l.words (10 + k)) v) }

/-- Write a completion counter; the launches that depend on it see its value. -/
def State.setCounter (s : State) (i : Nat) (v : Word) : State :=
  { s with
    counters := if v = 0 then s.counters.filter fun p => p.1 != i else upsert Prod.fst (i, v) s.counters
    launches := s.launches.map fun l => l.see i v }

/-- A completion counter steps. -/
def State.stepCounterOf (s : State) (i : Nat) : State := s.setCounter i (s.counter i + 1)

/-- A completion counter steps after a write of system scope: once its invalidations are acknowledged (R156, R366, R420).
-/
def State.oweStep (s : State) (i : Nat) : State :=
  if s.ports.invs.isEmpty then s.stepCounterOf i
  else { s with ports := { s.ports with owed := s.ports.owed ++ [i] } }

/-- Where every invalidation is acknowledged, the counters that wait for it step. -/
def State.payOwed (s : State) : State :=
  if s.ports.invs.isEmpty then
    s.ports.owed.foldl State.stepCounterOf { s with ports := { s.ports with owed := [] } }
  else s

/-- The member of a team at a rank (R13). -/
def Team.member (t : Team) (rank : Nat) : Agent := .tile (coreAt t.die (t.gx + rank % t.w) (t.gy + rank / t.w))
/-- The number of members. -/
def Team.size (t : Team) : Nat := t.w * t.h
/-- The members in rank order. -/
def Team.members (t : Team) : List Agent := (List.range t.size).map t.member

/-- The resident teams of a launch. -/
def State.teamsOf (s : State) (launch : Nat) : List Team := s.teams.filter fun t => t.launch == launch

/-- The agents that a task may name (R100, R239, R355): its team in the queued class, its stand in the gang class. -/
def State.partners (s : State) (t : Task) : List Agent :=
  if t.gang then (s.teamsOf t.launch).flatMap Team.members
  else match s.teamOf t.team with
    | some tm => tm.members
    | none => []

/-- The core belongs to the team or stand of a core's task. -/
def State.isPartner (s : State) (c : Core) (id : Nat) : Bool :=
  match c.task with
  | some t => (s.partners t).contains (.tile id)
  | none => false

/-- The core runs as a supervisor core. -/
def Core.isSup (c : Core) : Bool := match c.who with | .sup _ => true | .tile _ => false

/-- A fresh tag. -/
def State.fresh (s : State) : State := { s with serial := s.serial + 1 }

/-- Advance the counter of free values. DESIGN CHOICE: log entry 10. -/
def State.useFree (s : State) (n : Nat) : State := { s with free := s.free + n }

/-! ## Local memory (R93, R94) -/

/-- Scratch granules S: CARVEW.SCRATCH. -/
def Core.scr (c : Core) : Nat := fld c.csr.carvew 5 0
/-- Cache granules C: CARVEW.CACHE. -/
def Core.cacheGr (c : Core) : Nat := fld c.csr.carvew 11 6
/-- The first offset above scratch. -/
def Core.top (c : Core) : Nat := c.scr * 0x4000

/-- A store by the core itself to an offset of the constant window is refused (R94), but on a supervisor core (R430). -/
def Core.constOff (c : Core) (o : Nat) : Bool := !c.isSup && decide (o < 0x800)

/-- The scratch granules that n bytes from an offset touch. -/
def granulesOf (o n : Nat) : List Nat :=
  if n = 0 then [] else (List.range ((o + n - 1) / 0x4000 + 1 - o / 0x4000)).map fun i => o / 0x4000 + i

/-- Store bytes in local memory. A write that is not a copy's clears the restageable property of its granules; granules
0 and 1 never have it (R404). -/
def Core.storeLocal (c : Core) (o : Nat) (bs : List Byte) : Core :=
  { c with
    scratch := c.scratch.writeBytes o bs
    granules := (granulesOf o bs.length).foldl (fun gs g =>
      if g < 2 then gs else upsert Granule.g { g := g, ok := false, copies := [] } gs) c.granules }

/-- A constant-window word c0 to c255, an ordinary local read (R39, R96). -/
def Core.constWord (c : Core) (i : Nat) : Word := c.scratch.word (8 * i)

end Sys2Proof.Machine
end

