-- ==== Sys2Proof/Machine/Memory.lean ====
section
/-! DEFINITION. The memory engine (06_memory_model.md, 07_memory_ops.md): messages to supervisors, physical space,
translation, the L2s with their directory, the cluster L1, acquires and releases, and what engines read and write. -/

namespace Sys2Proof.Machine

/-- What an access or a check answers: a value, a fault, or that it cannot go on yet. -/
inductive Res (α : Type) where
  | ok (a : α)
  | bad (f : Flt)
  | wait
deriving DecidableEq, Repr

/-- Go on with the value. -/
def Res.andThen {α β : Type} (r : Res α) (f : α → Res β) : Res β :=
  match r with
  | .ok a => f a
  | .bad e => .bad e
  | .wait => .wait

/-- A check: nothing, or a fault. -/
def Res.unless (c : Bool) (f : Flt) : Res Unit := if c then .ok () else .bad f

/-- The kinds of access of R398. -/
inductive Kind where
  | rd | wr | at_ | ex
deriving DecidableEq, Repr

/-- The access writes. -/
def Kind.writes : Kind → Bool
  | .rd | .ex => false
  | .wr | .at_ => true

/-- The number of a scope (R27). -/
def scopeNum : Scope → Nat
  | .cl => 0 | .die => 1 | .pkg => 2 | .sys => 3

/-- The scope of a number (R27). -/
def scopeOf (n : Nat) : Scope :=
  match n % 4 with
  | 0 => .cl | 1 => .die | 2 => .pkg | _ => .sys

/-- The wider of two scopes. -/
def scopeMax (x y : Scope) : Scope := if scopeNum x < scopeNum y then y else x

/-! ## Messages to a supervisor (R389 to R391) -/

/-- The context id of a core's task. -/
def Core.ctx (c : Core) : Word32 := match c.task with | some t => t.ctx | none => 0

/-- The address space of a core's task. -/
def Core.asid (c : Core) : Nat := match c.task with | some t => t.asid | none => 0

/-- The kinds of R389. -/
def kindPark : Nat := 0
def kindNotice : Nat := 1
def kindSoft : Nat := 2

/-- A message of a core (R389); word 1 is given whole. -/
def Core.message (c : Core) (kind code : Nat) (mal : Bool) (w1 aux : Word) : Msg :=
  let low := (if mal then 2048 else 0) + kind * 256 + code
  match c.who with
  | .tile id =>
    let cl := clusterOf id
    let row := indexInDie cl / 8
    let bit := indexInDie cl % 8 * 4 + id % 4
    { row := row, w0 := BitVec.ofNat 64 (2 ^ (32 + bit) + row * 4096 + low), w1 := w1, w2 := aux
      w3 := BitVec.ofNat 64 (id * 2 ^ 32 + c.ctx.toNat) }
  | .sup _ => { row := 0, w0 := BitVec.ofNat 64 low, w1 := w1, w2 := aux, w3 := BitVec.ofNat 64 (0xFFF * 2 ^ 32) }

/-- The KIND of a message. -/
def Msg.kind (m : Msg) : Nat := fld m.w0 10 8

/-- The shared entries of a row collector have room (R391). -/
def Die.sharedRoom (d : Die) (row : Nat) : Bool :=
  ((d.rows.filter fun m => m.row == row && m.kind != kindPark).length < 32)

/-- A notice is dropped: MBSTAT.LOST counts it, saturating (R391). -/
def Core.countLost (c : Core) : Core :=
  let n := min (fld c.csr.mbstat 47 32 + 1) 0xFFFF
  { c with csr := { c.csr with mbstat := BitVec.ofNat 64 (n * 2 ^ 32) } }

/-- Post a message in its row collector. A park message always has its entry (R391). -/
def State.post (s : State) (die : Nat) (m : Msg) : State :=
  let d := s.die die
  if m.kind = kindPark ∨ d.sharedRoom m.row then s.setDie { d with rows := d.rows ++ [m] }
  else s.modCore (.sup die) Core.countLost

/-- A notice of an engine about a core's operation (R388, R389): the fault's code, MAL and detail, and AUX. -/
def State.noticeOf (s : State) (c : Core) (f : Flt) (aux : Word) : State :=
  s.post (dieOf c.who) (c.message kindNotice f.code.num f.mal (f.detail &&& 0xFFFFFFFFFFFFF) aux)

/-- A notice of a code. -/
def State.notice (s : State) (c : Core) (code : Code) (detail aux : Word) : State :=
  s.noticeOf c { code := code, detail := detail } aux

/-- A notice of an engine's fault: AUX is the poisoned line of POISON, else the transfer id (R389). -/
def State.noticeFlt (s : State) (c : Core) (f : Flt) (id : Word) : State :=
  s.noticeOf c f (if f.code = .poison then f.aux else id)

/-! ## Physical space (R142, R143, R415) -/

/-- The module and the local address of a physical address. -/
def modOf (pa : Nat) : Nat := pa / 2 ^ 47
def lpaOf (pa : Nat) : Nat := pa % 2 ^ 47
/-- The end of HBM: 768 * 10^9. -/
def hbmEnd : Nat := 768000000000
/-- The first address of device register space. -/
def devBase : Nat := 0x700000000000
/-- The home stack, its die, and the slice and set of an L2 that cache an address (R143). -/
def stackOf (pa : Nat) : Nat := lpaOf pa / 4096 % 16
def homeDie (pa : Nat) : Nat := stackOf pa / 2
def l2Slice (pa : Nat) : Nat := Nat.xor (lpaOf pa / 128 % 32) (lpaOf pa / 65536 % 32)
def l2Set (pa : Nat) : Nat := lpaOf pa / 4096 % 1024

/-- The module's own id. -/
def State.self (s : State) : Nat := s.ports.modid.toNat

/-- The other modules of the domain. -/
def State.otherModules (s : State) : List Nat := Config.domain.filter fun m => m != s.self && decide (m < 256)

/-- The address lies on another module. -/
def State.foreign (s : State) (pa : Nat) : Bool := modOf pa != s.self

/-! ## Links (R417) -/

/-- The first link at or above h, counting cyclically, that is up: LMAP[h] (R417). -/
def State.linkAt (s : State) (h : Nat) : Option Nat :=
  ((List.range 32).map fun i => (h + i) % 32).find? fun n => s.ports.linkup.getLsbD n

/-- The hash of a line's address (R417). -/
def linkHash (pa : Nat) : Nat := Nat.xor (lpaOf pa / 128 % 32) (lpaOf pa / 4096 % 32)

/-- The link that a message takes: a line's by its hash, else the lowest that is up; Ethernet takes none (R417). -/
def State.linkOf (s : State) : FabMsg → Option Nat
  | .inv _ l | .invack _ l | .get _ l _ | .grant _ l _ | .poison _ l | .wback _ l _ => s.linkAt (linkHash (l * 128))
  | .load pa _ | .atomic _ pa _ _ _ | .store pa _ => s.linkAt (linkHash pa)
  | .frame _ _ _ => none
  | _ => s.linkAt 0

/-- Send a message on the fabric. DEDUCED: log entry 54. -/
def State.send (s : State) (m : FabMsg) : State :=
  { s with ports := { s.ports with sent := s.ports.sent ++ [(s.linkOf m, m)] } }

/-- Raise a host vector: at the bridging module an interrupt, elsewhere a NOTICE message (R426).
DEDUCED: log entry 38. PRESUMED: log entry 5. -/
def State.raise (s : State) (v : Nat) : State :=
  let n := 32 * (s.ports.modid.toNat % 64) + v
  { s with ports :=
      if Config.bridging then { s.ports with vectors := s.ports.vectors ++ [n] } else (s.send (.notice n)).ports }

/-- PSCTL.PST (R421). -/
def Ports.pst (p : Ports) : Nat := fld p.psctl 3 2

/-- Whether memory at a physical address can be reached (R142, R174, R415); in state off no HBM answers (R421). -/
def State.reach (s : State) (pa : Nat) (detail : Word) : Res Unit :=
  let no := Res.bad { code := .protect, detail := detail }
  if 256 ≤ modOf pa ∨ hbmEnd ≤ lpaOf pa then no
  else if s.foreign pa then (if s.ports.linkup = 0 then no else .ok ())
  else if s.ports.failed.getLsbD (8 + stackOf pa) then no
  else if s.ports.pst = 3 then .wait
  else if s.ports.ready.getLsbD (8 + stackOf pa) then .ok ()
  else .wait

/-- The line is poisoned (R192). -/
def State.poisoned (s : State) (pa : Nat) : Bool := s.poison.contains (pa / 128)

/-- The POISON fault of an access (R193): the access address, and the line's physical address. -/
def poisonFlt (detail : Word) (pa : Nat) : Flt :=
  { code := .poison, detail := detail, aux := BitVec.ofNat 64 (pa / 128 * 128) }

/-! ## Translation (R396 to R399) -/

/-- The entry translates an address. -/
def Tlb.covers (t : Tlb) (asid va : Nat) : Bool := t.asid == asid && t.va / 2 ^ t.bits == va / 2 ^ t.bits

/-- The physical address under an entry. -/
def Tlb.phys (t : Tlb) (va : Nat) : Nat := t.pa + va % 2 ^ t.bits

/-- What a page permits, to a tile task or to the dispatch engine (R145, R398). -/
def Tlb.permits (t : Tlb) (tile : Bool) (k : Kind) : Bool :=
  (t.u || !tile) && match k with
  | .rd => t.l
  | .wr => t.w && !t.imm
  | .at_ => t.l && t.w && !t.imm
  | .ex => t.x

/-- The bits below which a level's index lies, its mask, and the size of the table below it (R396). -/
def levelShift : Nat → Nat
  | 0 => 39 | 1 => 30 | 2 => 21 | _ => 16
def levelEntries : Nat → Nat
  | 0 => 8192 | 1 => 512 | 2 => 512 | _ => 32
def nextSize : Nat → Nat
  | 0 => 4096 | 1 => 4096 | _ => 256

/-- The physical address of the entry of a table that a walk reads. -/
def entryAt (level va table : Nat) : Nat := table + 8 * (va / 2 ^ levelShift level % levelEntries level)

/-- The physical address of an address space's entry in the table of a die's ASTAB (R396). -/
def State.rootAt (s : State) (die asid : Nat) : Nat := fld (s.getCore (.sup die)).csr.astab 55 19 * 2 ^ 19 + 8 * asid

/-- The walk from a table of level `4 - fuel`, in the state in which its entries have been read (R397, R398). -/
def State.walkFrom (s : State) (asid va : Nat) : Nat → Nat → Res Tlb
  | 0, _ => .bad { code := .xlate, detail := BitVec.ofNat 64 va, mal := true }
  | fuel + 1, table =>
    let level := 3 - fuel
    let detail := BitVec.ofNat 64 va
    let ea := entryAt level va table
    let mal : Res Tlb := .bad { code := .xlate, detail := detail, mal := true }
    (s.reach ea detail).andThen fun _ =>
    if s.poisoned ea then .bad { code := .poison, detail := detail, aux := BitVec.ofNat 64 ea }
    else
      let e := s.mem.word ea
      if e.getLsbD 0 = false then .bad { code := .xlate, detail := detail }
      else if fld e 63 56 ≠ 0 then mal
      else if e.getLsbD 1 then
        let pa := fld e 55 12 * 4096
        if level = 0 ∨ fld e 11 9 ≠ 0 ∨ fld e 6 5 = 0 ∨ pa % 2 ^ levelShift level ≠ 0 then mal
        else .ok
          { asid := asid, va := va / 2 ^ levelShift level * 2 ^ levelShift level, bits := levelShift level, pa := pa
            u := e.getLsbD 8, imm := e.getLsbD 7, scope := if s.foreign pa then .sys else scopeOf (fld e 6 5)
            x := e.getLsbD 4, w := e.getLsbD 3, l := e.getLsbD 2 }
      else
        let next := fld e 55 8 * 256
        if level = 3 ∨ fld e 7 2 ≠ 0 ∨ next % nextSize level ≠ 0 then mal
        else s.walkFrom asid va fuel next

/-- A walk of a die's walkers: the address-space table of its supervisor's ASTAB, then four levels (R396, R398). It is
taken in the state in which its entries have been read. -/
def State.walk (s : State) (die asid va : Nat) : Res Tlb :=
  let detail := BitVec.ofNat 64 va
  let ea := s.rootAt die asid
  (s.reach ea detail).andThen fun _ =>
  if s.poisoned ea then .bad { code := .poison, detail := detail, aux := BitVec.ofNat 64 ea }
  else
    let e := s.mem.word ea
    if e.getLsbD 0 = false then .bad { code := .xlate, detail := detail }
    else if fld e 63 56 ≠ 0 ∨ fld e 15 1 ≠ 0 then .bad { code := .xlate, detail := detail, mal := true }
    else s.walkFrom asid va 4 (fld e 55 12 * 4096)

/-- The translation that a die holds for a cluster: its micro-TLB, then the L2 TLB. -/
def State.tlbFind (s : State) (die cid asid va : Nat) : Option Tlb :=
  match (s.cluster cid).tlb.find? fun t => t.covers asid va with
  | some t => some t
  | none => (s.die die).tlb.find? fun t => t.covers asid va

/-- Check the attributes and the place of a translated access (R142, R398, R415). -/
def State.checkPage (s : State) (tile : Bool) (k : Kind) (va : Nat) (t : Tlb) : Res (Tlb × Nat) :=
  if t.permits tile k then (s.reach (t.phys va) (BitVec.ofNat 64 va)).andThen fun _ => .ok (t, t.phys va)
  else .bad { code := .protect, detail := BitVec.ofNat 64 va }

/-- Translate an access of a tile core's task (R141, R174, R398, R399). `inline` walks at once on a miss: engines and
the settling of a park do so; a thread waits for PAGE_TABLE_WALK. -/
def State.translateTile (s : State) (id asid : Nat) (inline : Bool) (k : Kind) (va : Nat) : Res (Tlb × Nat) :=
  if 2 ^ 52 ≤ va then .bad { code := .xlate, detail := BitVec.ofNat 64 va }
  else
    let die := dieOfCluster (clusterOf id)
    match s.tlbFind die (clusterOf id) asid va with
    | some t => s.checkPage true k va t
    | none => if inline then (s.walk die asid va).andThen (s.checkPage true k va) else .wait

/-- Translate an access that a die's dispatcher makes in an address space. -/
def State.translateDie (s : State) (die asid : Nat) (k : Kind) (va : Nat) : Res (Tlb × Nat) :=
  if 2 ^ 52 ≤ va then .bad { code := .xlate, detail := BitVec.ofNat 64 va }
  else match (s.die die).tlb.find? fun t => t.covers asid va with
  | some t => s.checkPage false k va t
  | none => (s.walk die asid va).andThen (s.checkPage false k va)

/-- The attributes under which a supervisor core reaches memory: it has no L1, so none of them matters (R430). -/
def supPage : Tlb :=
  { asid := 0, va := 0, bits := 56, pa := 0, u := false, imm := false, scope := .cl, x := true, w := true, l := true }

/-- Translate an access of an agent. A supervisor core's address is physical; device register space is answered as
reached (R430). -/
def State.translate (s : State) (a : Agent) (asid : Nat) (inline : Bool) (k : Kind) (va : Nat) : Res (Tlb × Nat) :=
  match a with
  | .tile id => s.translateTile id asid inline k va
  | .sup _ =>
    if 2 ^ 56 ≤ va then .bad { code := .xlate, detail := BitVec.ofNat 64 va }
    else if modOf va < 256 ∧ devBase ≤ lpaOf va then .ok (supPage, va)
    else (s.reach va (BitVec.ofNat 64 va)).andThen fun _ => .ok (supPage, va)

/-- Memory of another module, known by its physical address alone. -/
def State.farPa (s : State) (pa : Nat) : Bool := s.foreign pa && decide (modOf pa < 256) && decide (lpaOf pa < hbmEnd)

/-- A page as a thread's access finds it. Inside a transaction, an access to memory of another module aborts with REMOTE
before any link is asked for (R297). DEDUCED: log entry 6. -/
def State.checkPageTx (s : State) (tx : Bool) (k : Kind) (va : Nat) (t : Tlb) : Res (Tlb × Nat) :=
  if tx && s.farPa (t.phys va) && t.permits true k then .ok (t, t.phys va) else s.checkPage true k va t

/-- Translate a thread's access, inside a transaction or outside. -/
def State.translateTx (s : State) (a : Agent) (asid : Nat) (inline tx : Bool) (k : Kind) (va : Nat) : Res (Tlb × Nat) :=
  match a with
  | .tile id =>
    if 2 ^ 52 ≤ va then .bad { code := .xlate, detail := BitVec.ofNat 64 va }
    else
      let die := dieOfCluster (clusterOf id)
      match s.tlbFind die (clusterOf id) asid va with
      | some t => s.checkPageTx tx k va t
      | none => if inline then (s.walk die asid va).andThen (s.checkPageTx tx k va) else .wait
  | .sup _ => if tx && s.farPa va then .ok (supPage, va) else s.translate a asid inline k va

/-- The address lies in device register space. -/
def isDevice (pa : Nat) : Bool := modOf pa < 256 && devBase ≤ lpaOf pa

/-- Take a translation into a TLB of n entries; it may drop the oldest (R399, R400). DESIGN CHOICE: log entry 47. -/
def fillTlb (n : Nat) (t : Tlb) (xs : List Tlb) : List Tlb :=
  (t :: xs.filter fun u => !u.covers t.asid t.va).take n

/-! ## Conflicts of plain accesses with transactions (R284, R285) -/

/-- An open transaction that no home has aborted yet. -/
def Core.txLive (c : Core) : Bool := 0 < c.tx.depth && c.tx.doom.isNone

/-- A home aborts a transaction: its registrations and speculative data are discarded at once; the rest of the abort
takes effect between chains (R285, R289, R294). -/
def Core.doomTx (c : Core) (cause other : Nat) : Core :=
  { c with tx := { c.tx with doom := some (cause, other), plots := [], spec := [], deltas := [] } }

/-- A plain access reaches a plot: every holder that R284 says aborts with PLAIN. `skip` is a core whose own
registrations the access meets without effect (R285). -/
def State.plainTouch (s : State) (other : Nat) (skip : Option Agent) (pa : Nat) (write : Bool) : State :=
  let hit (c : Core) : Bool :=
    c.txLive && some c.who != skip &&
      c.tx.plots.any fun p => p.plot == pa / 1024 && (write || p.w || p.d)
  let f (c : Core) : Core := if hit c then c.doomTx 2 other else c
  { s with core := f s.core, others := s.others.map f }

/-! ## Lines -/

/-- Byte i of a line's data. -/
def byteAt (d : BitVec 1024) (i : Nat) : Byte := (d >>> (8 * i)).setWidth 8

/-- Put bytes into a line's data. -/
def putBytes (d : BitVec 1024) (off : Nat) (bs : List Byte) : BitVec 1024 :=
  let m : BitVec 1024 := BitVec.ofNat 1024 (2 ^ (8 * bs.length) - 1) <<< (8 * off)
  (d &&& ~~~m) ||| (BitVec.ofNat 1024 (natOfBytes bs) <<< (8 * off))

/-- The mask of n bytes from an offset. -/
def spanMask (off n : Nat) : BitVec 128 := BitVec.ofNat 128 (2 ^ n - 1) <<< off

/-- The bytes of a list that a mask names replace those of a line's data. -/
def mergeBytes (d : BitVec 1024) (keep : BitVec 128) (bs : List Byte) : BitVec 1024 :=
  BitVec.ofNat 1024 (natOfBytes ((List.range 128).map fun i =>
    if keep.getLsbD i then byteAt d i else bs.getD i 0))

/-- The dirty bytes of a line with their physical addresses. -/
def Line.dirtyBytes (l : Line) : List (Nat × Byte) :=
  ((List.range 128).filter fun i => l.dirty.getLsbD i).map fun i => (l.line * 128 + i, byteAt l.data i)

/-- The generation counter of a share scope (R147). -/
def Cluster.counter (c : Cluster) : Scope → BitVec 4
  | .cl => 0 | .die => c.gdie | .pkg => c.gpkg | .sys => c.gsys

/-- The L1 line of a physical address. -/
def Cluster.find (c : Cluster) (pa : Nat) : Option Line := c.lines.find? fun l => l.line == pa / 128

/-- Replace the line of its way and set, or add it. -/
def Cluster.put (c : Cluster) (l : Line) : Cluster := { c with lines := upsert Line.line l c.lines }

/-- Invalidate a line. -/
def Cluster.drop (c : Cluster) (line : Nat) : Cluster := { c with lines := c.lines.filter fun l => l.line != line }

/-- The ways of a cluster's L1: one for each cache granule of its four cores (R146). -/
def State.ways (s : State) (cid : Nat) : List Nat :=
  (List.range 4).flatMap fun q => (List.range (s.getCore (.tile (cid * 4 + q))).cacheGr).map fun g => q * 48 + g

/-! ## Stores performed at an L2 or at a home (R150, R152) -/

/-- No L2 of the package holds the line. -/
def State.uncached (s : State) (line : Nat) : Bool := !s.l2.any fun e => e.line == line

/-- Invalidate a line at a module, once until it answers (R152). -/
def State.sendInv (s : State) (line m : Nat) : State :=
  if s.ports.invs.contains (line, m) then s
  else
    let s1 := s.send (.inv m line)
    { s1 with ports := { s1.ports with invs := s1.ports.invs ++ [(line, m)] } }

/-- Invalidate a line at the sharers of its region (R152). DESIGN CHOICE: log entry 26. -/
def State.invalidatePeers (s : State) (pa : Nat) : State :=
  let targets : List Nat := match s.ports.peers.find? fun e => e.1 == pa / 2048 with
    | none => []
    | some (_, some ms) => ms
    | some (_, none) => s.otherModules
  targets.foldl (fun s m => s.sendInv (pa / 128) m) s

/-- The runs of bytes at consecutive addresses. -/
def cellRuns : List (Nat × Byte) → List (Nat × List Byte)
  | [] => []
  | (a, b) :: t =>
    match cellRuns t with
    | (a1, bs) :: rest => if a + 1 = a1 then (a, b :: bs) :: rest else (a, [b]) :: (a1, bs) :: rest
    | [] => [(a, [b])]

/-- Bytes of one line become performed (R150, R152). A line of another module's home is written in the L2 that holds
it; where none does, the bytes travel to its home (R416). DESIGN CHOICE: log entry 26. -/
def State.perform (s : State) (cells : List (Nat × Byte)) : State :=
  match cells with
  | [] => s
  | (pa, _) :: _ =>
    let s1 := { s with mem := cells.foldl (fun (m : Memory) (c : Nat × Byte) => m.write c.1 c.2) s.mem }
    if !s.foreign pa then s1.invalidatePeers pa
    else if s.uncached (pa / 128) then (cellRuns cells).foldl (fun s r => s.send (.store r.1 r.2)) s1
    else s1

/-- Write back a line's dirty bytes (R149). On a poisoned line they are discarded and a POISON notice is posted
(R193); at a registered plot it is a plain store with OTHER 0xFFF (R285). The core named in the notice is the one whose
cache granule holds the way. -/
def State.putDirty (s : State) (cid : Nat) (skip : Option Agent) (l : Line) : State :=
  if l.dirty = 0 then s
  else if s.poisoned (l.line * 128) then
    s.notice (s.getCore (.tile (cid * 4 + l.way / 48))) .poison 0 (BitVec.ofNat 64 (l.line * 128))
  else (s.plainTouch 0xFFF skip (l.line * 128) true).perform l.dirtyBytes

/-- The clusters of a die. -/
def clustersOfDie (die : Nat) : List Nat := (List.range 80).map (clusterId die)

/-- A line that an L2 holds becomes modified there. -/
def State.dirtyL2 (s : State) (die line : Nat) : State :=
  { s with l2 := s.l2.map fun e => if e.die == die && e.line == line then { e with st := .m } else e }

/-- A snoop-filter recall: each recorded L1 copy of a line in a die is written back and invalidated (R151). -/
def State.recall (s : State) (die line : Nat) : State :=
  ((s.clusters.filter fun c => dieOfCluster c.id == die).filterMap fun c =>
      (c.lines.find? fun l => l.line == line && l.excl).map fun l => (c.id, l)).foldl
    (fun s p =>
      let s0 := if p.2.dirty = 0 ∨ s.poisoned (line * 128) then s else s.dirtyL2 die line
      let s1 := s0.putDirty p.1 none p.2
      s1.setCluster ((s1.cluster p.1).drop line)) s

/-- The bytes of a line as its home, or the L2 that holds it, has them. -/
def State.lineBytes (s : State) (line : Nat) : List Byte := s.mem.readBytes (line * 128) 128

/-- Lines that a filter picks leave the L2s: recorded L1 copies are recalled, and modified or owned data of another
module's line goes home (R151, R194, R418). -/
def State.giveUp (s : State) (p : L2Line → Bool) : State :=
  let s1 := (s.l2.filter p).foldl (fun s e => s.recall e.die e.line) s
  let gone := s1.l2.filter p
  let s2 := { s1 with l2 := s1.l2.filter fun e => !p e }
  (gone.filter fun e => s1.foreign (e.line * 128) && (e.st == .m || e.st == .o)).foldl
    (fun s e => s.send (.wback (modOf (e.line * 128)) e.line (s.lineBytes e.line))) s2

/-- The peers give up a line of this home: those that hold it, and the sharers of its region (R152, R192). -/
def State.peersGiveUp (s : State) (line : Nat) : State :=
  if s.foreign (line * 128) then s
  else
    let s1 := (s.ports.held.filter fun h => h.line == line).foldl (fun s h => s.sendInv line h.mod) s
    let s2 := s1.invalidatePeers (line * 128)
    { s2 with ports := { s2.ports with held := s2.ports.held.filter fun h => h.line != line } }

/-- A line is marked poisoned: no L2 keeps a copy, of this module or of a peer, and recorded L1 copies are recalled
(R192). -/
def State.poisonLine (s : State) (line : Nat) : State :=
  let s0 := if s.poison.contains line then s else { s with poison := s.poison ++ [line] }
  let s1 := (List.range 8).foldl (fun s die => s.recall die line) s0
  ({ s1 with l2 := s1.l2.filter fun (e : L2Line) => e.line != line } : State).peersGiveUp line

/-! ## The L2s under their directory (R150, R151, R190, R194) -/

/-- A gate status word of a die: clusters 63:0, clusters 79:64 with the die in bit 63, slices (R421). -/
def Ports.gates (p : Ports) (die i : Nat) : Word := p.gateSts.toList.getD (3 * die + i) 0
/-- The die, a cluster of it, or a slice of it is gated now (R421). -/
def State.dieGated (s : State) (die : Nat) : Bool := (s.ports.gates die 1).getLsbD 63 || 2 ≤ s.ports.pst
def State.clusterGated (s : State) (cid : Nat) : Bool :=
  let i := indexInDie cid
  (s.ports.gates (dieOfCluster cid) (i / 64)).getLsbD (i % 64) || s.dieGated (dieOfCluster cid) || 1 ≤ s.ports.pst
def State.sliceGated (s : State) (die slice : Nat) : Bool := (s.ports.gates die 2).getLsbD slice || s.dieGated die

/-- Lines of an address bypass a die's L2, whose slice is gated: the home agent serves them (R194). -/
def State.bypass (s : State) (die pa : Nat) : Bool := s.sliceGated die (l2Slice pa)

/-- The order in which a full set gives up its lines: stream marks first, then unmarked, then keep (R190). -/
def markRank : Mark → Nat
  | .stream => 0 | .normal => 1 | .keep => 2

/-- Two addresses lie in one set of an L2. -/
def sameL2Set (x y : Nat) : Bool := l2Set x == l2Set y && l2Slice x == l2Slice y

/-- The lines of one set of a die's L2. -/
def State.l2SetOf (s : State) (die pa : Nat) : List L2Line :=
  s.l2.filter fun e => e.die == die && sameL2Set (e.line * 128) pa

/-- The cluster of a core, where it has one. -/
def clusterAt : Agent → Option Nat
  | .tile id => some (clusterOf id)
  | .sup _ => none

/-- The speculative lines of a transaction (R279). -/
def Tx.specLines (t : Tx) : List Nat := ((t.spec.map fun (c : Host.Cell) => c.1 / 128) ++ t.deltas.map fun (d : Delta) => d.pa / 128).dedup

/-- The speculative lines of the cores of a cluster, or of a die's supervisor core. -/
def State.specOf (s : State) (die : Nat) (k : Option Nat) : List Nat :=
  (s.cores.filter fun c => dieOf c.who == die && clusterAt c.who == k).flatMap fun c => c.tx.specLines

/-- The other lines in the set of a line in a cluster's L1. -/
def State.l1SetOf (s : State) (cid line : Nat) : List Line :=
  (s.cluster cid).lines.filter fun x => x.line % 128 == line % 128

/-- The ways that the set of a line in a cluster's L1 leaves to speculative lines (R146, R279). DESIGN CHOICE: log
entry 74. -/
def State.specWays (s : State) (k : Option Nat) (line : Nat) : Nat :=
  match k with
  | none => 0
  | some cid => (s.ways cid).length - (s.l1SetOf cid line).length

/-- The lines of a list that find no way of their L1 set. -/
def spill (room : Nat → Nat) (lines : List Nat) : List Nat :=
  (List.range lines.length).filterMap fun i =>
    match lines[i]? with
    | none => none
    | some l => if ((lines.take i).filter fun m => m % 128 == l % 128).length < room l then none else some l

/-- The speculative lines of a die that stand in versioned ways of its L2 (R279). DESIGN CHOICE: log entry 74. -/
def State.versioned (s : State) (die : Nat) : List Nat :=
  let ks := ((s.cores.filter fun c => dieOf c.who == die && (!c.tx.spec.isEmpty || !c.tx.deltas.isEmpty)).map fun c =>
    clusterAt c.who).dedup
  ks.flatMap fun k => spill (s.specWays k) (s.specOf die k)

/-- The versioned lines in the set of an address. -/
def State.versionedIn (s : State) (die pa : Nat) : Nat :=
  ((s.versioned die).filter fun l => sameL2Set (l * 128) pa).length

/-- A versioned line finds its way: at most 4 of the ways of a set hold such lines, and none of a slice that is gated
(R194, R279). -/
def State.versionFits (s : State) (die line : Nat) : Bool :=
  s.versionedIn die (line * 128) ≤ (if s.bypass die (line * 128) then 0 else 4)

/-- The set of an address has a free way: a versioned line fills one too (R279). -/
def State.l2Free (s : State) (die pa : Nat) : Bool := (s.l2SetOf die pa).length + s.versionedIn die pa < 16

/-- The lines of a full set among which the next to leave is chosen (R190): those of the first mark in the order, but
for lines that a tile fetch unit pins (R256). -/
def State.l2Victims (s : State) (die pa : Nat) : List L2Line :=
  let open_ := (s.l2SetOf die pa).filter fun e => !s.pins.contains (die, e.line)
  let r := open_.foldl (fun r e => min r (markRank e.mark)) 2
  open_.filter fun e => markRank e.mark == r

/-- One of a list of lines leaves a die's L2, after its recorded L1 copies are recalled (R151). DESIGN CHOICE: log
entry 47. -/
def State.l2Evict (s : State) (die : Nat) (cands : List L2Line) : State :=
  match cands[Config.freeWay s.free % cands.length]? with
  | none => s
  | some v => (s.useFree 1).giveUp fun e => e.die == die && e.line == v.line

/-- Make room for a line in its set of a die's L2. -/
def State.l2Room (s : State) (die pa : Nat) : State :=
  if s.l2Free die pa then s else s.l2Evict die (s.l2Victims die pa)

/-- A core's open transaction has a speculative line that finds no versioned way. -/
def State.spilled (s : State) (c : Core) : Bool :=
  c.txLive && ((s.versioned (dieOf c.who)).filter c.tx.specLines.contains).any fun l => !s.versionFits (dieOf c.who) l

/-- The speculative lines of a die have moved: those that find no versioned way abort their transactions with CAPACITY,
and for the others ordinary lines leave their sets of the L2 (R279). -/
def State.settleSpec (s : State) (die : Nat) : State :=
  let s1 := ((s.cores.filter fun c => dieOf c.who == die).map Core.who).foldl (fun s a =>
    if s.spilled (s.getCore a) then s.modCore a fun c => c.doomTx 3 0 else s) s
  (s1.versioned die).foldl (fun s l =>
    if (s.l2SetOf die (l * 128)).length + s.versionedIn die (l * 128) ≤ 16 then s
    else s.l2Evict die (s.l2Victims die (l * 128))) s1

/-- Bytes that another module's answer brings: free ones. DESIGN CHOICE: log entry 26. -/
def State.farLine (s : State) (line : Nat) : State :=
  { s.useFree 128 with mem := s.mem.writeBytes (line * 128) ((List.range 128).map fun i => Config.freeByte (s.free + i)) }

/-- Before an L2 takes a line: a line of another module is asked of its home, to read or to own (R150, R416); a line of
this home that a peer may hold modified is called back (R152). Request and answer are one step.
DESIGN CHOICE: log entry 26. -/
def State.ask (s : State) (pa : Nat) (own : Bool) : State :=
  let line := pa / 128
  if s.foreign pa then
    if s.uncached line then (s.send (.get (modOf pa) line own)).farLine line
    else if own && !s.l2.any fun e => e.line == line && e.st != .s then s.send (.get (modOf pa) line true)
    else s
  else match s.ports.held.find? fun h => h.line == line && h.own with
  | none => s
  | some h =>
    let s1 := (s.sendInv line h.mod).farLine line
    { s1 with ports := { s1.ports with held := s1.ports.held.filter fun x => x != h } }

/-- The state in which an L2 takes a line: for a write M; for a read E where no other cache holds it, else S. A line of
another module is granted shared (R150, R152). -/
def State.takenAs (s : State) (pa : Nat) (own alone : Bool) : Moesi :=
  if own then .m else if alone && !s.foreign pa then .e else .s

/-- A die's L2 comes to hold a line: for a write in M state, with every other copy given up; for a read shared, with
an M copy elsewhere left as O and an E copy as S (R150, R151). Where its slice is gated no L2 of the die holds it
(R194). -/
def State.l2Take (s : State) (die pa : Nat) (own : Bool) : State :=
  let line := pa / 128
  let s0 := if own && s.bypass die pa && s.foreign pa then s else s.ask pa own
  let others := s0.l2.filter fun e => e.line == line && e.die != die
  let s1 := others.foldl (fun s e =>
    if own || e.st == .m || e.st == .e then s.recall e.die line else s) s0
  if own && s.bypass die pa then s1.giveUp fun e => e.line == line
  else
    let l2a := if own then s1.l2.filter fun e => !(e.line == line && e.die != die)
      else s1.l2.map fun e =>
        if e.line == line && e.die != die then
          { e with st := match e.st with | .m => .o | .e => .s | x => x } else e
    let s2 := { s1 with l2 := l2a }
    if s2.l2.any fun e => e.line == line && e.die == die then (if own then s2.dirtyL2 die line else s2)
    else if s.bypass die pa then s2
    else
      let s3 := s2.l2Room die pa
      { s3 with l2 := s3.l2 ++ [{ die := die, line := line, st := s.takenAs pa own others.isEmpty }] }

/-- A read that reaches an L2: n bytes of one line. -/
def State.l2Read (s : State) (die other : Nat) (skip : Option Agent) (detail : Word) (pa n : Nat) :
    Res (State × List Byte) :=
  if s.poisoned pa then .bad (poisonFlt detail pa)
  else
    let s1 := (s.plainTouch other skip pa false).l2Take die pa false
    .ok (s1, s1.mem.readBytes pa n)

/-- A store performed at an L2: bytes of one line. -/
def State.l2Write (s : State) (die other : Nat) (detail : Word) (pa : Nat) (bs : List Byte) : Res State :=
  if s.poisoned pa then .bad (poisonFlt detail pa)
  else
    let s1 := (s.plainTouch other none pa true).l2Take die pa true
    .ok (s1.perform ((List.range bs.length).map fun i => (pa + i, bs.getD i 0)))

/-- A walk reads one entry as a package-scope load from its die's L2 (R398). That of a hint aborts no transaction and
takes no line into an L2 (R191). DESIGN CHOICE: log entry 42. -/
def State.walkLine (s : State) (hint : Bool) (die ea : Nat) : State :=
  match s.reach ea 0 with
  | .ok _ =>
    if s.poisoned ea then s else if hint then s.ask ea false
    else (s.plainTouch 0xFFF none ea false).l2Take die ea false
  | _ => s

/-- The state in which a walk has read its entries, from a table of level `4 - fuel` (R397, R398). -/
def State.walkLines (s : State) (hint : Bool) (die va : Nat) : Nat → Nat → State
  | 0, _ => s
  | fuel + 1, table =>
    let ea := entryAt (3 - fuel) va table
    let s1 := s.walkLine hint die ea
    let e := s1.mem.word ea
    if e.getLsbD 0 && !e.getLsbD 1 then s1.walkLines hint die va fuel (fld e 55 8 * 256) else s1

/-- The state in which a walk, or that of a hint, has read its entries. -/
def State.walkFor (s : State) (hint : Bool) (die asid va : Nat) : State :=
  let s1 := s.walkLine hint die (s.rootAt die asid)
  let e := s1.mem.word (s1.rootAt die asid)
  if e.getLsbD 0 then s1.walkLines hint die va 4 (fld e 55 12 * 4096) else s1

/-- The state in which a walk of a die's walkers has read its entries: a line of another module has been asked of its
home, one that a peer holds modified has been called back (R398, R416). The walk's answer is `walk` in that state. -/
def State.walkTo (s : State) (die asid va : Nat) : State := s.walkFor false die asid va

/-- The state in which an access of an agent's engine, of the settling of a park, or a hint has walked where no TLB of
its cluster and die holds its translation. -/
def State.walkedFor (s : State) (hint : Bool) (a : Agent) (asid va : Nat) : State :=
  match a with
  | .sup _ => s
  | .tile id =>
    let die := dieOfCluster (clusterOf id)
    if 2 ^ 52 ≤ va ∨ (s.tlbFind die (clusterOf id) asid va).isSome then s else s.walkFor hint die asid va

/-- The same for an access of an agent's engine and of the settling of a park. -/
def State.walked (s : State) (a : Agent) (asid va : Nat) : State := s.walkedFor false a asid va

/-- The same for an access of a die's dispatcher. -/
def State.walkedDie (s : State) (die asid va : Nat) : State :=
  if decide (2 ^ 52 ≤ va) || (s.die die).tlb.any fun t => t.covers asid va then s else s.walkTo die asid va

/-- A read at the home of another module's line, past this module's L2s, as a supervisor core makes it (R430): where an
L2 here holds the line, the home answers with what it holds. DESIGN CHOICE: log entry 26. -/
def State.farRead (s : State) (detail : Word) (pa n : Nat) : Res (State × List Byte) :=
  if s.poisoned pa then .bad (poisonFlt detail pa)
  else
    let line := pa / 128
    let s1 := ((List.range 8).foldl (fun s die => s.recall die line) s).send (.load pa n)
    let s2 := if s1.uncached line then s1.farLine line else s1
    .ok (s2, s2.mem.readBytes pa n)

/-- Bytes written at the home of another module's line, past this module's L2s (R163): a copy here takes them too. -/
def State.farWrite (s : State) (detail : Word) (pa : Nat) (bs : List Byte) : Res State :=
  if s.poisoned pa then .bad (poisonFlt detail pa)
  else .ok ({ s with mem := s.mem.writeBytes pa bs }.send (.store pa bs))

/-! ## The cluster L1 (R146 to R149) -/

/-- The write-back of a line as the L1 does it: the die's L2 takes the line, then its bytes (R149, R159). -/
def State.writeBack (s : State) (cid : Nat) (skip : Option Agent) (l : Line) : State :=
  if l.dirty = 0 then s
  else (if s.poisoned (l.line * 128) then s else s.l2Take (dieOfCluster cid) (l.line * 128) true).putDirty cid skip l

/-- A way of the set of a line in a cluster's L1 is free: a speculative line fills one too (R146, R279). -/
def State.l1Free (s : State) (cid line : Nat) : Bool :=
  (s.l1SetOf cid line).length
      + ((s.specOf (dieOfCluster cid) (some cid)).filter fun m => m % 128 == line % 128).length
    < (s.ways cid).length

/-- Put a new line into a way of its set: an invalid one, else that of a line that the L1 chooses and writes back
(R146). Where every way holds a speculative line, one of them leaves (R279). None where the cluster has no ways.
DESIGN CHOICE: log entries 47, 74. -/
def State.place (s : State) (cid : Nat) (l : Line) : State :=
  let ways := s.ways cid
  let set := s.l1SetOf cid l.line
  let unused := ways.find? fun w => !set.any fun x => x.way == w
  match (if s.l1Free cid l.line then unused else none), set[Config.freeWay s.free % set.length]?, unused with
  | some w, _, _ => s.setCluster ((s.cluster cid).put { l with way := w })
  | none, some v, _ =>
    let s1 := (s.useFree 1).writeBack cid none v
    s1.setCluster (((s1.cluster cid).drop v.line).put { l with way := v.way })
  | none, none, some w =>
    (s.setCluster ((s.cluster cid).put { l with way := w })).settleSpec (dieOfCluster cid)
  | none, none, none => s

/-- Before a core's transaction has its first speculative bytes of a line, the line finds a way: where its L1 set has
none free, an ordinary line leaves (R146, R279). DESIGN CHOICE: log entries 47, 74. -/
def State.specRoom (s : State) (a : Agent) (line : Nat) : State :=
  match clusterAt a with
  | none => s
  | some cid =>
    let set := s.l1SetOf cid line
    if s.l1Free cid line then s
    else match set[Config.freeWay s.free % set.length]? with
    | none => s
    | some v =>
      let s1 := (s.useFree 1).writeBack cid none v
      s1.setCluster ((s1.cluster cid).drop v.line)

/-- A transaction of a core of the cluster holds speculative bytes or deltas of a line there (R279). -/
def State.specHere (s : State) (cid line : Nat) : Bool :=
  s.cores.any fun c => c.txLive && clusterAt c.who == some cid &&
    (c.tx.spec.any (fun x => x.1 / 128 == line) || c.tx.deltas.any fun d => d.pa / 128 == line)

/-- An access in the cluster L1 that meets a speculative line reaches its plot's registration (R279, R285). -/
def State.specTouch (s : State) (cid other : Nat) (skip : Option Agent) (pa : Nat) (write : Bool) : State :=
  if s.specHere cid (pa / 128) then s.plainTouch other skip pa write else s

/-- The line of an access after the lookup of R147: on a miss its clean bytes are fetched from the die L2. `skip` is the
core whose own registrations a fetch of its instructions meets without effect (R285). -/
def State.l1Fetch (s : State) (a : Agent) (cid : Nat) (skip : Option Agent) (t : Tlb) (detail : Word) (pa n : Nat) :
    Res (State × List Byte) :=
  let c := s.cluster cid
  let off := pa % 128
  let span := spanMask off n
  let cur := c.find pa
  let hit := match cur with
    | none => none
    | some l =>
      let fresh := l.imm || l.gen == c.counter l.scope
      let have_ := if fresh then l.dirty ||| l.valid else l.dirty
      if have_ &&& span = span then some l else none
  match hit with
  | some l => .ok (s.specTouch cid (coreId a) skip pa false, (List.range n).map fun i => byteAt l.data (off + i))
  | none =>
    (s.l2Read (dieOfCluster cid) (coreId a) skip detail (pa / 128 * 128) 128).andThen fun (s1, bs) =>
    let c1 := s1.cluster cid
    match c1.find pa with
    | some l =>
      let l1 := { l with data := mergeBytes l.data l.dirty bs, valid := BitVec.allOnes 128, gen := c1.counter l.scope }
      .ok (s1.setCluster (c1.put l1), (List.range n).map fun i => byteAt l1.data (off + i))
    | none =>
      let l1 : Line :=
        { way := 0, line := pa / 128, data := mergeBytes 0 0 bs, valid := BitVec.allOnes 128, dirty := 0
          scope := t.scope, imm := t.imm, gen := c1.counter t.scope, excl := false }
      .ok (s1.place cid l1, (bs.drop off).take n)

/-- A plain load of bytes of one line by a thread: through its cluster's L1, or at the die L2 where there are no ways
(R146, R147); a supervisor core reads another module's line at its home (R430). -/
def State.loadLine (s : State) (a : Agent) (skip : Option Agent) (t : Tlb) (detail : Word) (pa n : Nat) :
    Res (State × List Byte) :=
  match a with
  | .sup d => if s.foreign pa then s.farRead detail pa n else s.l2Read d (coreId a) skip detail pa n
  | .tile id =>
    let cid := clusterOf id
    if (s.ways cid).isEmpty then s.l2Read (dieOfCluster cid) (coreId a) skip detail pa n
    else s.l1Fetch a cid skip t detail pa n

/-- Bytes of one line stored into a cluster's L1, which allocates the line where it is absent (R146). -/
def State.l1Store (s : State) (cid : Nat) (sc : Scope) (imm : Bool) (pa : Nat) (bs : List Byte) : State :=
  let c := s.cluster cid
  let span := spanMask (pa % 128) bs.length
  match c.find pa with
  | some l => s.setCluster (c.put
      { l with data := putBytes l.data (pa % 128) bs, valid := l.valid ||| span, dirty := l.dirty ||| span })
  | none => s.place cid
      { way := 0, line := pa / 128, data := putBytes 0 (pa % 128) bs, valid := span, dirty := span
        scope := sc, imm := imm, gen := c.counter sc, excl := false }

/-- A plain store of bytes of one line by a thread: into its cluster's L1 without a fetch, or at the die L2 where
there are no ways (R146); a supervisor core writes another module's line at its home (R430). -/
def State.storeLine (s : State) (a : Agent) (t : Tlb) (detail : Word) (pa : Nat) (bs : List Byte) : Res State :=
  match a with
  | .sup d =>
    if s.foreign pa then (s.giveUp fun e => e.line == pa / 128).farWrite detail pa bs
    else s.l2Write d (coreId a) detail pa bs
  | .tile id =>
    let cid := clusterOf id
    if (s.ways cid).isEmpty then s.l2Write (dieOfCluster cid) (coreId a) detail pa bs
    else
      .ok ((s.specTouch cid (coreId a) none pa true).l1Store cid t.scope t.imm pa bs)

/-- Cut a span at multiples of m. -/
def chunks (m : Nat) : Nat → Nat → Nat → List (Nat × Nat)
  | 0, _, _ => []
  | fuel + 1, a, n =>
    if n = 0 then [] else
      let k := min n (m - a % m)
      (a, k) :: chunks m fuel (a + k) (n - k)

/-- The parts of a span that lie in one line each. -/
def lineParts (a n : Nat) : List (Nat × Nat) := chunks 128 (n / 128 + 2) a n

/-- A load of bytes that lie in one page. -/
def State.load (s : State) (a : Agent) (t : Tlb) (va pa n : Nat) : Res (State × List Byte) :=
  (lineParts pa n).foldl (fun acc p => acc.andThen fun (s, bs) =>
    (s.loadLine a none t (BitVec.ofNat 64 va) p.1 p.2).andThen fun (s1, b) => .ok (s1, bs ++ b)) (.ok (s, []))

/-- A store of bytes that lie in one page. -/
def State.store (s : State) (a : Agent) (t : Tlb) (va pa : Nat) (bs : List Byte) : Res State :=
  (lineParts pa bs.length).foldl (fun acc p => acc.andThen fun s =>
    s.storeLine a t (BitVec.ofNat 64 va) p.1 ((bs.drop (p.1 - pa)).take p.2)) (.ok s)

/-! ## Acquires and releases (R154 to R156) -/

/-- Write back a line of a cluster's L1, which stays there clean and valid (R149). `skip` names the transaction of
R285. -/
def State.cleanLine (s : State) (cid : Nat) (skip : Option Agent) (l : Line) : State :=
  let s1 := s.writeBack cid skip l
  match (s1.cluster cid).find (l.line * 128) with
  | some l1 => s1.setCluster ((s1.cluster cid).put { l1 with dirty := 0 })
  | none => s1

/-- Write back every dirty byte of a cluster L1 that a filter picks; the lines stay clean and valid (R149, R156). -/
def State.cleanL1 (s : State) (cid : Nat) (p : Line → Bool) : State :=
  ((s.cluster cid).lines.filter fun l => p l && l.dirty != 0).foldl (fun s l => s.cleanLine cid none l) s

/-- Step one generation counter; where it wraps, its scope's lines are written back and invalidated (R148). -/
def State.stepCounter (s : State) (cid : Nat) (sc : Scope) : State :=
  let wrap := (s.cluster cid).counter sc == 15
  let s1 := if wrap then s.cleanL1 cid fun l => l.scope == sc else s
  let c := s1.cluster cid
  let c1 := if wrap then { c with lines := c.lines.filter fun l => l.scope != sc
                                  icache := c.icache.filter fun l => l.scope != sc } else c
  s1.setCluster (match sc with
    | .cl => c1
    | .die => { c1 with gdie := c1.gdie + 1 }
    | .pkg => { c1 with gpkg := c1.gpkg + 1 }
    | .sys => { c1 with gsys := c1.gsys + 1 })

/-- An acquire at a scope by a core of a cluster (R147, R155); a supervisor core has no L1 (R430). -/
def State.acquire (s : State) (a : Agent) (sc : Scope) : State :=
  match a with
  | .sup _ => s
  | .tile id =>
    let cid := clusterOf id
    match sc with
    | .cl => s
    | .die => s.stepCounter cid .die
    | .pkg => (s.stepCounter cid .die).stepCounter cid .pkg
    | .sys => ((s.stepCounter cid .die).stepCounter cid .pkg).stepCounter cid .sys

/-- The write-backs of a release (R156). -/
def State.release (s : State) (a : Agent) (sc : Scope) : State :=
  match a, sc with
  | .sup _, _ | _, .cl => s
  | .tile id, _ => s.cleanL1 (clusterOf id) fun _ => true

/-- A release at system scope waits until the peers have acknowledged the invalidations (R156). -/
def State.releaseDone (s : State) (sc : Scope) : Bool := sc != .sys || s.ports.invs.isEmpty

/-! ## Atomics (R158, R180) -/

/-- Write back and drop the issuing cluster's own copy of a line (R158). -/
def State.leaveL1 (s : State) (cid : Nat) (pa : Nat) : State :=
  match (s.cluster cid).find pa with
  | none => s
  | some l =>
    let s1 := s.writeBack cid none l
    s1.setCluster ((s1.cluster cid).drop l.line)

/-- An atomic on an aligned word of n bytes at an L2: the old value, and the new one where it writes. -/
def State.atomicL2 (s : State) (die : Nat) (a : Agent) (va pa n : Nat) (f : Nat → Nat) : Res (State × Nat) :=
  if s.poisoned pa then .bad (poisonFlt (BitVec.ofNat 64 va) pa)
  else
    let s1 := (s.plainTouch (coreId a) none pa true).l2Take die pa true
    let old := s1.mem.readNat pa n
    .ok (s1.perform ((List.range n).map fun i => (pa + i, (bytesOfNat n (f old)).getD i 0)), old)

/-- The instruction and operands of an atomic, as a request to another module carries them. -/
abbrev AtomReq := Instr × Ops

/-- An atomic goes to another module with a tag of its own (R416, R419). -/
def State.sendAtomic (s : State) (pa n : Nat) (r : AtomReq) : State :=
  let s1 := s.send (.atomic s.ports.atomTag pa n r.1 r.2)
  { s1 with ports := { s1.ports with atomTag := s1.ports.atomTag + 1 } }

/-- An atomic at the home of another module's line (R158, R416): this module's copies go home first, and the old value
is the home's, which is free here. DESIGN CHOICE: log entry 26. -/
def State.atomicFar (s : State) (va pa n : Nat) (r : AtomReq) : Res (State × Nat) :=
  if s.poisoned pa then .bad (poisonFlt (BitVec.ofNat 64 va) pa)
  else
    let s1 := ((s.giveUp fun e => e.line == pa / 128).sendAtomic pa n r).farLine (pa / 128)
    .ok (s1, s1.mem.readNat pa n)

/-- The die at whose L2 an atomic wider than cluster scope runs: the requesting die's, or the home die's at system scope
and where the requesting die's slice is gated (R158, R194). -/
def State.atomicDie (s : State) (a : Agent) (sc : Scope) (pa : Nat) : Nat :=
  if sc = .sys ∨ s.bypass (dieOf a) pa then homeDie pa else dieOf a

/-- An atomic of a thread at the place its scope names; one wider than cluster scope to a page of another module runs at
its home, as one of system scope (R158, R180, R292). -/
def State.atomic (s : State) (a : Agent) (t : Tlb) (sc : Scope) (va pa n : Nat) (f : Nat → Nat) (r : AtomReq) :
    Res (State × Nat) :=
  let wide (s : State) : Res (State × Nat) :=
    if s.foreign pa then s.atomicFar va pa n r
    else s.atomicL2 (s.atomicDie a sc pa) a va pa n f
  match a with
  | .sup _ => wide s
  | .tile id =>
    let cid := clusterOf id
    if sc = .cl ∧ ¬ (s.ways cid).isEmpty then
      (s.l1Fetch a cid none t (BitVec.ofNat 64 va) pa n).andThen fun (s0, bs) =>
      let s1 := s0.specTouch cid (coreId a) none pa true
      let c := s1.cluster cid
      match c.find pa with
      | none => .ok (s1, natOfBytes bs)
      | some l =>
        let span := spanMask (pa % 128) n
        .ok (s1.setCluster (c.put
          { l with data := putBytes l.data (pa % 128) (bytesOfNat n (f (natOfBytes bs))), valid := l.valid ||| span
                   dirty := l.dirty ||| span, excl := true }), natOfBytes bs)
    else wide (s.leaveL1 cid pa)

/-! ## Engines as agents (R163) -/

/-- An engine reads n bytes of one line for a core: the dirty bytes of its cluster's L1, every other at the die L2. -/
def State.engLine (s : State) (a : Agent) (detail : Word) (pa n : Nat) : Res (State × List Byte) :=
  (s.l2Read (dieOf a) 0xFFF none detail pa n).andThen fun (s1, bs) =>
  match a with
  | .sup _ => .ok (s1, bs)
  | .tile id =>
    match (s1.cluster (clusterOf id)).find pa with
    | none => .ok (s1, bs)
    | some l => .ok (s1, (List.range n).map fun i =>
        if l.dirty.getLsbD (pa % 128 + i) then byteAt l.data (pa % 128 + i) else bs.getD i 0)

/-- An engine's write past the cluster L1: at the die L2, or at the home of another module's line where the scope is
wider than cluster scope. -/
def State.engHome (s : State) (a : Agent) (sc : Scope) (detail : Word) (pa : Nat) (bs : List Byte) : Res State :=
  if sc ≠ .cl ∧ s.foreign pa then s.farWrite detail pa bs else s.l2Write (dieOf a) 0xFFF detail pa bs

/-- An engine writes bytes of one line for a core at a scope. A copy in its cluster's L1 takes the bytes: dirty at
cluster scope, else clean and valid. -/
def State.engPut (s : State) (a : Agent) (sc : Scope) (detail : Word) (pa : Nat) (bs : List Byte) : Res State :=
  let span := spanMask (pa % 128) bs.length
  if s.poisoned pa then .bad (poisonFlt detail pa)
  else match a with
  | .sup _ => s.engHome a sc detail pa bs
  | .tile id =>
    let cid := clusterOf id
    match sc, (s.cluster cid).find pa with
    | _, none => s.engHome a sc detail pa bs
    | .cl, some l =>
      let s1 := s.specTouch cid 0xFFF none pa true
      .ok (s1.setCluster ((s1.cluster cid).put
        { l with data := putBytes l.data (pa % 128) bs, valid := l.valid ||| span, dirty := l.dirty ||| span }))
    | _, some _ =>
      (s.engHome a sc detail pa bs).andThen fun s1 =>
      match (s1.cluster cid).find pa with
      | none => .ok s1
      | some l => .ok (s1.setCluster ((s1.cluster cid).put
          { l with data := putBytes l.data (pa % 128) bs, valid := l.valid ||| span, dirty := l.dirty &&& ~~~span }))

/-- An engine reads bytes at virtual addresses of a task's space, each page translated as it is reached. -/
def State.engRead (s : State) (a : Agent) (asid va n : Nat) : Res (State × List Byte) :=
  (lineParts va n).foldl (fun acc p => acc.andThen fun (s, bs) =>
    let s := s.walked a asid p.1
    (s.translate a asid true .rd p.1).andThen fun (_, pa) =>
    (s.reach pa (BitVec.ofNat 64 p.1)).andThen fun _ =>
    (s.engLine a (BitVec.ofNat 64 p.1) pa p.2).andThen fun (s1, b) => .ok (s1, bs ++ b)) (.ok (s, []))

/-- An engine writes bytes at virtual addresses of a task's space. The bytes before a fault stay written; the second
result is the fault. -/
def State.engWrite (s : State) (a : Agent) (asid : Nat) (sc : Scope) (va : Nat) (bs : List Byte) :
    State × Option (Res Unit) :=
  (lineParts va bs.length).foldl (fun acc p =>
    match acc with
    | (s, some r) => (s, some r)
    | (s0, none) =>
      let s := s0.walked a asid p.1
      match (s.translate a asid true .wr p.1).andThen fun (_, pa) =>
        (s.reach pa (BitVec.ofNat 64 p.1)).andThen fun _ =>
        s.engPut a sc (BitVec.ofNat 64 p.1) pa ((bs.drop (p.1 - va)).take p.2) with
      | .ok s1 => (s1, none)
      | .bad f => (s, some (.bad f))
      | .wait => (s, some .wait)) (s, none)

/-- A dispatcher reads bytes of an address space from its die's L2 (R364, R396). -/
def State.dieRead (s : State) (die asid va n : Nat) : Res (State × List Byte) :=
  (lineParts va n).foldl (fun acc p => acc.andThen fun (s, bs) =>
    let s := s.walkedDie die asid p.1
    (s.translateDie die asid .rd p.1).andThen fun (_, pa) =>
    (s.l2Read die 0xFFF none (BitVec.ofNat 64 p.1) pa p.2).andThen fun (s1, b) => .ok (s1, bs ++ b)) (.ok (s, []))

/-- A dispatcher writes bytes that lie in one line of an address space: at the L2 of a die, of the home die where none
is given, or at the home of another module's line (R163, R366). -/
def State.dieWrite (s : State) (die : Nat) (at_ : Option Nat) (asid va : Nat) (bs : List Byte) : Res State :=
  (s.translateDie die asid .wr va).andThen fun (_, pa) =>
  if s.foreign pa then s.farWrite (BitVec.ofNat 64 va) pa bs
  else s.l2Write (at_.getD (homeDie pa)) 0xFFF (BitVec.ofNat 64 va) pa bs

end Sys2Proof.Machine
end

