-- ==== Sys2Proof/Machine/Device.lean ====
section
/-! DEFINITION. Device register space and the port functions behind it (R413 to R428): queue descriptors, doorbells,
completion counters, power states and gates, the firmware mailbox, module reset. -/

namespace Sys2Proof.Machine

/-- Replace the bits hi to lo of a word. -/
def setFld (x : Word) (hi lo v : Nat) : Word :=
  let m := BitVec.ofNat 64 ((2 ^ (hi + 1 - lo) - 1) * 2 ^ lo)
  (x &&& ~~~m) ||| (BitVec.ofNat 64 (v * 2 ^ lo) &&& m)

/-- Change the port registers. -/
def State.modPorts (s : State) (f : Ports → Ports) : State := { s with ports := f s.ports }

/-! ## Queues (R360, R369, R425) -/

/-- The queue is live. -/
def Queue.en (q : Queue) : Bool := q.d0.getLsbD 63
/-- A team-bound queue. -/
def Queue.teamBound (q : Queue) : Bool := q.d0.getLsbD 62
def Queue.home (q : Queue) : Nat := fld q.d0 61 58
def Queue.prio (q : Queue) : Nat := fld q.d0 57 55
def Queue.weight (q : Queue) : Nat := if fld q.d0 54 51 = 0 then 16 else fld q.d0 54 51
def Queue.byp (q : Queue) : Nat := fld q.d0 50 45
def Queue.gen (q : Queue) : Nat := fld q.d0 44 29
def Queue.asid (q : Queue) : Nat := fld q.d3 47 32
def Queue.team (q : Queue) : Nat := fld q.d3 31 0
/-- The bytes of a record: 256 of a launch record, 64 of a team's. -/
def Queue.recBytes (q : Queue) : Nat := if q.teamBound then 64 else 256
/-- The queue has a free place. DEDUCED: log entry 31. -/
def Queue.room (q : Queue) : Bool := q.recs.length < q.ringSize.toNat
/-- The die that carries out a queue's work: its dispatcher's, or die 0 of package command processing.
DEDUCED: log entry 33. -/
def Queue.die (q : Queue) : Nat := if q.home < 8 then q.home else 0

/-- Write a doubleword of a queue's descriptor (R369). EN from 0 to 1 steps GEN, which never becomes 0 again; EN to 0
leaves the index without a queue. DEDUCED: log entry 31. -/
def Queue.write (q : Queue) (i : Fin 4) (x : Word) : Queue :=
  match i with
  | 0 =>
    let on := x.getLsbD 63
    let gen := if on && !q.en then q.gen % 65535 + 1 else q.gen
    let d0 := setFld (setFld (setFld 0 63 45 (fld x 63 45)) 44 29 gen) 14 0 q.idx
    { q with d0 := d0, recs := if on && q.en then q.recs else [], prod := if on && q.en then q.prod else 0
             toTake := if on && q.en then q.toTake else 0 }
  | 1 => { q with ringVa := x }
  | 2 => { q with ringSize := x }
  | _ => { q with d3 := x }

/-- The launch of a team, resident or saved. -/
def State.launchOfTeam (s : State) (id : Nat) : Option Launch :=
  let found := match s.teamOf id with
    | some t => some t
    | none => (s.saved.flatMap Saved.teams).find? fun t => t.id == id
  found.bind fun t => s.launchOf t.launch

/-- The address space of a queue's ring: of its descriptor, or of its team's launch. -/
def State.queueAsid (s : State) (q : Queue) : Nat :=
  if q.teamBound then
    match s.launchOfTeam q.team with
    | some l => l.asid
    | none => 0
  else q.asid

/-- The queue takes the records that are announced, in ring order, from the place that it has reached (R425). A record
whose read must wait stays in the ring (R415); one whose read faults is taken with no bytes, and its launch fails with
FAULT (R364). DEDUCED: log entry 31. -/
def State.takeRing (s : State) (idx : Nat) : Nat → State
  | 0 => s
  | n + 1 =>
    let q := s.queue idx
    let va := q.ringVa.toNat + q.prod * q.recBytes
    let take (s1 : State) (bs : List Byte) : State :=
      (s1.setQueue { q with recs := q.recs ++ [{ bytes := bs, sv := List.replicate 32 0 }]
                            prod := (q.prod + 1) % q.ringSize.toNat, toTake := n }).takeRing idx n
    match s.dieRead q.die (s.queueAsid q) va q.recBytes with
    | .ok (s1, bs) => take s1 bs
    | .bad _ => take s []
    | .wait => s.setQueue { q with toTake := n + 1 }

/-- A doorbell write: the queue takes the records up to the new producer index; of a disabled queue, or with an index
beyond the ring, it is ignored (R425). DEDUCED: log entry 31. -/
def State.ringDoorbell (s : State) (idx : Nat) (x : Word) : State :=
  let q := s.queue idx
  let size := q.ringSize.toNat
  if !q.en || size < x.toNat || size = 0 then s
  else s.takeRing idx ((x.toNat + size - q.prod) % size)

/-- Every queue takes what it has still to take. -/
def State.takeRings (s : State) : State :=
  (s.queues.filter fun q => q.toTake != 0).foldl (fun s q => s.takeRing q.idx q.toTake) s

/-! ## Module reset and bring-up (R414, R427) -/

/-- The bytes before the body of an image: type, version, body length, signature (R427). PRESUMED: log entry 64. -/
def imageHead : Nat := 12 + 29792

/-- An image verifies: its header is whole, its body is at most 64 MiB and lies in it, its version is not below the
fused minimum, and its signature verifies (R427). PRESUMED: log entry 64. -/
def imageGood (image : List Byte) : Bool :=
  let body := natOfBytes ((image.drop 8).take 4)
  decide (imageHead ≤ image.length) && decide (body ≤ 64 * 2 ^ 20) && decide (imageHead + body ≤ image.length)
    && decide (Config.minVersion ≤ natOfBytes ((image.drop 4).take 4)) && Config.imageVerifies image

/-- The vectors of a module reset: bits of READY, FAIL and LINKUP change (R426). -/
def State.resetVectors (s : State) : State :=
  let s1 := if s.ports.ready = 0 ∧ s.ports.failed = 0 then s else s.raise 9
  if s.ports.linkup = 0 then s1 else s1.raise 10

/-- The state after a module reset with an image: memory and poison marks stay, every register is at its reset value,
and a module whose image did not verify is in recovery (R427). DEDUCED: log entry 37. -/
def State.resetWith (s : State) (image : List Byte) (ok : Bool) : State :=
  let s1 := s.resetVectors
  { State.reset with
    mem := s.mem, poison := s.poison, free := s.free
    ports := { State.reset.ports with
      image := image, imageOk := ok, recovery := !ok, vectors := s1.ports.vectors, sent := s1.ports.sent } }

/-! ## Power states and gates (R421, R194) -/

/-- Write a cluster's dirty bytes back and leave its L1 empty (R194). -/
def State.emptyCluster (s : State) (cid : Nat) : State :=
  let s1 := s.cleanL1 cid fun _ => true
  s1.setCluster { s1.cluster cid with lines := [], icache := [], tlb := [] }

/-- A die's lines that a filter picks leave its L2; recorded L1 copies are recalled (R194). -/
def State.emptyL2 (s : State) (die : Nat) (p : L2Line → Bool) : State := s.giveUp fun e => e.die == die && p e

/-- A die leaves coherence: its clusters, then its slices (R194). -/
def State.emptyDie (s : State) (die : Nat) : State :=
  let s1 := ((s.clusters.filter fun c => dieOfCluster c.id == die).map Cluster.id).foldl State.emptyCluster s
  let s2 := s1.emptyL2 die fun _ => true
  s2.setDie { s2.die die with tlb := [] }

/-- A team is resident or saved on the module. -/
def State.occupied (s : State) : Bool := !s.teams.isEmpty || !s.saved.isEmpty

/-- No other module can be reached any more (R419): the lines that a peer held modified are poisoned, and no module
shares a line or owes an answer. DEDUCED: log entries 18, 25, 40. -/
def State.noLink (s : State) : State :=
  ((((s.ports.held.filter PeerLine.own).map PeerLine.line).foldl State.poisonLine s).modPorts fun p =>
    { p with peers := [], held := [], invs := [], tlbs := [] }).payOwed

/-- The effect of a PSCMD write (R421): refused with BUSY where a team is resident or saved, but for a write of 0. From
state 3 the way leads to state 0 alone. DEDUCED: log entry 37. DESIGN CHOICE: log entries 2, 71. -/
def State.powerTo (s : State) (n : Nat) : State :=
  let now := s.ports.pst
  if n ≠ 0 ∧ s.occupied then
    s.modPorts fun p => { p with psctl := setFld p.psctl 4 4 1 }
  else
    let set (s : State) : State := s.modPorts fun p =>
      { p with psctl := setFld (setFld (setFld p.psctl 4 4 0) 3 2 n) 1 0 n }
    if n = 0 ∧ now = 3 then set (s.resetWith s.ports.image (imageGood s.ports.image))
    else if now = 3 then s.modPorts fun p => { p with psctl := setFld (setFld p.psctl 4 4 0) 1 0 n }
    else if n = 0 then set s
    else
      let s1 := if n = 1 then (s.clusters.map Cluster.id).foldl State.emptyCluster s
        else (List.range 8).foldl State.emptyDie s
      if n ≠ 3 then set s1
      else
        let s2 := if s1.ports.linkup = 0 then s1 else s1.raise 10
        set (({ s2 with mem := [], poison := [], ports := { s2.ports with linkup := 0 } } : State).noLink)

/-- The host acts on an alarm (R423). -/
def Ports.act (p : Ports) : Ports := { p with alarmAt := none }

/-- A power cap as it is taken: 500 to 5400 W, other values as 5400 (R421). -/
def capTaken (n : Nat) : Nat := if 500 ≤ n ∧ n ≤ 5400 then n else 5400

/-- A write of PCAP; the host's ends the fallback (R423). -/
def Ports.writeCap (p : Ports) (host : Bool) (n : Nat) : Ports :=
  { p with psctl := setFld p.psctl 47 32 (capTaken n)
           tstat := if host then setFld p.tstat 62 62 0 else p.tstat }

/-- A write of the bytes of PSCTL that a test picks: its fields, and where the byte of PSCMD is written the commanded
state. A write by the host is an act on an alarm, and its write of PCAP ends the fallback (R421, R423). -/
def State.writePsctl (s : State) (host : Bool) (at_ : Nat → Bool) (x : Word) : State :=
  let s1 := s.modPorts fun p =>
    let p1 := if at_ 4 || at_ 5 then p.writeCap host (fld x 47 32) else p
    let p2 := if host then p1.act else p1
    { p2 with psctl := setFld (setFld (setFld (setFld p2.psctl 63 48 (fld x 63 48)) 31 16 (fld x 31 16))
                                15 8 (fld x 15 8)) 1 0 (fld x 1 0) }
  if at_ 0 then s1.powerTo (fld x 1 0) else s1

/-- A write of TSTAT: 1 clears ALARM; of the host it is an act (R423). -/
def Ports.writeTstat (p : Ports) (host : Bool) (x : Word) : Ports :=
  if x.getLsbD 63 then { (if host then p.act else p) with tstat := setFld p.tstat 63 63 0 } else p

/-- Bits of the gate word i that exist (R421). -/
def gateMask (i : Nat) : Word := if i = 0 then BitVec.allOnes 64 else if i = 1 then 0x800000000000FFFF else 0xFFFFFFFF

/-- Write word i of a die's commanded gates. A cleared gate bit rejoins its unit empty at once; a set bit waits for
UNIT_LEAVES_COHERENCE (R421). -/
def Ports.writeGate (p : Ports) (die i : Nat) (x : Word) : Ports :=
  let k := 3 * die + i
  let v := x &&& gateMask i
  { p with gateCmd := p.gateCmd.setIfInBounds k v
           gateSts := p.gateSts.setIfInBounds k (p.gateSts.toList.getD k 0 &&& v) }

/-- Word i of a die's gate status: the units that a bit gates, and those that the module's power state does (R421). -/
def Ports.gateWord (p : Ports) (die i : Nat) : Word :=
  let own := p.gateSts.toList.getD (3 * die + i) 0
  if 2 ≤ p.pst then own ||| gateMask i
  else if p.pst = 1 ∧ i < 2 then own ||| (gateMask i &&& (if i = 0 then BitVec.allOnes 64 else 0xFFFF))
  else own

/-! ## Accesses of the ports (R420, R425, R428) -/

/-- n free bytes. -/
def State.freeBytes (s : State) (n : Nat) : State × List Byte :=
  (s.useFree n, (List.range n).map fun i => Config.freeByte (s.free + i))

/-- A port reads bytes of one line at the home, as an access of system scope; those of another module are asked for over
the fabric. Bytes that no memory holds, or that are poisoned, are free. DEDUCED: log entry 51. -/
def State.portPart (s : State) (pa n : Nat) : Res (State × List Byte) :=
  match s.reach pa 0 with
  | .wait => .wait
  | .bad _ => .ok (s.freeBytes n)
  | .ok _ =>
    if s.foreign pa then .ok ((s.send (.load pa n)).freeBytes n)
    else match s.l2Read (homeDie pa) 0xFFF none 0 pa n with
      | .ok r => .ok r
      | _ => .ok (s.freeBytes n)

/-- A port reads physical bytes; it waits while some lie in memory that is not READY (R415). -/
def State.portRead (s : State) (pa n : Nat) : Res (State × List Byte) :=
  (lineParts pa n).foldl (fun acc p => acc.andThen fun (s, bs) =>
    (s.portPart p.1 p.2).andThen fun (s1, b) => .ok (s1, bs ++ b)) (.ok (s, []))

/-- A port writes physical bytes at the home, as an access of system scope; it waits while some lie in memory that is
not READY, and bytes that no memory can hold are lost. DEDUCED: log entry 51. -/
def State.portWrite (s : State) (pa : Nat) (bs : List Byte) : Res State :=
  (lineParts pa bs.length).foldl (fun acc p => acc.andThen fun s =>
    let part := (bs.drop (p.1 - pa)).take p.2
    match s.reach p.1 0 with
    | .wait => .wait
    | .bad _ => .ok s
    | .ok _ =>
      match if s.foreign p.1 then s.farWrite 0 p.1 part else s.l2Write (homeDie p.1) 0xFFF 0 p.1 part with
      | .ok s1 => .ok s1
      | _ => .ok s) (.ok s)

/-! ## The firmware mailbox (R428) -/

/-- A request that the mailbox refuses: a command that is none of the three, or a buffer that is not 64-byte aligned
or lies outside the physical space. DEDUCED: log entry 39. -/
def Ports.fwRefused (p : Ports) (x : Word) : Bool :=
  !(x == 1 || x == 2 || x == 3) || fld p.fwBuf 5 0 != 0 || decide (2 ^ 56 ≤ p.fwBuf.toNat)

/-- A write of CMD: it starts a request unless one is in progress; a refused one completes at once (R426, R428).
DEDUCED: log entry 39. -/
def State.writeFwCmd (s : State) (x : Word) : State :=
  if s.ports.fwSt = 0 then s
  else if s.ports.fwRefused x then (s.modPorts fun p => { p with fwCmd := x, fwSt := 2 }).raise 11
  else s.modPorts fun p => { p with fwCmd := x, fwSt := 0, fwBusy := some x.toNat }

/-- What a quote measures and states (R428): MODID, the image with its version, PSCTL and the gate blocks. -/
def Ports.quoted (p : Ports) : List Byte :=
  bytesOfNat 8 p.modid.toNat ++ p.image ++ bytesOfNat 8 p.psctl.toNat ++ bytesOfWords64 p.gateCmd.toList
    ++ bytesOfWords64 ((List.range 24).map fun k => p.gateWord (k / 3) (k % 3))

/-- The record that the boot engine leaves in the buffer: a quote over the nonce, whose contents depend on what R428
lists, or the identity. DEDUCED: log entry 39. -/
def bootBytes (what : Nat) (nonce quoted : List Byte) (n : Nat) : List Byte :=
  (List.range n).map fun i => if h : i < nonce.length then nonce[i] else Config.bootByte what (nonce ++ quoted) i

/-- A buffer access of the boot engine: reachable memory without a poisoned line, memory that is refused, or memory that
is not READY yet. DEDUCED: log entry 39. -/
def State.bufferAt (s : State) (pa n : Nat) : Res Unit :=
  (lineParts pa n).foldl (fun acc p => acc.andThen fun _ => (s.reach p.1 0).andThen fun _ =>
    Res.unless (!s.poisoned p.1) (poisonFlt 0 p.1)) (.ok ())

/-- The buffer can be used now. -/
def State.bufferOk (s : State) (pa n : Nat) : Bool := match s.bufferAt pa n with | .ok _ => true | _ => false

/-- The boot engine reads the buffer: memory at its home, as a port does; in recovery, where no memory is READY, what
the host holds at the address (R427). DEDUCED: log entry 39. -/
def State.bufferRead (s : State) (pa n : Nat) : Res (State × List Byte) :=
  if s.ports.recovery then .ok (s, (List.range n).map fun i => Config.hostByte s.time (pa + i)) else s.portRead pa n

/-- The boot engine writes the buffer: memory at its home, as a port does; in recovery the host's own.
DEDUCED: log entry 39. -/
def State.bufferWrite (s : State) (pa : Nat) (bs : List Byte) : Res State :=
  if s.ports.recovery then .ok s else s.portWrite pa bs

/-- The request in progress completes (R428): an image is verified and replaces the stored one with a module reset, or
a quote or the identity is written; the completion raises vector 11 (R426). It waits for memory that is not READY.
DEDUCED: log entry 39. -/
def State.firmwareDone (s : State) : State :=
  let p := s.ports
  let pa := p.fwBuf.toNat
  let n := p.fwLen.toNat
  let finish (s : State) (st : Word) : State :=
    (s.modPorts fun p => { p with fwSt := st, fwBusy := none }).raise 11
  match p.fwBusy with
  | none => s
  | some cmd =>
    match (if p.recovery then .ok () else s.bufferAt pa n).andThen fun _ =>
        s.bufferRead pa (if cmd = 1 then n else if cmd = 2 then min n 32 else 0) with
    | .wait => s
    | .bad _ => finish s 2
    | .ok (s1, got) =>
      if cmd = 1 then (if imageGood got then (s1.raise 11).resetWith got true else finish s1 3)
      else if cmd = 2 ∧ n < 32 then finish s 2
      else match s1.bufferWrite pa (bootBytes cmd got (if cmd = 2 then p.quoted else []) n) with
        | .ok s2 => finish s2 1
        | _ => s

/-! ## The registers of R413 -/

/-- Word i of a register block of n words, at offset `off` from its base. -/
def inBlock (off base stride count : Nat) : Option (Nat × Nat) :=
  if base ≤ off ∧ off < base + stride * count then some ((off - base) / stride, (off - base) % stride / 8) else none

/-- A register is served: in recovery the firmware mailbox is, and the words that show the bring-up (R427).
DEDUCED: log entry 39. -/
def Ports.serves (p : Ports) (off : Nat) : Bool :=
  !p.recovery || off < 0x20 || (decide (0x40000 ≤ off) && decide (off < 0x40020))

/-- The doubleword of a device register (R413); unlisted offsets read as zero. DESIGN CHOICE: log entry 53. -/
def State.regRead (s : State) (off : Nat) : Word :=
  if !s.ports.serves off then 0 else
  let p := s.ports
  if off = 0 then p.modid.setWidth 64
  else if off = 8 then p.ready
  else if off = 16 then p.failed
  else if off = 24 then p.linkup.setWidth 64
  else if off = 0x10000 then p.psctl
  else if off = 0x10008 then p.tstat
  else if off = 0x40000 then p.fwCmd
  else if off = 0x40008 then p.fwBuf
  else if off = 0x40010 then p.fwLen
  else if off = 0x40018 then p.fwSt
  else match inBlock off 0x11000 0x40 8 with
  | some (d, i) =>
    if i < 3 then p.gateCmd.toList.getD (3 * d + i) 0
    else if 4 ≤ i ∧ i < 7 then p.gateWord d (i - 4) else 0
  | none => match inBlock off 0x20000 0x40 32 with
  | some (n, i) => if i = 0 then Config.linkStatus n s.time else 0
  | none => match inBlock off 0x1000000 8 32768 with
  | some (n, _) => s.counter n
  | none => match inBlock off 0x2000000 32 32768 with
  | some (n, i) =>
    let q := s.queue n
    if i = 0 then q.d0 else if i = 1 then q.ringVa else if i = 2 then q.ringSize else q.d3
  | none => 0

/-- Write the bytes of a doubleword of a device register (R413) that a test picks, the others of `x` being what it
holds; unlisted offsets ignore writes. `host` tells a write by the host. -/
def State.regWriteAt (s : State) (host : Bool) (at_ : Nat → Bool) (off : Nat) (x : Word) : State :=
  if !s.ports.serves off ∨ (s.ports.recovery ∧ off = 0) then s
  else if off = 0 then (if s.ports.linkup = 0 then s.modPorts fun p => { p with modid := x.setWidth 9 } else s)
  else if off = 0x10000 then s.writePsctl host at_ x
  else if off = 0x10008 then s.modPorts fun p => p.writeTstat host x
  else if off = 0x40000 then s.writeFwCmd x
  else if off = 0x40008 then s.modPorts fun p => { p with fwBuf := x }
  else if off = 0x40010 then s.modPorts fun p => { p with fwLen := x }
  else match inBlock off 0x11000 0x40 8 with
  | some (d, i) => if i < 3 then s.modPorts fun p => p.writeGate d i x else s
  | none => match inBlock off 0x1000000 8 32768 with
  | some (n, _) => s.setCounter n x
  | none => match inBlock off 0x2000000 32 32768 with
  | some (n, i) => if h : i < 4 then s.setQueue ((s.queue n).write ⟨i, h⟩ x) else s
  | none => match inBlock off 0x3000000 8 32768 with
  | some (n, _) => s.ringDoorbell n x
  | none => s

/-- The host writes a whole doubleword of a device register. -/
def State.regWrite (s : State) (off : Nat) (x : Word) : State := s.regWriteAt true (fun _ => true) off x

/-- n bytes of device register space from an offset, each from its doubleword. -/
def State.regBytes (s : State) (off n : Nat) : List Byte :=
  (List.range n).map fun i =>
    BitVec.ofNat 8 ((s.regRead ((off + i) / 8 * 8)).toNat / 2 ^ (8 * ((off + i) % 8)))

/-- Write bytes of one doubleword of device register space: the others keep what the register reads as, and are 0 for
TSTAT, whose ALARM a 1 clears. -/
def State.regStore (s : State) (host : Bool) (off : Nat) (bs : List Byte) : State :=
  let base := off / 8 * 8
  let old := if base = 0x10008 then [] else bytesOfNat 8 (s.regRead base).toNat
  let k := off - base
  let at_ (i : Nat) : Bool := decide (k ≤ i) && decide (i < k + bs.length)
  let new := (List.range 8).map fun i => if at_ i then bs.getD (i - k) 0 else old.getD i 0
  s.regWriteAt host at_ base (BitVec.ofNat 64 (natOfBytes new))

/-- Write bytes of device register space, a doubleword at a time. -/
def State.regStoreAll (s : State) (host : Bool) (off : Nat) (bs : List Byte) : State :=
  (chunks 8 (bs.length / 8 + 2) off bs.length).foldl
    (fun s p => s.regStore host p.1 ((bs.drop (p.1 - off)).take p.2)) s

end Sys2Proof.Machine
end

