-- ==== Sys2Proof/Machine/Flags.lean ====
section
/-! DEFINITION. The sticky flags of NFLAGS (R70). -/

namespace Sys2Proof.Machine

/-- A set of flags, as the bits of NFLAGS. -/
abbrev Flags := Word

/-- NV: an operation without NaN operands produced a NaN (R70). -/
def flagNV : Flags := 1
/-- OF: a result overflowed (R66). -/
def flagOF : Flags := 2
/-- UF: a nonzero exact result became subnormal or zero (R66). -/
def flagUF : Flags := 4
/-- NX: a rounded result was inexact (R66). -/
def flagNX : Flags := 8
/-- CVSAT: a conversion to an integer format saturated or converted a NaN (R66, R73). -/
def flagCVSAT : Flags := 16
/-- ISAT: an INT32 accumulation saturated (R77). -/
def flagISAT : Flags := 32

/-- A flag that a condition sets. -/
def flagIf (c : Bool) (f : Flags) : Flags := if c then f else 0

end Sys2Proof.Machine
end

