-- ==== Sys2Proof/Machine/Numbers.lean ====
section
/-! DEFINITION. Number formats and arithmetic (03_numbers.md, R56 to R78). -/

namespace Sys2Proof.Machine

/-! ## Exact values and rounding -/

/-- An exact value: NaN, an infinity, or (-1)^neg * m * 2^e with signed zeros. -/
inductive Num where
  | nan
  | inf (neg : Bool)
  | fin (neg : Bool) (m : Nat) (e : Int)
deriving DecidableEq, Repr

/-- A rounding mode with the draw that sr uses (R64, R65). -/
inductive RMode where
  | rne
  | rz
  | sr (u : Nat)
deriving DecidableEq, Repr

/-- The mode of a rounding field with a draw. -/
def rmode (r : Rnd) (u : Nat) : RMode :=
  match r with | .rne => .rne | .rz => .rz | .sr => .sr u

/-- One step of a generator (R65): the new state and the draw st[31:16]. -/
def genStep (st : Word32) : Word32 × Nat :=
  let a := st ^^^ (st <<< 13)
  let b := a ^^^ (a >>> 17)
  let c := b ^^^ (b <<< 5)
  (c, (c >>> 16).toNat)

/-- The seeding of generator number k of a core (R68): a state of 0 is replaced. -/
def genSeed (seed : Word32) (k : Nat) : Word32 :=
  let s := seed ^^^ BitVec.ofNat 32 (k * 0x9E3779B9)
  if s = 0 then 1 else s

/-- Round m * 2^e to an integer magnitude; true where the rounding is inexact (R64, R65). -/
def roundInt (mode : RMode) (m : Nat) (e : Int) : Nat × Bool :=
  if 0 ≤ e then (m * 2 ^ e.toNat, false)
  else if m.log2 + 20 < (-e).toNat then (0, m != 0)
  else
    let d := 2 ^ (-e).toNat
    let q := m / d
    let r := m % d
    if r = 0 then (q, false)
    else match mode with
      | .rne => (if d < 2 * r ∨ (2 * r = d ∧ q % 2 = 1) then q + 1 else q, true)
      | .rz => (q, true)
      | .sr u => (if u < r * 65536 / d then q + 1 else q, true)

/-- floor_log2 of m * 2^e, m nonzero. -/
def floorLog2 (m : Nat) (e : Int) : Int := (m.log2 : Int) + e

/-! ## Scalar floating formats (R57, R58) -/

/-- The layout of a scalar floating format. `kind` 0 has infinities and NaNs, 1 (E4M3) one NaN and no infinity, 2
neither. -/
structure FpFmt where
  eb : Nat
  mb : Nat
  bias : Nat
  kind : Nat
  /-- the magnitude pattern of the largest finite value -/
  top : Nat
  nan : Nat
deriving DecidableEq, Repr

def fp32 : FpFmt := ⟨8, 23, 127, 0, 0x7F7FFFFF, 0x7FC00000⟩
def fp16 : FpFmt := ⟨5, 10, 15, 0, 0x7BFF, 0x7E00⟩
def bf16 : FpFmt := ⟨8, 7, 127, 0, 0x7F7F, 0x7FC0⟩
def e4m3 : FpFmt := ⟨4, 3, 7, 1, 0x7E, 0x7F⟩
def e5m2 : FpFmt := ⟨5, 2, 15, 0, 0x7B, 0x7E⟩
def e2m3 : FpFmt := ⟨2, 3, 1, 2, 0x1F, 0⟩
def e2m1 : FpFmt := ⟨2, 1, 1, 2, 0x7, 0⟩

/-- The bits of an element. -/
def FpFmt.bits (f : FpFmt) : Nat := 1 + f.eb + f.mb

/-- The exact value of a pattern (R57). -/
def FpFmt.decode (f : FpFmt) (x : Nat) : Num :=
  let s := x / 2 ^ (f.eb + f.mb) % 2 == 1
  let ex := x / 2 ^ f.mb % 2 ^ f.eb
  let mt := x % 2 ^ f.mb
  if f.kind = 0 ∧ ex = 2 ^ f.eb - 1 then (if mt = 0 then .inf s else .nan)
  else if f.kind = 1 ∧ ex = 2 ^ f.eb - 1 ∧ mt = 2 ^ f.mb - 1 then .nan
  else if ex = 0 then .fin s mt (1 - (f.bias : Int) - f.mb)
  else .fin s (2 ^ f.mb + mt) ((ex : Int) - f.bias - f.mb)

/-- The pattern of a value rounded once into a format, with the flags of R66, R70 and R73. DEDUCED: log entry 44. -/
def FpFmt.encode (f : FpFmt) (mode : RMode) (x : Num) : Nat × Flags :=
  let sgn (neg : Bool) : Nat := if neg then 2 ^ (f.eb + f.mb) else 0
  let infBits := (2 ^ f.eb - 1) * 2 ^ f.mb
  match x with
  | .nan => (f.nan, 0)
  | .inf neg => if f.kind = 0 then (sgn neg + infBits, 0) else (sgn neg + f.top, flagOF)
  | .fin neg m e =>
    if m = 0 then (sgn neg, 0)
    else
      let q := max (floorLog2 m e) (1 - (f.bias : Int)) - f.mb
      let (r, inexact) := roundInt mode m (e - q)
      let mag := ((q + f.mb + f.bias).toNat - 1) * 2 ^ f.mb + r
      if f.top < mag then
        (sgn neg + (if f.kind = 0 ∧ mode ≠ .rz then infBits else f.top), flagOF ||| flagNX)
      else (sgn neg + mag, flagIf inexact flagNX ||| flagIf (r < 2 ^ f.mb) flagUF)

/-! ## Integers -/

/-- The value of an integer. -/
def Num.ofInt (v : Int) : Num := .fin (decide (v < 0)) v.natAbs 0

/-- A conversion to a signed integer of n bits, as a pattern, with OF and NX; `sat` is set besides where it saturates
or converts a NaN (R66, R73). DEDUCED: log entry 44. -/
def encodeInt (n : Nat) (sat : Flags) (mode : RMode) (x : Num) : Nat × Flags :=
  let hi : Int := 2 ^ (n - 1) - 1
  let lo : Int := -(2 ^ (n - 1))
  let pat (v : Int) : Nat := (v % (2 ^ n : Int)).toNat
  match x with
  | .nan => (0, sat)
  | .inf neg => (pat (if neg then lo else hi), flagOF ||| sat)
  | .fin neg m e =>
    let (r, inexact) := if 0 ≤ e ∧ (n : Int) < floorLog2 m e ∧ m ≠ 0 then (2 ^ n, false) else roundInt mode m e
    let v : Int := if neg then -(r : Int) else r
    if hi < v then (pat hi, flagOF ||| flagNX ||| sat)
    else if v < lo then (pat lo, flagOF ||| flagNX ||| sat)
    else (pat v, flagIf inexact flagNX ||| flagIf (v == 0 && m != 0) flagUF)

/-- The signed value of an n-bit pattern. -/
def signedOf (n x : Nat) : Int :=
  let v := x % 2 ^ n
  if 2 ^ (n - 1) ≤ v then (v : Int) - 2 ^ n else v

/-! ## Arithmetic (R72) -/

/-- A NaN. -/
def Num.isNan : Num → Bool
  | .nan => true
  | _ => false

/-- The value as a scaled integer at exponent e0, at most its own exponent. -/
def scaled (neg : Bool) (m : Nat) (e e0 : Int) : Int :=
  let v : Int := m * 2 ^ (e - e0).toNat
  if neg then -v else v

/-- An exact sum. -/
def Num.add : Num → Num → Num
  | .nan, _ | _, .nan => .nan
  | .inf a, .inf b => if a = b then .inf a else .nan
  | .inf a, _ => .inf a
  | _, .inf b => .inf b
  | .fin a m e, .fin b n f =>
    if m = 0 ∧ n = 0 then .fin (a && b) 0 0
    else if m = 0 then .fin b n f
    else if n = 0 then .fin a m e
    else
      let e0 := min e f
      let v := scaled a m e e0 + scaled b n f e0
      if v = 0 then .fin false 0 0 else .fin (decide (v < 0)) v.natAbs e0

/-- An exact product. -/
def Num.mul : Num → Num → Num
  | .nan, _ | _, .nan => .nan
  | .inf a, .inf b => .inf (a != b)
  | .inf a, .fin b n _ => if n = 0 then .nan else .inf (a != b)
  | .fin a m _, .inf b => if m = 0 then .nan else .inf (a != b)
  | .fin a m e, .fin b n f => if m = 0 ∨ n = 0 then .fin (a != b) 0 0 else .fin (a != b) (m * n) (e + f)

/-- The value of the opposite sign. -/
def Num.neg : Num → Num
  | .nan => .nan
  | .inf a => .inf !a
  | .fin a m e => .fin (!a) m e

/-- The order of two values that are not NaN, with -0 equal to +0: negative, zero or positive (R72). -/
def Num.cmp (x y : Num) : Int :=
  let rank : Num → Int := fun n => match n with | .inf true => -1 | .inf false => 1 | _ => 0
  match x, y with
  | .fin a m e, .fin b n f =>
    let e0 := min e f
    scaled a m e e0 - scaled b n f e0
  | x, y => rank x - rank y

/-- x < y; false with a NaN (R72). -/
def Num.lt (x y : Num) : Bool := !x.isNan && !y.isNan && decide (x.cmp y < 0)
/-- x = y; false with a NaN (R72). -/
def Num.eq (x y : Num) : Bool := !x.isNan && !y.isNan && decide (x.cmp y = 0)
/-- x at most y; false with a NaN (R72). -/
def Num.le (x y : Num) : Bool := !x.isNan && !y.isNan && decide (x.cmp y ≤ 0)

/-- The sign of a value. -/
def Num.isNeg : Num → Bool
  | .nan => false
  | .inf a => a
  | .fin a _ _ => a

/-- x is ranked below y, with -0 below +0 (R72). -/
def Num.below (x y : Num) : Bool := x.cmp y < 0 || (x.cmp y == 0 && x.isNeg && !y.isNeg)

/-- The lesser value under R72. -/
def Num.min (x y : Num) : Num :=
  if x.isNan then y else if y.isNan then x else if y.below x then y else x
/-- The greater value under R72. -/
def Num.max (x y : Num) : Num :=
  if x.isNan then y else if y.isNan then x else if x.below y then y else x

/-- A NaN that no NaN operand brought about sets NV (R70). DEDUCED: log entry 44. -/
def nvFlag (operands : List Num) (r : Num) : Flags := flagIf (r.isNan && !operands.any Num.isNan) flagNV

/-- A magnitude of at least 2^e0 with a sticky bit for a remainder. -/
def sticky (neg : Bool) (q : Nat) (exact : Bool) (e : Int) : Num :=
  .fin neg (2 * q + (if exact then 0 else 1)) (e - 1)

/-- The bits kept of a result that is not exact, far above any format's. -/
def workBits : Nat := 192

/-- A quotient, exact but for a sticky bit below all bits that rounding reads. x/0 is an infinity (R213), 0/0 and
∞/∞ are NaN. -/
def Num.div : Num → Num → Num
  | .nan, _ | _, .nan => .nan
  | .inf _, .inf _ => .nan
  | .inf a, .fin b _ _ => .inf (a != b)
  | .fin a _ _, .inf b => .fin (a != b) 0 0
  | .fin a m e, .fin b n f =>
    if n = 0 then (if m = 0 then .nan else .inf (a != b))
    else if m = 0 then .fin (a != b) 0 0
    else
      let k := workBits + n.log2
      let t := m * 2 ^ k
      sticky (a != b) (t / n) (t % n == 0) (e - f - k)

/-- A square root; NaN of a negative value, and -0 of -0. -/
def Num.sqrt : Num → Num
  | .nan => .nan
  | .inf a => if a then .nan else .inf false
  | .fin a m e =>
    if m = 0 then .fin a 0 0
    else if a then .nan
    else
      let k := 2 * workBits + (if e % 2 = 0 then 0 else 1)
      let t := m * 2 ^ k
      let r := Nat.sqrt t
      sticky false r (r * r == t) ((e - k) / 2)

/-- A reciprocal square root of a positive value; the sticky bit tells an exact result. -/
def Num.rsqrt : Num → Num
  | .nan => .nan
  | .inf a => if a then .nan else .fin false 0 0
  | .fin a m e =>
    if m = 0 then .inf a
    else if a then .nan
    else
      let m2 := if e % 2 = 0 then m else 2 * m
      let e2 := if e % 2 = 0 then e else e - 1
      let k := workBits + m2.log2
      let t := 2 ^ (2 * k)
      let r := Nat.sqrt (t / m2)
      sticky false r (r * r * m2 == t) (-(k : Int) - e2 / 2)

/-- The fraction bits of the fixed-point work of the functions that are not algebraic. -/
def fixBits : Nat := 320

/-- 2^(f / 2^n) for n fraction bits f, the lowest handled last, in fixed point: each bit multiplies by the next square
root of 2. -/
def exp2Frac : Nat → Nat → Nat → Nat → Nat
  | 0, _, _, acc => acc
  | n + 1, f, root, acc =>
    let acc' := if f / 2 ^ n % 2 = 1 then acc * root / 2 ^ fixBits else acc
    exp2Frac n f (Nat.sqrt (root * 2 ^ fixBits)) acc'

/-- 2^x (R215), correctly rounded once it is encoded. DEDUCED: log entry 44. -/
def Num.exp2 : Num → Num
  | .nan => .nan
  | .inf a => if a then .fin false 0 0 else .inf false
  | .fin a m e =>
    if m = 0 then .fin false 1 0
    else if 0 ≤ e ∨ m % 2 ^ (-e).toNat = 0 then
      let n : Nat := if 0 ≤ e then m * 2 ^ e.toNat else m / 2 ^ (-e).toNat
      .fin false 1 (if a then -(n : Int) else n)
    else
      let k := (-e).toNat
      let v : Int := if a then -(m : Int) else m
      let n := v / 2 ^ k
      let f := (v - n * 2 ^ k).toNat
      let root := Nat.sqrt (2 * 2 ^ (2 * fixBits))
      sticky false (exp2Frac k f root (2 ^ fixBits)) false (n - fixBits)

/-- The fraction bits of log2 z, z in [1, 2) in fixed point, by repeated squaring. -/
def log2Frac : Nat → Nat → Nat → Nat
  | 0, _, acc => acc
  | n + 1, z, acc =>
    let z2 := z * z / 2 ^ fixBits
    if 2 * 2 ^ fixBits ≤ z2 then log2Frac n (z2 / 2) (2 * acc + 1) else log2Frac n z2 (2 * acc)

/-- log2 of a positive finite value as floor(log2 * 2^128), and whether that is exact. -/
def log2Fix (m : Nat) (e : Int) : Int × Bool :=
  let n := m.log2
  let z := m * 2 ^ fixBits / 2 ^ n
  (((n : Int) + e) * 2 ^ 128 + log2Frac 128 z 0, m == 2 ^ n)

/-- A signed fixed-point value between v and v + 1 ulp, or exactly v, as a value. -/
def fixNum (v : Int) (exact : Bool) (e : Int) : Num :=
  if exact then .fin (decide (v < 0)) v.natAbs e
  else if v < 0 then .fin true (2 * v.natAbs - 1) (e - 1)
  else .fin false (2 * v.natAbs + 1) (e - 1)

/-- log2 x (R215). DEDUCED: log entry 44. -/
def Num.log2 : Num → Num
  | .nan => .nan
  | .inf a => if a then .nan else .inf false
  | .fin a m e =>
    if m = 0 then .inf true
    else if a then .nan
    else
      let (v, exact) := log2Fix m e
      if v = 0 ∧ exact then .fin false 0 0 else fixNum v exact (-128)

/-- floor(ln 2 * 2^256). -/
def ln2Fix : Nat := 80260960185991308862233904206310070533990667611589946606122867505419956976171

/-- ln x (R331). -/
def Num.ln : Num → Num
  | .nan => .nan
  | .inf a => if a then .nan else .inf false
  | .fin a m e =>
    if m = 0 then .inf true
    else if a then .nan
    else
      let (v, exact) := log2Fix m e
      if v = 0 ∧ exact then .fin false 0 0 else fixNum (v * ln2Fix / 2 ^ 256) false (-128)

/-! ## Elements and blocks (R59 to R63, R74) -/

/-- A format of stored elements. -/
inductive ElFmt where
  | fp (f : FpFmt)
  | int (n : Nat)
  /-- a QB block with magnitudes of m bits (R61) -/
  | qb (m : Nat)
  /-- an MX block of floating elements (R59) -/
  | mx (f : FpFmt)
  | mxint
deriving DecidableEq, Repr

/-- The stored form of a format code (R63). -/
def fmtEl : Fmt → ElFmt
  | .bf16 => .fp Machine.bf16
  | .fp16 => .fp Machine.fp16
  | .e4m3 => .fp Machine.e4m3
  | .e5m2 => .fp Machine.e5m2
  | .qb8 => .qb 6
  | .qb5 => .qb 3
  | .qb4 => .qb 2
  | .mxfp8 => .mx Machine.e4m3
  | .mxfp6 => .mx e2m3
  | .mxfp4 => .mx e2m1
  | .int8 => .int 8
  | .fp32 => .fp Machine.fp32
  | .int32 => .int 32

/-- The stored form of a conversion format. -/
def cfmtEl : CFmt → ElFmt
  | .shared f => fmtEl f
  | .mxint8 => .mxint

/-- The elements and bits of the unit a format moves: a block, or one element. -/
def ElFmt.unit : ElFmt → Nat × Nat
  | .fp f => (1, f.bits)
  | .int n => (1, n)
  | .qb m => (16, 16 + 16 * (m + 1))
  | .mx f => (32, 8 + 32 * f.bits)
  | .mxint => (32, 264)

/-- The format moves whole blocks. -/
def ElFmt.isBlock (f : ElFmt) : Bool := 1 < f.unit.1

/-- The bits of n elements, a whole number of units. -/
def ElFmt.extent (f : ElFmt) (n : Nat) : Nat := (n + f.unit.1 - 1) / f.unit.1 * f.unit.2

/-- The bits lo up to lo + n of a pattern. -/
def bitsAt (x lo n : Nat) : Nat := x / 2 ^ lo % 2 ^ n

/-- The values of one unit. -/
def ElFmt.decodeUnit (f : ElFmt) (x : Nat) : List Num :=
  match f with
  | .fp g => [g.decode x]
  | .int n => [Num.ofInt (signedOf n x)]
  | .qb m =>
    let e := bitsAt x 0 8
    (List.range 16).map fun i =>
      let sh := bitsAt x (8 + 2 * (i / 4)) 2
      let el := bitsAt x (16 + (m + 1) * i) (m + 1)
      if e = 0xFF then .nan else .fin (decide (2 ^ m ≤ el)) (el % 2 ^ m) ((e : Int) - 127 - sh - m)
  | .mx g =>
    let sc := bitsAt x 0 8
    (List.range 32).map fun i =>
      if sc = 0xFF then .nan
      else match g.decode (bitsAt x (8 + g.bits * i) g.bits) with
        | .fin a m e => .fin a m (e + sc - 127)
        | v => v
  | .mxint =>
    let sc := bitsAt x 0 8
    (List.range 32).map fun i =>
      let v := signedOf 8 (bitsAt x (8 + 8 * i) 8)
      if sc = 0xFF then .nan else .fin (decide (v < 0)) v.natAbs ((sc : Int) - 127 - 6)

/-- The values of n elements packed from bit 0. -/
def ElFmt.decode (f : ElFmt) (n x : Nat) : List Num :=
  ((List.range ((n + f.unit.1 - 1) / f.unit.1)).flatMap fun j =>
    f.decodeUnit (bitsAt x (j * f.unit.2) f.unit.2)).take n

/-- The largest magnitude of a list: none for all zeros, some none for an infinity, else its floor_log2. -/
def bigLog (xs : List Num) : Option (Option Int) :=
  xs.foldl (fun acc x => match acc, x with
    | some none, _ => some none
    | _, .inf _ => some none
    | acc, .fin _ m e =>
      if m = 0 then acc
      else match acc with
        | some (some l) => some (some (max l (floorLog2 m e)))
        | _ => some (some (floorLog2 m e))
    | acc, .nan => acc) none

/-- v within lo and hi. -/
def clampI (v lo hi : Int) : Int := min (max v lo) hi

/-- Join fields of w bits, the first lowest. -/
def packFields (w : Nat) (xs : List Nat) : Nat := xs.foldr (fun x acc => x % 2 ^ w + 2 ^ w * acc) 0

/-- A QB block (R62) with its flags; `modes` are the modes of the elements. -/
def encodeQb (m : Nat) (modes : List RMode) (xs : List Num) : Nat × Flags :=
  if xs.any Num.isNan then (0xFF, 0)
  else
    let e : Int := match bigLog xs with
      | none => 0
      | some none => 254
      | some (some l) => clampI (l + 128) 0 254
    let sh : List Nat := (List.range 4).map fun q =>
      match bigLog ((xs.drop (4 * q)).take 4) with
      | none => 3
      | some none => 0
      | some (some l) => (clampI (e - 128 - l) 0 3).toNat
    let els := (List.range 16).map fun i =>
      let s := sh.getD (i / 4) 0
      match xs.getD i (.fin false 0 0) with
      | .nan => (0, (0 : Flags))
      | .inf a => ((if a then 2 ^ m else 0) + (2 ^ m - 1), flagOF)
      | .fin a mg ex =>
        let (r, inexact) := roundInt (modes.getD i .rne) mg (ex + m - (e - 127 - s))
        let sat := decide (2 ^ m - 1 < r)
        ((if a then 2 ^ m else 0) + (if sat then 2 ^ m - 1 else r),
          flagIf sat (flagOF ||| flagNX) ||| flagIf inexact flagNX ||| flagIf (r == 0 && mg != 0) flagUF)
    (e.toNat + 256 * packFields 2 sh + 65536 * packFields (m + 1) (els.map Prod.fst),
      els.foldl (fun acc p => acc ||| p.2) 0)

/-- An MX block (R74) with its flags. -/
def encodeMx (w : Nat) (emax : Int) (el : RMode → Num → Nat × Flags) (modes : List RMode) (xs : List Num) :
    Nat × Flags :=
  if xs.any Num.isNan then (0xFF, 0)
  else
    let sc : Int := match bigLog xs with
      | none => 0
      | some none => clampI (127 - emax + 127) 0 254
      | some (some l) => clampI (l - emax + 127) 0 254
    let els := (List.range 32).map fun i =>
      let x := match xs.getD i (.fin false 0 0) with
        | .fin a m e => Num.fin a m (e - (sc - 127))
        | v => v
      el (modes.getD i .rne) x
    (sc.toNat + 256 * packFields w (els.map Prod.fst), els.foldl (fun acc p => acc ||| p.2) 0)

/-- An MXINT8 element: round(64 x), saturated; OF only (R66, R74). -/
def encodeMxint (mode : RMode) (x : Num) : Nat × Flags :=
  let y := match x with | .fin a m e => Num.fin a m (e + 6) | v => v
  let (p, fl) := encodeInt 8 0 mode y
  (p, fl ||| (match x with | .fin _ m _ => flagIf (p == 0 && m != 0) flagUF | _ => 0))

/-- emax of R74. -/
def FpFmt.emax (f : FpFmt) : Int := if f.eb = 4 then 8 else 2

/-- One unit encoded. -/
def ElFmt.encodeUnit (f : ElFmt) (modes : List RMode) (xs : List Num) : Nat × Flags :=
  match f with
  | .fp g => g.encode (modes.getD 0 .rne) (xs.getD 0 (.fin false 0 0))
  | .int n => encodeInt n flagCVSAT (modes.getD 0 .rne) (xs.getD 0 (.fin false 0 0))
  | .qb m => encodeQb m modes xs
  | .mx g => encodeMx g.bits g.emax g.encode modes xs
  | .mxint => encodeMx 8 0 encodeMxint modes xs

/-- A list of values encoded from bit 0; a last block is filled with +0 (R62, R74). -/
def ElFmt.encode (f : ElFmt) (modes : List RMode) (xs : List Num) : Nat × Flags :=
  let u := f.unit.1
  (List.range ((xs.length + u - 1) / u)).foldl (fun acc j =>
    let (p, fl) := f.encodeUnit ((modes.drop (u * j)).take u) ((xs.drop (u * j)).take u)
    (acc.1 + p * 2 ^ (j * f.unit.2), acc.2 ||| fl)) (0, 0)

/-! ## FP32 helpers -/

/-- An FP32 result rounded to nearest even, with its flags. -/
def rne32 (x : Num) : Word32 × Flags :=
  let (p, fl) := fp32.encode .rne x
  (BitVec.ofNat 32 p, fl)

/-- The exact value of an FP32 pattern. -/
def num32 (x : Word32) : Num := fp32.decode x.toNat

/-- An FP32 sum rounded once, with its flags (R72, R66). -/
def addF32 (x y : Word32) : Word32 × Flags :=
  let r := (num32 x).add (num32 y)
  let (p, fl) := rne32 r
  (p, fl ||| nvFlag [num32 x, num32 y] r)

/-- A saturating INT32 sum: ISAT where it changes the sum (R77). -/
def addSat32 (x : Word32) (d : Int) : Word32 × Flags :=
  let v := x.toInt + d
  let c := clampI v (-(2 ^ 31)) (2 ^ 31 - 1)
  (BitVec.ofInt 32 c, flagIf (c != v) flagISAT)

end Sys2Proof.Machine
end

