-- ==== Sys2Proof/Machine/Local.lean ====
section
/-! DEFINITION. What a core does within itself: its train and registers (R82 to R91), range locks (R167 to R170),
local spans (R93, R94, R136), escapements (R99 to R103), flags and generators (R65, R68, R70). -/

namespace Sys2Proof.Machine

/-- Set an element of a register file. -/
def setAt {α : Type} {n : Nat} (v : Vector α n) (i : Fin n) (x : α) : Vector α n := v.set i.val x i.isLt

/-! ## Train (R82 to R85) -/

/-- The core is in its user-level interrupt handler: UICTL.ACT (R247). -/
def Core.inHandler (c : Core) : Bool := c.csr.uictl.getLsbD 62

/-- The train that results go to (R85). -/
def Core.train (c : Core) : Train := if c.inHandler then c.regs.shadow else c.regs.train

/-- Write the train that results go to. -/
def Core.setTrain (c : Core) (t : Train) : Core :=
  { c with regs := if c.inHandler then { c.regs with shadow := t } else { c.regs with train := t } }

/-- Insert at t0; every position moves one older and t15 is lost (R82). -/
def pushTrain (t : Train) (p : Pos) : Train :=
  Vector.ofFn fun i => if h : i.val = 0 then p else t.get ⟨i.val - 1, by omega⟩

/-- Push a result. -/
def Core.push (c : Core) (v : Word) : Core := c.setTrain (pushTrain c.train { value := v })

/-- Push a pending position for the producer of a tag (R83). -/
def Core.pushPending (c : Core) (tag : Nat) : Core := c.setTrain (pushTrain c.train { value := 0, tag := some tag })

/-- A pending value lands in its own position; one that moved past t15 is discarded (R83). -/
def landTrain (t : Train) (tag : Nat) (v : Word) : Train :=
  t.map fun p => if p.tag = some tag then { value := v, tag := none } else p

/-- A pending value arrives: in the main train or in the handler's (R83, R85). -/
def Core.deliver (c : Core) (tag : Nat) (v : Word) : Core :=
  { c with regs := { c.regs with train := landTrain c.regs.train tag v, shadow := landTrain c.regs.shadow tag v } }

/-- A train position still awaits a tag. -/
def Core.awaits (c : Core) (tag : Nat) : Bool :=
  (c.regs.train.toList ++ c.regs.shadow.toList).any fun p => p.tag == some tag

/-! ## Registers (R85, R87) -/

/-- A named register; in a handler k8 to k15 are the shadow ones (R85). -/
def Core.getK (c : Core) (i : Fin 16) : Word :=
  if c.inHandler ∧ 8 ≤ i.val then c.regs.shadowK.get ⟨i.val - 8, by omega⟩ else c.regs.k.get i

/-- Write a named register as code inside a handler, or outside, names it. -/
def Core.setKOf (c : Core) (shadow : Bool) (i : Fin 16) (v : Word) : Core :=
  { c with regs :=
    if shadow ∧ 8 ≤ i.val then { c.regs with shadowK := setAt c.regs.shadowK ⟨i.val - 8, by omega⟩ v }
    else { c.regs with k := setAt c.regs.k i v } }

/-- Write a named register. -/
def Core.setK (c : Core) (i : Fin 16) (v : Word) : Core := c.setKOf c.inHandler i v

/-- Write a k or m register as code inside a handler, or outside, names it: a value lands in the register that its own
instruction named (R87). -/
def Core.setDstOf (c : Core) (shadow : Bool) (d : Dst) (v : Word) : Core :=
  match d with
  | .k i => c.setKOf shadow i v
  | .m i => { c with regs := { c.regs with m := setAt c.regs.m i v } }

/-- Write a k or m register. -/
def Core.setDst (c : Core) (d : Dst) (v : Word) : Core := c.setDstOf c.inHandler d v

/-- Write a vector register. -/
def Core.setV (c : Core) (d : VReg) (v : VecReg) : Core := { c with regs := { c.regs with v := setAt c.regs.v d v } }

/-- A mask register; f0 reads as all ones (R88). -/
def Core.getF (c : Core) (i : MReg) : MaskReg := if i.val = 0 then BitVec.allOnes 256 else c.regs.f.get i

/-- Write a mask register; a write to f0 changes nothing (R88). -/
def Core.setF (c : Core) (i : MReg) (v : MaskReg) : Core :=
  if i.val = 0 then c else { c with regs := { c.regs with f := setAt c.regs.f i v } }

/-- Write a bank. -/
def Core.setBank (c : Core) (a : Acc) (b : Bank) : Core :=
  { c with regs := { c.regs with acc := setAt c.regs.acc a b } }

/-- Write a shape variable (R132). -/
def Core.setSv (c : Core) (i : Fin 32) (v : Word) : Core := { c with regs := { c.regs with sv := setAt c.regs.sv i v } }

/-- The operand is a pending train position (R84). -/
def Core.pending (c : Core) : Src → Bool
  | .t i => (c.train.get i).tag.isSome
  | _ => false

/-- The value of an operand; constant-window words are ordinary local reads (R39). On a supervisor core, whose own
stores write the window, such a read, `ldc` too, waits for no queued `vst` and meets no range lock. DESIGN CHOICE: log
entry 73. -/
def Core.value (c : Core) : Src → Word
  | .t i => (c.train.get i).value
  | .k i => c.getK i
  | .m i => c.regs.m.get i
  | .c i => c.constWord i.val

/-! ## Leases (R90 to R92) -/

/-- An address of global memory has no bit above those of its core: 52 of a tile task (R141), 56 of the supervisor
(R430). -/
def Core.vaOk (c : Core) (x : Word) : Bool :=
  match c.who with
  | .tile _ => fld x 63 52 == 0
  | .sup _ => fld x 63 56 == 0

/-- A register of which a handler has its own: k8 to k15 (R85, R87). -/
def hasShadow : LeaseReg → Bool
  | .scalar (.k i) => decide (8 ≤ i.val)
  | _ => false

/-- A lease holds the register that the running code names: a handler's k8 to k15 are not the interrupted code's
(R87). -/
def Core.holds (c : Core) (l : Lease) (r : LeaseReg) : Bool := l.reg == r && (!hasShadow r || l.shadow == c.inHandler)

/-- The register is leased. -/
def Core.leased (c : Core) (r : LeaseReg) : Bool := c.leases.any fun l => c.holds l r

/-- The register of an operand, where it has one that can be leased. -/
def srcReg : Src → Option LeaseReg
  | .k i => some (.scalar (.k i))
  | .m i => some (.scalar (.m i))
  | _ => none

/-- The code and class of a register in the detail of LEASE (R431). -/
def leaseDetail : LeaseReg → Word
  | .scalar d => BitVec.ofNat 64 d.code
  | .vec v => BitVec.ofNat 64 (256 + v.val)
  | .acc a => BitVec.ofNat 64 (512 + a.val)

/-- The check of R91 over the registers an instruction names, in field order. -/
def Core.leaseCheck (c : Core) (rs : List LeaseReg) : Res Unit :=
  match rs.find? c.leased with
  | some r => .bad { code := .lease, detail := leaseDetail r }
  | none => .ok ()

/-- Lease a register to the producer of a tag. -/
def Core.lease (c : Core) (r : LeaseReg) (tag : Nat) (stream : Option Nat := none) : Core :=
  { c with leases := c.leases ++ [{ reg := r, own := tag, stream := stream, shadow := c.inHandler }] }

/-- End the leases of a producer (R92). -/
def Core.endLease (c : Core) (tag : Nat) : Core := { c with leases := c.leases.filter fun l => l.own != tag }

/-! ## Entries: unfinished instructions (R393) -/

/-- Remove the entry of a tag. -/
def Core.dropEntry (c : Core) (tag : Nat) : Core := { c with entries := c.entries.filter fun e => e.tag != tag }

/-- Replace the entry of its tag. -/
def Core.putEntry (c : Core) (e : Entry) : Core :=
  { c with entries := c.entries.map fun x => if x.tag == e.tag then e else x }

/-- The entry of a tag. -/
def Core.entry (c : Core) (tag : Nat) : Option Entry := c.entries.find? fun e => e.tag == tag

/-- The unit of an instruction's entry (R394). -/
def unitOf : Instr → Nat
  | .ldg _ _ _ _ _ _ | .stg _ _ _ _ _ _ | .amoW _ _ _ _ | .amoD _ _ _ _ | .casW _ _ _ _ | .casD _ _ _ _
  | .fence _ _ _ | .flush _ _ _ _ => 3
  | .tcaddW _ _ | .tcaddF _ _ | .tcmaxW _ _ | .tcminW _ _ | .tcorD _ _ => 3
  | .vadd _ _ _ | .vsub _ _ _ | .vmul _ _ _ | .vmulh _ _ _ | .vfma _ _ _ | .vdiv _ _ _ | .vsqrt _ _ | .vrcp _ _
  | .vrsq _ _ | .vexp2 _ _ | .vlog2 _ _ | .vmin _ _ _ | .vmax _ _ _ | .vabs _ _ | .vand _ _ _ | .vor _ _ _
  | .vxor _ _ _ | .vbmux _ _ _ _ _ | .vshl _ _ _ | .vshr _ _ _ | .vsra _ _ _ | .vfshl _ _ _ _ | .vfshr _ _ _ _
  | .vpopc _ _ | .vclz _ _ | .vceq _ _ _ | .vclt _ _ _ | .vcle _ _ _ | .vsel _ _ _ | .vsplat _ _ | .vext _ _
  | .vins _ _ _ | .vperm _ _ _ | .vslide _ _ _ | .vred _ _ | .vcvt _ _ _ _ _ | .vmask _ _ _ _ | .vld _ _ | .vst _ _
  | .vldg _ _ | .vstg _ _ | .vgath _ _ _ | .vscat _ _ _ | .hsift _ _ _ | .vhsift _ _ _ | .hsort _ => 1
  | .mma _ _ _ | .mmat _ _ _ | .mred _ _ _ | .mzero _ | .mld _ _ | .mst _ _ _ _ | .amov _ _ _ => 2
  | .xsend _ _ _ | .xrecv _ _ | .rput _ _ _ | .rget _ _ | .qpop _ | .qtry _ => 4
  | _ => 0

/-- An entry whose operation stands in no frame once it has started: a stream-0 operation, and a window's (R393). -/
def leavesAtStart : Instr → Bool
  | .xsend _ _ _ | .xrecv _ _ => true
  | i => unitOf i == 2

/-- The entry counts against the 24 (R393): a stream-0 operation or a window's only until it starts, a fixed-latency
producer only while its position awaits it. -/
def Core.unfinished (c : Core) (e : Entry) : Bool :=
  if leavesAtStart e.instr then !e.started else if unitOf e.instr = 0 && e.ready then c.awaits e.tag else true

/-- The entries that a frame would hold. -/
def Core.frameEntries (c : Core) : List Entry := c.entries.filter c.unfinished

/-- One more unfinished instruction fits (R393). -/
def Core.entryRoom (c : Core) : Bool := c.frameEntries.length < 24

/-- The vector queue (R200): vector entries in order. -/
def Core.vqueue (c : Core) : List Entry := c.entries.filter fun e => unitOf e.instr == 1

/-- Stream 0 (R257): matrix entries in order. -/
def Core.stream0 (c : Core) : List Entry := c.entries.filter fun e => unitOf e.instr == 2

/-! ## Range locks (R167 to R170) -/

/-- An access of n bytes overlaps an entry of its space (R168), or a map slot that the merge engine uses (R338): a load
only those of kind D. An access of no bytes overlaps none. -/
def Core.rangeLocked (c : Core) (glob : Bool) (a n : Nat) (store : Bool) : Bool :=
  n != 0 &&
    (c.locks ++ c.slotLocks).any fun l => l.glob == glob && decide (a < l.high) && decide (l.low < a + n) && (store || l.dst)

/-- A span an operation names: kind D, global, its base and extent. -/
structure Span where
  dst : Bool
  glob : Bool
  base : Nat
  len : Nat
deriving DecidableEq, Repr

/-- The entry of a span, rounded out (R167). -/
def Span.lock (p : Span) (tag : Nat) : Lock :=
  let g := if p.glob then 128 else 16
  { own := tag, dst := p.dst, glob := p.glob, low := p.base / g * g, high := (p.base + p.len + g - 1) / g * g }

/-- The table has room for the spans (R170). -/
def Core.lockRoom (c : Core) (ps : List Span) : Bool :=
  c.locks.length + (ps.filter fun p => p.len != 0).length ≤ 64

/-- Register the spans of an operation; a span of no bytes takes no entry. PEAK keeps the most entries in use (R167,
R170). DESIGN CHOICE: log entry 67. -/
def Core.addLocks (c : Core) (tag : Nat) (ps : List Span) : Core :=
  let locks := c.locks ++ ((ps.filter fun p => p.len != 0).map fun p => p.lock tag)
  let peak := max (fld c.csr.rlstat 14 8) locks.length
  { c with locks := locks, csr := { c.csr with rlstat := setFld c.csr.rlstat 14 8 peak } }

/-- Release the entries of an operation (R169). -/
def Core.freeLocks (c : Core) (tag : Nat) : Core := { c with locks := c.locks.filter fun l => l.own != tag }

/-- An issue stall on a full table is counted once for each stalled chain (R170). DEDUCED: log entry 49. -/
def Core.countStall (c : Core) : Core :=
  if c.stallCounted then c
  else { c with stallCounted := true
                csr := { c.csr with rlstat := setFld c.csr.rlstat 31 16 (min (fld c.csr.rlstat 31 16 + 1) 0xFFFF) } }

/-! ## Local spans -/

/-- A fault with a detail. -/
def flt (code : Code) (detail : Nat) : Flt := { code := code, detail := BitVec.ofNat 64 detail }

/-- FORMAT without a detail (R431). DEDUCED: log entry 29. -/
def fmtFlt : Flt := { code := .format }

/-- The checks of a record at a local address (R242, R311): CARVE, ALIGN, RANGELOCK. -/
def Core.recordCheck (c : Core) (r : Word) (n : Nat) (store : Bool) : Res Nat :=
  let o := fld r 20 0
  if fld r 63 24 ≠ 0 ∨ c.top < o + n then .bad { code := .carve, detail := r }
  else if o % 8 ≠ 0 then .bad { code := .align, detail := r }
  else if c.rangeLocked false o n store then .bad { code := .rangelock, detail := r }
  else .ok o

/-- A record that the operation writes besides: it may not start in the constant window (R320, R411). -/
def Core.recordOut (c : Core) (r : Word) (n : Nat) : Res Nat :=
  let o := fld r 20 0
  if fld r 63 24 ≠ 0 ∨ c.top < o + n ∨ o < 0x800 then .bad { code := .carve, detail := r }
  else if o % 8 ≠ 0 then .bad { code := .align, detail := r }
  else if c.rangeLocked false o n true then .bad { code := .rangelock, detail := r }
  else .ok o

/-! ## Escapements (R99 to R103) -/

/-- The offset of escapement e. -/
def escOff (e : Nat) : Nat := 0x800 + 16 * e

/-- Read escapement e of a core. `odd` tells nonzero bits in byte 12 [7:4] or in bytes 13 to 15. -/
def Core.esc (c : Core) (e : Nat) : Esc :=
  let o := escOff e
  { arr := c.scratch.readNat o 4, rld := c.scratch.readNat (o + 4) 4
    byt := signedOf32 (c.scratch.readNat (o + 8) 4)
    ph := c.scratch.readNat (o + 12) 1 % 16, odd := c.scratch.readNat (o + 12) 4 / 16 != 0 }
where
  signedOf32 (x : Nat) : Int := if 2 ^ 31 ≤ x then (x : Int) - 2 ^ 32 else x

/-- Write ARR, BYT and the phase of escapement e. Bytes 13 to 15 and the odd bits of byte 12 stay. -/
def Core.putEsc (c : Core) (e : Nat) (x : Esc) : Core :=
  let o := escOff e
  let keep := c.scratch.readNat (o + 12) 1 / 16 * 16
  let m1 := c.scratch.writeNat o 4 x.arr
  let m2 := m1.writeNat (o + 8) 4 (x.byt % (2 ^ 32 : Int)).toNat
  { c with scratch := m2.writeNat (o + 12) 1 (keep + x.ph % 16) }

/-- A toggle (R101). -/
def Esc.toggle (x : Esc) : Esc := { x with ph := (x.ph + 1) % 16, arr := x.rld, byt := 0 }

/-- Wrap to 32 bits, signed. -/
def wrapS32 (v : Int) : Int := (BitVec.ofInt 32 v).toInt

/-- A byte update (R101). -/
def Esc.bytes (x : Esc) (d : Int) : Esc :=
  let y := { x with byt := wrapS32 (x.byt + d) }
  if y.arr = 0 ∧ y.byt = 0 then y.toggle else y

/-- n arrivals, in order; true where any was dropped. With RLD = 0 the rest are dropped once
ARR is 0, and a run of arrivals toggles every RLD of them (R101), so n is worked off without counting each one. -/
def Esc.arriveN (x : Esc) (n : Nat) : Esc × Bool :=
  if n = 0 then (x, false)
  else if n < x.arr then ({ x with arr := x.arr - n }, false)
  else if x.arr = 0 then (x, true)
  else if x.byt ≠ 0 then ({ x with arr := 0 }, decide (x.arr < n))
  else
    let y := { x with arr := 0 }.toggle
    let rest := n - x.arr
    if y.arr = 0 then (y, decide (0 < rest))
    else
      let turns := rest / y.arr
      ({ y with ph := (y.ph + turns) % 16, arr := y.arr - rest % y.arr }, false)

/-- The value of ESTAT after an over-arrival on escapement e (R102). -/
def overStat (e : Nat) : Word := BitVec.ofNat 64 (0x10000 + e)

/-- The updates of one cycle: the byte updates' sum first, then the arrivals in order; true where one was dropped
(R101). -/
def Esc.cycle (x : Esc) (delta : Option Int) (arrivals : List (Nat × Nat)) : Esc × Bool :=
  arrivals.foldl (fun (p : Esc × Bool) r => let (y, o) := p.1.arriveN r.2; (y, p.2 || o))
    (match delta with | some d => x.bytes d | none => x, false)

/-- Put an arrival at the place of its sender, after those of the same place. -/
def insertArrival (r : Nat × Nat) : List (Nat × Nat) → List (Nat × Nat)
  | [] => [r]
  | x :: t => if r.1 < x.1 then r :: x :: t else x :: insertArrival r t

/-- The updates that escapement e of a core has met in a cycle, unless something else has written it since. -/
def Core.gathered (c : Core) (e time : Nat) : Gather :=
  match c.gathers.find? fun g => g.e == e && g.time == time && g.now == c.esc e with
  | some g => g
  | none => { e := e, time := time, base := c.esc e, now := c.esc e, extra := false, estat := c.csr.estat, delta := none
              arrivals := [] }

/-- Updates of escapement e in a cycle, taken together with those that the cycle has already brought (R101): a byte
update, or arrivals with the place of their sender. An over-arrival sets ESTAT (R102). DESIGN CHOICE: log entry 7. -/
def Core.update (c : Core) (e time : Nat) (delta : Option Int) (arrivals : Option (Nat × Nat)) : Core :=
  let g := c.gathered e time
  let sum := match g.delta, delta with
    | some x, some y => some (x + y)
    | some x, none => some x
    | none, y => y
  let arr := match arrivals with | some r => insertArrival r g.arrivals | none => g.arrivals
  let (y, extra) := g.base.cycle sum arr
  let stat := if extra then overStat e
    else if g.extra && c.csr.estat == overStat e then g.estat else c.csr.estat
  let g1 : Gather := { g with now := y, extra := extra, delta := sum, arrivals := arr }
  let c1 := c.putEsc e y
  { c1 with
    csr := { c1.csr with estat := stat }
    gathers := g1 :: c1.gathers.filter fun x => x.time == time && x.e != e }

/-- The places of senders within a cycle (R101): the core itself, other cores by id, engines by their row of R10. -/
def placeOwn : Nat := 0
def placeCore (id : Nat) : Nat := 1 + id
def placeEngine (row : Nat) : Nat := 0x2000 + row

/-- n arrivals on escapement e of a core, from a sender of a place. -/
def Core.arrive (c : Core) (e time place n : Nat) : Core := c.update e time none (some (place, n))

/-- A byte update on escapement e of a core. -/
def Core.bytesOn (c : Core) (e time : Nat) (d : Int) : Core := c.update e time (some d) none

/-- A remote store of a sender lands (R139): of the stores that land in one cycle, that of the highest core id is the
last. -/
def Core.landStore (c : Core) (time from_ o : Nat) (bs : List Byte) : Core :=
  let kept (a : Nat) : Bool := c.landings.any fun l => l.time == time && decide (from_ < l.from_) && decide (l.low ≤ a) && decide (a < l.low + l.len)
  let new := (List.range bs.length).map fun i => if kept (o + i) then c.scratch.read (o + i) else bs.getD i 0
  let c1 := c.storeLocal o new
  { c1 with landings := { time := time, from_ := from_, low := o, len := bs.length } :: c1.landings.filter fun l => l.time == time }

/-- An engine operation of a scope has counted on the escapement (R103). -/
def Core.noteScope (c : Core) (e : Nat) (sc : Scope) : Core :=
  { c with escScopes := if c.escScopes.contains (e, sc) then c.escScopes else c.escScopes ++ [(e, sc)] }

/-- The widest of a scope and those that have counted on an escapement (R103). -/
def Core.escScope (c : Core) (e : Nat) (sc : Scope) : Scope :=
  (c.escScopes.filter fun p => p.1 == e).foldl (fun a p => scopeMax a p.2) sc

/-- The phase has reached a value (R107). -/
def Core.reached (c : Core) (e par : Nat) : Bool := ((c.esc e).ph + 16 - par % 16) % 16 ≤ 7

/-- A cycle has brought updates to an escapement, which more updates of the same cycle may still join (R101). -/
def Core.gathering (c : Core) (e time : Nat) : Bool := c.gathers.any fun g => g.e == e && g.time == time

/-- A waiter sees that the phase has reached a value: a cycle's updates are seen after it (R101, R107). -/
def Core.reachedBy (c : Core) (e par time : Nat) : Bool := c.reached e par && !c.gathering e time

/-- A core as a plain load by a step of its engines sees it: of the updates that the cycle has brought to an
escapement, which more of the same cycle may still join, none is seen yet, so that its fields are those of one cycle
(R95, R101). -/
def Core.seen (c : Core) (time : Nat) : Core :=
  (c.gathers.filter fun g => g.time == time && g.now == c.esc g.e).foldl (fun d g => d.putEsc g.e g.base) c

/-! ## Flags and generators -/

/-- Set sticky flags (R70). -/
def Core.flag (c : Core) (f : Flags) : Core := { c with csr := { c.csr with nflags := c.csr.nflags ||| f } }

/-- Seed every generator of a core (R68, R238). -/
def Gens.seed (x : Word32) : Gens where
  vec := Vector.ofFn fun i => genSeed x (i.val + 1)
  row := Vector.ofFn fun i => genSeed x (i.val + 65)
  chan := genSeed x 129

end Sys2Proof.Machine
end

