-- ==== Sys2Proof/Machine/Operands.lean ====
section
/-! DEFINITION. How a chain reads its operands and names its registers (R33, R84, R91), the widths of loads and stores
(R30, R135, R173), and how a chain retires. -/

namespace Sys2Proof.Machine

/-- What a meaning answers. -/
abbrev Out := Host.Outcome State Fault Refusal

/-- The register that an operand names, where it can be leased. -/
def nameOf (x : Src) : List LeaseReg := (srcReg x).toList

/-- The registers of several operands, in field order. -/
def namesOf (xs : List Src) : List LeaseReg := xs.flatMap nameOf

/-- A written register as a name. -/
def nameDst (d : Dst) : LeaseReg := .scalar d

/-- The main registers of a pair (R262). -/
def pairLo (p : MPair) : Fin 64 := ⟨2 * p.val, by omega⟩
def pairHi (p : MPair) : Fin 64 := ⟨2 * p.val + 1, by omega⟩

/-- The registers of a pair, as names. -/
def namesPair (p : MPair) : List LeaseReg := [.scalar (.m (pairLo p)), .scalar (.m (pairHi p))]

/-- Register i of a quad (R241). -/
def quadReg (q : MQuad) (i : Fin 4) : Fin 64 := ⟨4 * q.val + i.val, by omega⟩

/-- The registers of a quad, as names. -/
def namesQuad (q : MQuad) : List LeaseReg := (List.finRange 4).map fun i => .scalar (.m (quadReg q i))

/-- The operands of a chain: it stalls as a whole on a pending train position (R84), and raises LEASE on the first
leased register it names in field order (R91, R431). -/
def Core.ready (c : Core) (xs : List Src) (names : List LeaseReg) : Res Unit :=
  if xs.any c.pending then .wait else c.leaseCheck names

/-- The chain retires: the program counter moves past it (R43). -/
def Core.retire (c : Core) : Core :=
  { c with pc := c.nextPc, stalling := false, stallCounted := false, stageId := none, uiReady := c.uiReady || !c.inHandler }

/-- The chain stalls: it issues again later (R35, R84). DEDUCED: log entry 11. -/
def State.stall (s : State) : Out := .next { s with core := { s.core with stalling := true } }

/-- The core's chain retires. -/
def State.retire (s : State) : State := { s with core := s.core.retire }

/-- The chain retires with a scalar result (R82). -/
def State.result (s : State) (v : Word) : State := { s with core := (s.core.push v).retire }

/-- The bytes of a load width (R135). -/
def widthBytes : Width → Nat
  | .b | .bu => 1 | .h | .hu => 2 | .w | .wu => 4 | .d => 8

/-- The bytes of a store width (R173). -/
def storeBytes : StWidth → Nat
  | .b => 1 | .h => 2 | .w => 4 | .d => 8

/-- The extension of a loaded value (R135). -/
def extend (w : Width) (v : Nat) : Word :=
  match w with
  | .b => BitVec.signExtend 64 (BitVec.ofNat 8 v)
  | .h => BitVec.signExtend 64 (BitVec.ofNat 16 v)
  | .w => BitVec.signExtend 64 (BitVec.ofNat 32 v)
  | .bu => BitVec.setWidth 64 (BitVec.ofNat 8 v)
  | .hu => BitVec.setWidth 64 (BitVec.ofNat 16 v)
  | .wu => BitVec.setWidth 64 (BitVec.ofNat 32 v)
  | .d => BitVec.ofNat 64 v

/-- The local checks of a scalar access (R136): the offset, or the fault with the effective address.
DEDUCED: log entry 29. -/
def Core.localCheck (c : Core) (addr : Word) (off : Int) (n : Nat) (store : Bool) : Res Nat :=
  let ea : Int := addr.toInt + off
  let f (code : Code) : Res Nat := .bad { code := code, detail := BitVec.ofInt 64 ea }
  if ea < 0 ∨ 2 ^ 24 ≤ ea then f .carve
  else if ea.toNat % n ≠ 0 then f .align
  else
    let o := ea.toNat % 2 ^ 21
    if c.top < o + n then f .carve
    else if store ∧ c.constOff o then f .carve
    else if c.rangeLocked false o n store then f .rangelock
    else .ok o

/-- The reference of an escapement instruction (R100): the core it names and the escapement's index. -/
def State.escRef (s : State) (x : Word) (ownOnly : Bool) : Res (Agent × Nat) :=
  let rmt := x.getLsbD 36
  let o := fld x 20 0
  if fld x 59 37 ≠ 0 ∨ (rmt ∧ ownOnly) then .bad { code := .format }
  else if o % 16 ≠ 0 then .bad { code := .align }
  else if o < 0x800 ∨ 0x47FF < o then .bad { code := .carve }
  else if rmt then
    if s.isPartner s.core (fld x 35 24) then .ok (.tile (fld x 35 24), (o - 0x800) / 16)
    else .bad { code := .remote }
  else .ok (s.core.who, (o - 0x800) / 16)

/-- An own escapement with nonzero bits that R99 forbids raises FORMAT. -/
def Core.escFormat (c : Core) (e : Nat) : Res Unit := Res.unless (!(c.esc e).odd) fmtFlt

end Sys2Proof.Machine
end

