-- ==== Sys2Proof/Machine/CacheUnit.lean ====
section
/-! DEFINITION. Flushes (R187 to R189), the hints `pref` and `resid` (R190, R191), and fetching an instruction's words
(R46, R184 to R186). -/

namespace Sys2Proof.Machine

/-! ## Flush -/

/-- The page of a flush's line: U where a tile task flushes, W for kind inv (R188). An immutable page takes no flush of
kind inv, whatever its W. DESIGN CHOICE: log entry 73. -/
def State.flushPage (s : State) (a : Agent) (inv : Bool) (va : Nat) : Res Nat :=
  match a with
  | .sup _ => (s.translate a 0 true .rd va).andThen fun (_, pa) => .ok pa
  | .tile id =>
    let c := s.getCore a
    let die := dieOf a
    let detail := BitVec.ofNat 64 va
    if 2 ^ 52 ≤ va then .bad { code := .xlate, detail := detail }
    else
      (match s.tlbFind die (clusterOf id) c.asid va with
        | some t => Res.ok t
        | none => s.walk die c.asid va).andThen fun t =>
      if !t.u ∨ (inv ∧ (!t.w ∨ t.imm)) then .bad { code := .protect, detail := detail }
      else (s.reach (t.phys va) detail).andThen fun _ => .ok (t.phys va)

/-- A flush of one line in the issuing cluster's L1. -/
def State.flushL1 (s : State) (a : Agent) (kind : FlushKind) (pa : Nat) : State :=
  match a with
  | .sup _ => s
  | .tile id =>
    let cid := clusterOf id
    match (s.cluster cid).find pa with
    | none => s
    | some l =>
      match kind with
      | .clean => s.cleanLine cid none l
      | .cinv =>
        let s1 := s.writeBack cid none l
        s1.setCluster ((s1.cluster cid).drop l.line)
      | .inv => s.setCluster ((s.cluster cid).drop l.line)

/-- A flush of one line in every L2 of the package: M and O lines are written to their home; all but clean also
invalidate, recalling recorded L1 copies in every die. -/
def State.flushL2 (s : State) (kind : FlushKind) (pa : Nat) : State :=
  let line := pa / 128
  match kind with
  | .clean =>
    let own := s.l2.any fun e => e.line == line && (e.st == .m || e.st == .o)
    let s1 := { s with l2 := s.l2.map fun e =>
        if e.line == line then { e with st := match e.st with | .m => .e | .o => .s | x => x } else e }
    if own && s.foreign pa then s1.send (.wback (modOf pa) line (s.lineBytes line)) else s1
  | _ => ((List.range 8).foldl (fun s die => s.recall die line) s).giveUp fun e => e.line == line

/-- The walk of a flush over its range: lines already walked stay flushed, whatever the walk then meets (R188). -/
def State.flushRun (s : State) (a : Agent) (kind : FlushKind) (lvl : FlushLevel) (addr len : Word) : State × Res Unit :=
  (lineParts addr.toNat len.toNat).foldl (fun (acc : State × Res Unit) p =>
    match acc with
    | (s, .ok _) =>
      let s := s.walked a (s.getCore a).asid p.1
      match s.flushPage a (kind == .inv) p.1 with
      | .ok pa =>
        let s1 := s.flushL1 a kind pa
        (match lvl with | .l1 => s1 | .l2 => s1.flushL2 kind pa, .ok ())
      | .bad f => (s, .bad f)
      | .wait => (s, .wait)
    | stop => stop) (s, .ok ())

/-! ## Hints -/

/-- A transaction has registered the plot of a line. -/
def State.plotHeld (s : State) (pa : Nat) : Bool :=
  s.cores.any fun c => c.txLive && c.tx.plots.any fun p => p.plot == pa / 1024

/-- The page of a hint, where it is not dropped (R191). A line is dropped too whose memory is not READY, or lies on a
module that no link reaches, or whose translation meets a poisoned entry, since a hint neither waits nor traps.
DESIGN CHOICE: log entry 55. -/
def State.hintPage (s : State) (a : Agent) (write : Bool) (va : Nat) : Option (Tlb × Nat) :=
  let lim := match a with | .tile _ => 2 ^ 52 | .sup _ => 2 ^ 56
  if lim ≤ va then none
  else match s.translate a (s.getCore a).asid true .rd va with
  | .ok (t, pa) =>
    if isDevice pa ∨ s.poisoned pa ∨ s.plotHeld pa ∨ (write ∧ (!t.w ∨ t.imm)) then none else some (t, pa)
  | _ => none

/-- No L1 of a die holds a recorded copy of a line. -/
def State.unrecorded (s : State) (die line : Nat) : Bool :=
  !s.clusters.any fun c => dieOfCluster c.id == die && c.lines.any fun l => l.line == line && l.excl

/-- Room for a hint's line in its set of a die's L2: none is needed, or one leaves of the lines that R190 takes next,
of which no L1 holds a recorded copy, whose write-back another access would meet (R190, R191); no state where each of
them has one. DESIGN CHOICE: log entry 42. -/
def State.hintRoom (s : State) (die pa : Nat) : Option State :=
  if (s.l2SetOf die pa).any (fun e => e.line == pa / 128) ∨ s.l2Free die pa then some s
  else match (s.l2Victims die pa).filter fun e => s.unrecorded die e.line with
  | [] => none
  | cands => some (s.l2Evict die cands)

/-- Room for a hint's line in its set of a cluster L1: the line stands there, a way is free, or a clean line leaves
(R190, R191); no state where every line has dirty bytes or is speculative. DESIGN CHOICE: log entries 42, 47. -/
def State.hintWay (s : State) (cid pa : Nat) : Option State :=
  if ((s.cluster cid).find pa).isSome ∨ s.l1Free cid (pa / 128) then some s
  else
    let clean := (s.l1SetOf cid (pa / 128)).filter fun x => x.dirty == 0
    (clean[Config.freeWay s.free % clean.length]?).map fun v =>
      (s.useFree 1).setCluster ((s.cluster cid).drop v.line)

/-- Fetch one line for `pref`, where that needs no write-back from an L1: into the cluster's L1 with the current
generation tag, or into the die's L2 where the cluster has no ways. -/
def State.prefLine (s : State) (a : Agent) (lvl : Fin 3) (t : Tlb) (pa : Nat) : State :=
  let die := dieOf a
  match s.hintRoom die pa with
  | none => s
  | some s1 =>
    match a, lvl with
    | _, 2 => s1.l2Take die pa true
    | .tile id, 0 =>
      let cid := clusterOf id
      if (s1.ways cid).isEmpty then s1.l2Take die pa false
      else match s1.hintWay cid pa with
        | none => s
        | some s2 => match s2.l1Fetch a cid none t 0 (pa / 128 * 128) 128 with
          | .ok (s3, _) => s3
          | _ => s
    | _, _ => s1.l2Take die pa false

/-- HINTDROP counts a hint any part of whose range is dropped (R191). -/
def Core.countHint (c : Core) (dropped : Bool) : Core :=
  if dropped then { c with csr := { c.csr with hintdrop := BitVec.ofNat 64 (min (c.csr.hintdrop.toNat + 1) 0xFFFFFFFF) } }
  else c

/-- `pref`: at most the first 64 KiB of its range. DESIGN CHOICE: log entry 42. -/
def State.prefRun (s : State) (a : Agent) (addr len : Word) (lvl : Fin 3) : State :=
  let (s1, drop) := (lineParts addr.toNat (min len.toNat 65536)).foldl (fun (st : State × Bool) p =>
    let s := st.1.walkedFor true a (st.1.getCore a).asid p.1
    match s.hintPage a (lvl == 2) p.1 with
    | some (t, pa) => (s.prefLine a lvl t pa, st.2)
    | none => (s, true)) (s, false)
  s1.modCore a fun c => c.countHint drop

/-- Mark a line of a die's L2; a ninth keep mark of a set clears the earliest (R190). A marked line moves to the end of
the list, so that the first keep mark of a set is the earliest. -/
def State.markLine (s : State) (die pa : Nat) (m : Mark) : State :=
  match s.l2.find? fun e => e.die == die && e.line == pa / 128 with
  | none => s
  | some e =>
    let rest := s.l2.filter fun x => !(x.die == die && x.line == pa / 128)
    let same (x : L2Line) : Bool :=
      x.die == die && x.mark == .keep && l2Set (x.line * 128) == l2Set pa && l2Slice (x.line * 128) == l2Slice pa
    let cleared := match m, rest.find? same with
      | .keep, some f => if 8 ≤ (rest.filter same).length then
          rest.map fun x => if x == f then { x with mark := .normal } else x
        else rest
      | _, _ => rest
    { s with l2 := cleared ++ [{ e with mark := m }] }

/-- `resid`: at most 2^32 bytes. DESIGN CHOICE: log entry 42. -/
def State.residRun (s : State) (a : Agent) (addr len : Word) (mode : Fin 3) : State :=
  let m : Mark := match mode with | 0 => .normal | 1 => .keep | _ => .stream
  let (s1, drop) := (lineParts addr.toNat (min len.toNat (2 ^ 32))).foldl (fun (st : State × Bool) p =>
    let s := st.1.walkedFor true a (st.1.getCore a).asid p.1
    match s.hintPage a false p.1 with
    | some (_, pa) => (s.markLine (dieOf a) pa m, st.2)
    | none => (s, true)) (s, false)
  s1.modCore a fun c => c.countHint drop

/-! ## Instruction fetch -/

/-- Bytes of a line loaded for a fetch, which meets the registrations of the core's own transaction without effect
(R285). -/
def State.fetchLoad (s : State) (a : Agent) (t : Tlb) (va pa n : Nat) : Res (State × List Byte) :=
  s.loadLine a (some a) t (BitVec.ofNat 64 va) pa n

/-- A word of the cluster instruction cache: fresh, or filled through the L1 (R184). -/
def State.icacheWord (s : State) (a : Agent) (t : Tlb) (va pa : Nat) : Res (State × List Byte) :=
  match a with
  | .sup _ => s.fetchLoad a t va pa 2
  | .tile id =>
    let cid := clusterOf id
    let c := s.cluster cid
    match c.icache.find? fun l => l.line == pa / 128 && (l.imm || l.gen == c.counter l.scope) with
    | some l => .ok (s, (List.range 2).map fun i => byteAt l.data (pa % 128 + i))
    | none =>
      (s.fetchLoad a t va (pa / 128 * 128) 128).andThen fun (s1, bs) =>
      let c1 := s1.cluster cid
      let l : ILine := { line := pa / 128, data := mergeBytes 0 0 bs, scope := t.scope, imm := t.imm
                         gen := c1.counter t.scope }
      .ok (s1.setCluster { c1 with icache := upsert ILine.line l c1.icache }, (bs.drop (pa % 128)).take 2)

/-- The halfword at an address: fetched ahead, or fetched now (R46, R184). -/
def State.fetchWord (s : State) (a : Agent) (va : Nat) : Res (State × Nat) :=
  let c := s.getCore a
  match c.fetched.find? fun p => p.1 == va with
  | some (_, w) => .ok (s, w.toNat)
  | none =>
    if va % 2 ≠ 0 then .bad { code := .align, detail := BitVec.ofNat 64 va }
    else
      (s.translate a c.asid false .ex va).andThen fun (t, pa) =>
      if isDevice pa then .bad { code := .protect, detail := BitVec.ofNat 64 va }
      else
        (s.icacheWord a t va pa).andThen fun (s1, bs) =>
        let w := natOfBytes bs
        .ok (s1.modCore a fun c => { c with fetched := ((va, BitVec.ofNat 16 w) :: c.fetched).take 32 }, w)

/-- What fetching and decoding a chain gives. -/
inductive Fetched where
  /-- the state with the words fetched, the instruction, and the address after the chain -/
  | chain (s : State) (i : Instr) (next : Word)
  /-- a decode fault: its code, the offending word's address, and NEXT (R51, R52) -/
  | decode (s : State) (code : Code) (word next : Word)
  | fault (f : Flt)
  /-- the translation of an address is missing -/
  | miss (va : Nat)
  /-- the memory of a word cannot be reached yet -/
  | wait

/-- Fetch words from an address until they decode (R29, R45). A fault on any word is a fetch fault. -/
def State.fetchFrom (s : State) (a : Agent) (pc : Word) : Nat → List Nat → Fetched
  | 0, _ => .wait
  | fuel + 1, ws =>
    let at_ (n : Nat) : Word := pc + BitVec.ofNat 64 (2 * n)
    match s.fetchWord a (at_ ws.length).toNat with
    | .bad f => .fault f
    | .wait =>
      match a with
      | .tile id =>
        if (s.tlbFind (dieOf a) (clusterOf id) (s.getCore a).asid (at_ ws.length).toNat).isSome then .wait
        else .miss (at_ ws.length).toNat
      | .sup _ => .wait
    | .ok (s1, w) =>
      match decodeWords (ws ++ [w]) with
      | .more => s1.fetchFrom a pc fuel (ws ++ [w])
      | .instr i n => .chain s1 i (at_ n)
      | .bad f => .decode s1 (match f.fault with | .illegal => .illegal | .format => .format) (at_ f.word) (at_ f.next)

/-- Fetch and decode the chain at an agent's program counter. -/
def State.fetchChain (s : State) (a : Agent) : Fetched := s.fetchFrom a (s.getCore a).pc 6 []

end Sys2Proof.Machine
end

