-- ==== Sys2Proof/Machine/CopyUnit.lean ====
section
/-! DEFINITION. The copy channel (09_copy.md): layout records and their checks (R232 to R234), traversal (R235), what a
transfer moves (R236 to R240, R244), and the completion of an operation that holds a transfer id (R229 to R231). -/

namespace Sys2Proof.Machine

/-! ## Layout records (R232, R233) -/

/-- The twelve words of a record. -/
abbrev Layout := List Word

namespace Lay

def base (r : Layout) : Word := BitVec.ofNat 64 (fld (wordAt r 0) 56 0)
def rnd (r : Layout) : Nat := fld (wordAt r 1) 33 32
def irq (r : Layout) : Bool := (wordAt r 1).getLsbD 31
def eidx (r : Layout) : Nat := fld (wordAt r 1) 30 21
def esc (r : Layout) : Bool := (wordAt r 1).getLsbD 20
def scope (r : Layout) : Scope := scopeOf (fld (wordAt r 1) 19 18)
def dir (r : Layout) : Bool := (wordAt r 1).getLsbD 17
def space (r : Layout) : Nat := fld (wordAt r 1) 16 15
def fill (r : Layout) : Nat := fld (wordAt r 1) 14 13
def rot (r : Layout) : Nat := fld (wordAt r 1) 12 10
def ilv (r : Layout) : Nat := fld (wordAt r 1) 9 8
def rank (r : Layout) : Nat := fld (wordAt r 1) 7 5
def mxi (r : Layout) : Bool := (wordAt r 1).getLsbD 4
def fmtCode (r : Layout) : Nat := fld (wordAt r 1) 3 0

/-- EXTd, STRd, WINd and ORGd. -/
def ext (r : Layout) (d : Nat) : Nat :=
  if d < 3 then fld (wordAt r 2) (21 * d + 20) (21 * d) else fld (wordAt r 3) (21 * (d - 3) + 20) (21 * (d - 3))
def str (r : Layout) (d : Nat) : Nat :=
  match d with
  | 1 => fld (wordAt r 4) 31 0 | 2 => fld (wordAt r 4) 63 32 | 3 => fld (wordAt r 5) 31 0 | 4 => fld (wordAt r 5) 63 32
  | _ => 0
def win (r : Layout) (d : Nat) : Nat := fld (wordAt r 6) (12 * d + 11) (12 * d)
def orgN (r : Layout) (d : Nat) : Nat := fld (wordAt r 7) (12 * d + 11) (12 * d)
def org (r : Layout) (d : Nat) : Int := signedOf 12 (orgN r d)
def fillv (r : Layout) : Nat := (wordAt r 8).toNat
def bstr (r : Layout) : Nat := fld (wordAt r 9) 23 0
def blog (r : Layout) : Nat := fld (wordAt r 9) 27 24
def order (r : Layout) (k : Nat) : Nat := fld (wordAt r 10) (3 * k + 2) (3 * k)
def estr (r : Layout) : Nat := fld (wordAt r 10) 31 16

/-- The format of a record, and its bytes: eb of an element, or bb of a block, with kb elements in it. -/
def fmt (r : Layout) : ElFmt := cfmtEl (if mxi r then .mxint8 else .shared ((Fmt.ofCode (fmtCode r)).getD .bf16))
def kb (r : Layout) : Nat := (fmt r).unit.1
def ub (r : Layout) : Nat := (fmt r).unit.2 / 8
def block (r : Layout) : Bool := (fmt r).isBlock

/-- The number of elements of the window. -/
def count (r : Layout) : Nat := (List.range (rank r)).foldl (fun n d => n * win r d) 1

/-- The dimension slots of ORDER below RANK name each dimension once, and the others are zero (R234). -/
def orderOk (r : Layout) : Bool :=
  let n := rank r
  let xs := (List.range n).map (order r)
  xs.Nodup && xs.all (fun d => d < n) && (List.range 5).all (fun k => k < n || order r k == 0)

/-- The words that violate R234, for a record in its role (true: destination) beside a destination that has a block
format or not; and in a map's record the format must be BF16. -/
def bad (r : Layout) (dst dblock : Bool) : List Nat :=
  let sp := space r
  let own := sp == 1 || sp == 2
  let n := rank r
  let fmtOk := if mxi r then fmtCode r == 0 else fmtCode r < 13
  let eb := ub r
  let w (c : Bool) (k : Nat) : List Nat := if c then [k] else []
  let dims (p : Nat → Bool) (k : Nat → Nat) : List Nat := ((List.range 5).filter p).map k
  let ew (d : Nat) : Nat := if d < 3 then 2 else 3
  let sw (d : Nat) : Nat := if d < 3 then 4 else 5
  w (fld (wordAt r 0) 63 57 != 0 || (sp == 1 && fld (wordAt r 0) 56 24 != 0) || (sp == 2 && fld (wordAt r 0) 56 36 != 0)
      || (own && fld (wordAt r 0) 23 21 != 0)) 0
  ++ w (fld (wordAt r 1) 63 34 != 0 || n == 0 || 5 < n || !fmtOk || 2 ≤ ilv r || 4 ≤ rot r || sp == 3 || rnd r == 3
      || dir r != dst || (sp == 0 && (ilv r == 1 || rot r != 0))
      || (if dst then fill r != 0
          else rnd r != 0 || irq r || eidx r != 0 || esc r || fld (wordAt r 1) 19 18 != 0 || sp == 2
            || (fill r == 3 && dblock))) 1
  ++ w ((wordAt r 2).getLsbD 63) 2 ++ w (fld (wordAt r 3) 63 42 != 0) 3 ++ w (fld (wordAt r 6) 63 60 != 0) 6
  ++ w (fld (wordAt r 7) 63 60 != 0) 7 ++ w (dst && wordAt r 8 != 0) 8 ++ w (fld (wordAt r 9) 63 28 != 0) 9
  ++ w (fld (wordAt r 10) 63 32 != 0 || (wordAt r 10).getLsbD 15 || estr r == 0) 10 ++ w (wordAt r 11 != 0) 11
  ++ (if n = 0 ∨ 5 < n then [] else
    dims (fun d => if n ≤ d then ext r d != 0 else ext r d == 0) ew
    ++ dims (fun d => if n ≤ d then win r d != 0 else win r d == 0) (fun _ => 6)
    ++ dims (fun d => n ≤ d && orgN r d != 0) (fun _ => 7)
    ++ dims (fun d => n ≤ d && str r d != 0) sw
    ++ w (!orderOk r) 10
    ++ (if !fmtOk then []
        else if block r then
          w (estr r != 1) 10 ++ w (ext r 0 % kb r != 0) 2 ++ w (win r 0 % kb r != 0) 6 ++ w (orgN r 0 % kb r != 0) 7
        else dims (fun d => 1 ≤ d && d < n && str r d % eb != 0) sw)
    ++ (if ilv r = 0 then w (wordAt r 9 != 0) 9
        else if ilv r = 1 then
          let rows := ((List.range n).drop 1).foldl (fun p d => p * ext r d) 1
          w (str r 2 != 0) 4 ++ w (str r 3 != 0 || str r 4 != 0) 5
          ++ w (bstr r % 16 != 0 || 4 < blog r || bstr r < ceilDiv rows (2 ^ blog r) * str r 1) 9
        else []))
  ++ (if 1 ≤ rot r ∧ rot r ≤ 3 then
        let g := 16 * 2 ^ (rot r + 1)
        w (str r 1 % g != 0) 4 ++ w (own && fld (wordAt r 0) 23 0 % g != 0) 0
      else [])

/-- The first offending word. -/
def firstBad (r : Layout) (dst dblock : Bool) : Option Nat := (bad r dst dblock).min?

/-! ## Traversal (R235, R237) -/

/-- The coordinates of element j of the window sequence. -/
def coordsFrom (r : Layout) : Nat → Nat → Nat → List (Nat × Int)
  | 0, _, _ => []
  | fuel + 1, k, j =>
    let d := order r k
    (d, org r d + (j % win r d : Nat)) :: coordsFrom r fuel (k + 1) (j / win r d)

/-- x0 to x4 of element j. -/
def coords (r : Layout) (j : Nat) : List Int :=
  let cs := coordsFrom r (rank r) 0 j
  (List.range 5).map fun d => match cs.find? fun p => p.1 == d with | some (_, x) => x | none => 0

/-- The element lies inside the extents. -/
def inside (r : Layout) (x : List Int) : Bool :=
  (List.range (rank r)).all fun d => 0 ≤ x.getD d 0 && x.getD d 0 < ext r d

/-- The address of an element that is inside: of its bytes, or of its block. -/
def address (r : Layout) (x : List Int) : Nat :=
  let n (d : Nat) : Nat := (x.getD d 0).toNat
  let e (d : Nat) : Nat := if d < rank r then ext r d else 1
  let row := n 1 + e 1 * (n 2 + e 2 * (n 3 + e 3 * n 4))
  let off0 := if block r then n 0 / kb r * ub r else n 0 * estr r * ub r
  let b := fld (wordAt r 0) (if space r = 0 then 51 else 23) 0
  let a := if ilv r = 1 then b + row % 2 ^ blog r * bstr r + row / 2 ^ blog r * str r 1 + off0
    else b + off0 + ((List.range (rank r)).drop 1).foldl (fun s d => s + n d * str r d) 0
  if rot r = 0 then a
  else
    let k := 2 ^ (rot r + 1)
    let g := a % (16 * k)
    a - g + (g / 16 + row) % k * 16 + g % 16

/-- The nearest edge element (R236). -/
def clampTo (r : Layout) (x : List Int) : List Int :=
  (List.range 5).map fun d => if d < rank r then min (max (x.getD d 0) 0) (ext r d - 1) else 0

/-- The bounding bytes of the window elements that lie inside (R242): base and length. -/
def span (r : Layout) : Nat × Nat :=
  let as := ((List.range (count r)).map (coords r)).filterMap fun x => if inside r x then some (address r x) else none
  match as with
  | [] => (0, 0)
  | a :: rest =>
    let lo := rest.foldl min a
    (lo, rest.foldl max a + ub r - lo)

/-- The window elements inside the extents. -/
def insideCount (r : Layout) : Nat := ((List.range (count r)).filter fun j => inside r (coords r j)).length

/-- The bytes of the count-down (R239). -/
def downBytes (r : Layout) : Int := ((insideCount r) / kb r * ub r : Nat)

/-- The core a remote destination names. -/
def core (r : Layout) : Nat := fld (wordAt r 0) 35 24

/-- The range-lock span of a record; a remote destination registers nothing (R167). -/
def lockSpan (r : Layout) : List Span :=
  if space r = 2 then []
  else
    let (b, n) := span r
    [{ dst := dir r, glob := space r == 0, base := if space r = 0 then b else b % 2 ^ 21, len := n }]

/-- The rounding mode of a destination. -/
def mode (r : Layout) : Rnd := (Rnd.ofCode (rnd r)).getD .rne

end Lay

/-! ## Issue checks (R234, R242, R244) -/

/-- The record at a local address, after the checks of R242. -/
def Core.readRecord (c : Core) (r : Word) : Res Layout :=
  (c.recordCheck r 96 false).andThen fun o => .ok (c.scratch.words o 12)

/-- The offending word of a record as the detail of FORMAT. -/
def recFormat (addr : Word) (word : Nat) : Flt := { code := .format, detail := addr + BitVec.ofNat 64 (8 * word) }

/-- A record meets R234. -/
def layoutOk (addr : Word) (r : Layout) (dst dblock : Bool) : Res Unit :=
  match Lay.firstBad r dst dblock with
  | some k => .bad (recFormat addr k)
  | none => .ok ()

/-- The checks of a record's place (R242), which name no detail (R431). -/
def State.placeCheck (s : State) (r : Layout) : Res Unit :=
  let c := s.core
  let (lo, n) := Lay.span r
  if Lay.space r = 0 then
    if fld (wordAt r 0) 56 52 ≠ 0 then .bad { code := .xlate }
    else if !Lay.block r ∧ (Lay.base r).toNat % Lay.ub r ≠ 0 then .bad { code := .align }
    else .ok ()
  else if Lay.space r = 1 then
    if n ≠ 0 ∧ (c.top < lo + n ∨ (Lay.dir r ∧ lo < 0x800)) then .bad { code := .carve }
    else .ok ()
  else if s.isPartner c (Lay.core r) then .ok ()
  else .bad { code := .remote }

/-- Two spans overlap in one space. -/
def spansMeet (a b : Layout) : Bool :=
  let (x, n) := Lay.span a
  let (y, m) := Lay.span b
  Lay.space a == Lay.space b && n != 0 && m != 0 && x < y + m && y < x + n

/-- The checks of a copy's two records (R234, R242): the records. -/
def State.copyCheck (s : State) (src dst : Word) : Res (Layout × Layout) :=
  (s.core.readRecord src).andThen fun a =>
  (s.core.readRecord dst).andThen fun b =>
  (layoutOk src a false (Lay.block b)).andThen fun _ =>
  (layoutOk dst b true false).andThen fun _ =>
  if Lay.count a ≠ Lay.count b then .bad (recFormat src 6)
  else if spansMeet a b then .bad (recFormat src 0)
  else (s.placeCheck a).andThen fun _ => (s.placeCheck b).andThen fun _ => .ok (a, b)

/-- The steps of the channel generator that a transfer reserves (R238): none but under sr. The fill blocks of a transfer
in one format count where they lie inside the destination. DEDUCED: log entry 46. DESIGN CHOICE: log entry 56. -/
def drawCount (a b : Layout) : Nat :=
  if Lay.mode b ≠ .sr then 0
  else if Lay.fmt a ≠ Lay.fmt b then Lay.count b
  else if Lay.block b then
    ((List.range (Lay.count b)).filter fun j =>
      Lay.inside b (Lay.coords b j) && !Lay.inside a (Lay.coords a j)).length
  else 0

/-- n steps of a generator. DEDUCED: log entry 46. -/
def genSteps : Nat → Word32 → Word32
  | 0, g => g
  | n + 1, g => genSteps n (genStep g).1

/-! ## Moving the elements (R235 to R240, R244) -/

/-- A core refuses a store into its scratch from outside: in a span that is locked, above the carve or below 0x800
(R240, R355). -/
def Core.refuses (t : Core) (o n : Nat) : Bool :=
  decide (t.top < o + n) || decide (o < 0x800) || t.rangeLocked false o n true

/-- An engine's store into another core's scratch; none where it is refused (R240). -/
def State.remoteWrite (s : State) (target : Agent) (o : Nat) (bs : List Byte) : Option State :=
  let t := s.getCore target
  if t.refuses o bs.length then none else some (s.setCore (t.storeLocal o bs))

/-- Read bytes of a record's space. An element of own scratch beyond the carve, of a row that a gather names (R244) or
the nearest one to a window that lies wholly outside the extents (R236), is read at its offset modulo 2^21.
DESIGN CHOICE: log entry 56. -/
def State.recRead (s : State) (a : Agent) (r : Layout) (addr n : Nat) : Res (State × List Byte) :=
  if Lay.space r = 0 then s.engRead a (s.getCore a).asid addr n
  else .ok (s, (s.getCore a).scratch.readBytes (addr % 2 ^ 21) n)

/-- Write bytes of a record's space for an operation of a scope. The address of a refused remote write is its offset
(R240). DEDUCED: log entry 29. Own scratch keeps its granules' property until the
transfer's end (R404). -/
def State.recWrite (s : State) (a : Agent) (r : Layout) (sc : Scope) (addr : Nat) (bs : List Byte) : Res State :=
  if Lay.space r = 0 then
    match s.engWrite a (s.getCore a).asid sc addr bs with
    | (s1, none) => .ok s1
    | (_, some (.bad f)) => .bad f
    | _ => .wait
  else if Lay.space r = 1 then
    .ok (s.modCore a fun c => { c with scratch := c.scratch.writeBytes (addr % 2 ^ 21) bs })
  else match s.remoteWrite (.tile (Lay.core r)) addr bs with
  | some s1 => .ok s1
  | none => .bad (flt .remote addr)

/-- An element as it is read: its value, its raw bytes, and the block and place it came from whole. -/
structure Got where
  num : Num
  raw : List Byte
  from_ : Option (Nat × Nat × List Byte) := none

/-- The source element at coordinates x; none where FILL skips it. -/
def State.recGet (s : State) (a : Agent) (r : Layout) (x : List Int) : Res (State × Option Got) :=
  let ins := Lay.inside r x
  let f := Lay.fmt r
  let n := Lay.ub r
  if !ins ∧ Lay.fill r = 3 then .ok (s, none)
  else if !ins ∧ Lay.fill r = 1 then .ok (s, some { num := .fin false 0 0, raw := List.replicate n 0 })
  else if !ins ∧ Lay.fill r = 0 then
    if Lay.block r then .ok (s, some { num := num32 (BitVec.ofNat 32 (Lay.fillv r)), raw := [] })
    else
      let raw := bytesOfNat n (Lay.fillv r)
      .ok (s, some { num := (f.decodeUnit (natOfBytes raw)).headD (.fin false 0 0), raw := raw })
  else
    let y := if ins then x else Lay.clampTo r x
    let ad := Lay.address r y
    (s.recRead a r ad n).andThen fun (s1, bs) =>
    let p := (y.getD 0 0).toNat % Lay.kb r
    .ok (s1, some { num := (f.decodeUnit (natOfBytes bs)).getD p (.fin false 0 0), raw := bs
                    from_ := if ins && Lay.block r then some (ad, p, bs) else none })

/-- A destination block under way: its place in the record, and its elements so far: place, element, random number. -/
structure Blk where
  at_ : List Int
  els : List (Nat × Got × Nat)

/-- A transfer under way: the generator, the elements written, the pairs moved, the blocks not whole yet, and the
granules of own scratch written. -/
structure Xfer where
  s : State
  gen : Word32
  done : Nat := 0
  seen : Nat := 0
  blocks : List Blk := []
  granules : List Nat := []

/-- The bytes of a block whose elements are all known. Blocks moved whole in one format keep their bytes (R238). -/
def blockBytes (d : Layout) (conv : Bool) (b : Blk) : List Byte :=
  let f := Lay.fmt d
  let el (p : Nat) : Option (Nat × Got × Nat) := b.els.find? fun e => e.1 == p
  let whole : Option (List Byte) :=
    if conv then none
    else match (el 0).bind fun e => e.2.1.from_ with
    | none => none
    | some (src, _, raw) =>
      if b.els.all fun e => match e.2.1.from_ with | some (q, p, _) => q == src && p == e.1 | none => false
      then some raw else none
  match whole with
  | some raw => raw
  | none =>
    let ps := List.range (Lay.kb d)
    let modes := ps.map fun p => rmode (Lay.mode d) (match el p with | some e => e.2.2 | none => 0)
    let xs := ps.map fun p => match el p with | some e => e.2.1.num | none => .fin false 0 0
    bytesOfNat (Lay.ub d) (f.encodeUnit modes xs).1

/-- Take the random number of a pair of the sequence, where the transfer counts it: every element of a transfer between
formats, and the fill elements of one in a block format (R238). -/
def Xfer.draw (t : Xfer) (r d : Layout) (x y : List Int) : Xfer × Nat :=
  let conv := decide (Lay.fmt r ≠ Lay.fmt d)
  if decide (Lay.mode d = .sr) && (conv || (Lay.block d && Lay.inside d y && !Lay.inside r x)) then
    ({ t with gen := (genStep t.gen).1 }, (genStep t.gen).2)
  else (t, 0)

/-- The granules of own scratch that a write of the destination's unit at an address reaches, added to those written. -/
def Xfer.reached (t : Xfer) (d : Layout) (ad : Nat) : List Nat :=
  if Lay.space d ≠ 1 then t.granules
  else (granulesOf (ad % 2 ^ 21) (Lay.ub d)).foldl (fun gs g => if gs.contains g then gs else gs ++ [g]) t.granules

/-- Move one element: from source coordinates to destination coordinates. The elements written count as completed
(R231), and a destination block of which the sequence brings only a part is never written.
DESIGN CHOICE: log entry 56. -/
def Xfer.move (t : Xfer) (a : Agent) (r d : Layout) (sc : Scope) (x y : List Int) : Res Xfer :=
  let conv := decide (Lay.fmt r ≠ Lay.fmt d)
  let (t, u) := t.draw r d x y
  if !Lay.inside d y then .ok t
  else
    (t.s.recGet a r x).andThen fun (s1, v) =>
    match v with
    | none => .ok { t with s := s1 }
    | some v =>
      let ad := Lay.address d y
      if Lay.block d then
        let at_ := (y.getD 0 0) / (Lay.kb d : Int) :: y.drop 1
        let b := (t.blocks.find? fun b => b.at_ == at_).getD { at_ := at_, els := [] }
        let b1 : Blk := { b with els := b.els ++ [((y.getD 0 0).toNat % Lay.kb d, v, u)] }
        let rest := t.blocks.filter fun b => b.at_ != at_
        if b1.els.length < Lay.kb d then .ok { t with s := s1, blocks := rest ++ [b1] }
        else
          (s1.recWrite a d sc ad (blockBytes d conv b1)).andThen fun s2 =>
          .ok { t with s := s2, done := t.done + Lay.kb d, blocks := rest, granules := t.reached d ad }
      else
        let bs := if conv then bytesOfNat (Lay.ub d) ((Lay.fmt d).encodeUnit [rmode (Lay.mode d) u] [v.num]).1 else v.raw
        (s1.recWrite a d sc ad bs).andThen fun s2 => .ok { t with s := s2, done := t.done + 1, granules := t.reached d ad }

/-- The elements after a faulting one: each is written or not, a free choice (R240), and takes its random number either
way (R238). -/
def Xfer.later (t : Xfer) (a : Agent) (r d : Layout) (sc : Scope) (rest : List (List Int × List Int)) : Xfer :=
  let u := rest.zipIdx.foldl (fun (u : Xfer) (p : (List Int × List Int) × Nat) =>
    if Config.freeBool (t.s.free + p.2) then
      match u.move a r d sc p.1.1 p.1.2 with
      | .ok u1 => u1
      | _ => (u.draw r d p.1.1 p.1.2).1
    else (u.draw r d p.1.1 p.1.2).1) t
  { t with s := u.s.useFree rest.length }

/-- Move a sequence of elements up to the first that faults, which has taken its random number, or must wait. -/
def Xfer.run (t : Xfer) (a : Agent) (r d : Layout) (sc : Scope) :
    List (List Int × List Int) → Xfer × Res Unit × List (List Int × List Int)
  | [] => (t, .ok (), [])
  | (x, y) :: rest =>
    match t.move a r d sc x y with
    | .ok t1 => Xfer.run { t1 with seen := t1.seen + 1 } a r d sc rest
    | .bad f => ((t.draw r d x y).1, .bad f, rest)
    | .wait => (t, .wait, rest)

/-- The pairs of a copy's sequence. -/
def copyPairs (r d : Layout) : List (List Int × List Int) :=
  (List.range (Lay.count d)).map fun j => (Lay.coords r j, Lay.coords d j)

/-- The rows that a gather moves, and its pairs, from the indices read (R244). -/
def gathRows (r d : Layout) (cnt : Nat) : Nat := min cnt (Lay.count d / Lay.win r 0)

/-- The source coordinates of column i of table row ix. -/
def gathPairs (r d : Layout) (idx : List Nat) : List (List Int × List Int) :=
  idx.zipIdx.flatMap fun (ix, jr) => (List.range (Lay.win r 0)).map fun i =>
    ([Lay.org r 0 + (i : Nat), (ix : Nat), 0, 0, 0], Lay.coords d (jr * Lay.win r 0 + i))

/-- The 64 KiB pages of global memory that a copy reads: those of its source elements inside the extents, and of the
nearest ones under FILL 2 (R236). -/
def sourcePages (r d : Layout) : List Nat :=
  (copyPairs r d).foldl (fun ps (p : List Int × List Int) =>
    if !Lay.inside d p.2 || !(Lay.inside r p.1 || Lay.fill r == 2) then ps
    else
      let ad := Lay.address r (if Lay.inside r p.1 then p.1 else Lay.clampTo r p.1)
      [ad / 65536, (ad + Lay.ub r - 1) / 65536].foldl (fun ps g => if ps.contains g then ps else ps ++ [g]) ps) []

/-- A page that the context may read but not write: it grants L and denies W, or is immutable (R404). -/
def State.readOnlyPage (s : State) (a : Agent) (page : Nat) : Bool :=
  match s.translate a (s.getCore a).asid true .rd (page * 65536) with
  | .ok (t, _) => t.l && (!t.w || t.imm)
  | _ => false

/-- The copy leaves its granules restageable (R404): from read-only global pages into own scratch. -/
def State.restageable (s : State) (a : Agent) (r d : Layout) : Bool :=
  Lay.space r == 0 && Lay.space d == 1 && (sourcePages r d).all (s.readOnlyPage a)

/-- Note a copy's write in the granules of its own scratch that it has written (R404). DEDUCED: log entry 22. -/
def Core.noteGranules (c : Core) (written : List Nat) (ok : Bool) (op : EngOp) : Core :=
  { c with granules := written.foldl (fun gs g =>
      if g < 2 then gs
      else
        let e := (lookup Granule.g g gs).getD { g := g, ok := true, copies := [] }
        let keep := ok && e.ok && decide (e.copies.length < 4)
        upsert Granule.g { g := g, ok := keep, copies := if keep then e.copies ++ [op] else [] } gs) c.granules }

/-- What a transfer gives: the state, the status code and sticky bits, the count of XPART, and its fault. -/
structure Moved where
  s : State
  status : Nat
  part : Nat
  fault : Option Flt := none
deriving DecidableEq, Repr

/-- The records of a transfer: source and destination. -/
def EngOp.src (o : EngOp) : Layout := o.recs.take 12
def EngOp.dst (o : EngOp) : Layout := (o.recs.drop 12).take 12

/-- The spans that an operation of the channel registers: its source and destination, or a gather's index list and
destination (R167, R244). -/
def EngOp.spans (o : EngOp) : List Span :=
  match o.instr with
  | .gath _ _ _ =>
    { dst := false, glob := false, base := fld (o.ops.getD 1 0) 20 0, len := 4 + 4 * (o.ops.getD 3 0).toNat }
      :: Lay.lockSpan o.dst
  | _ => Lay.lockSpan o.src ++ Lay.lockSpan o.dst

/-- Carry out a copy (R235 to R240). It waits for memory that is not READY (R415). -/
def State.copyRun (s : State) (a : Agent) (op : EngOp) : Res Moved :=
  let r := op.src
  let d := op.dst
  let note (t : Xfer) : State := t.s.modCore a fun c => c.noteGranules t.granules (t.s.restageable a r d) op
  let dropped := Lay.count d - Lay.insideCount d
  match Xfer.run { s := s, gen := op.gen } a r d op.scope (copyPairs r d) with
  | (_, .wait, _) => .wait
  | (t, .bad f, rest) => .ok { s := note (t.later a r d op.scope rest), status := 3, part := t.done, fault := some f }
  | (t, .ok _, _) => .ok { s := note t, status := if dropped = 0 then 0 else 4, part := dropped }

/-- The sticky bits of the indices that a gather has met: INV and OOR (R231, R244). -/
def gathBits (r : Layout) (idx : List Nat) : Nat :=
  (if idx.any fun i => i == 0xFFFFFFFF then 16 else 0)
    + if idx.any fun i => i != 0xFFFFFFFF && Lay.ext r 1 ≤ i then 8 else 0

/-- Carry out a gather (R244). Its list address and count stand in the captured operands. XPART counts the elements of
the rows cut off and those dropped outside the destination extents together. DESIGN CHOICE: log entry 73. -/
def State.gathRun (s : State) (a : Agent) (op : EngOp) : Res Moved :=
  let r := op.src
  let d := op.dst
  let list := fld (op.ops.getD 1 0) 20 0
  let cnt := (op.ops.getD 3 0).toNat
  let rows := gathRows r d cnt
  let idx := (List.range rows).map fun j => (s.getCore a).scratch.readNat (list + 4 + 4 * j) 4
  let note (t : Xfer) : State := t.s.modCore a fun c => c.noteGranules t.granules false op
  let dropped := ((List.range (rows * Lay.win r 0)).filter fun j => !Lay.inside d (Lay.coords d j)).length
  let cut := (cnt - rows) * Lay.win r 0 + dropped
  match Xfer.run { s := s, gen := op.gen } a r d op.scope (gathPairs r d idx) with
  | (_, .wait, _) => .wait
  | (t, .bad f, rest) =>
    .ok { s := note (t.later a r d op.scope rest), status := 3 + gathBits r (idx.take (t.seen / Lay.win r 0 + 1))
          part := t.done, fault := some f }
  | (t, .ok _, _) => .ok { s := note t, status := (if cut = 0 then 0 else 4) + gathBits r idx, part := cut }

/-! ## Transfer ids (R227 to R231) -/

/-- Serial distance: ids outstanding. -/
def Core.idsHeld (c : Core) : Nat := (c.csr.xnext - c.csr.xdone).toNat

/-- The channel has an id free. -/
def Core.idFree (c : Core) : Bool := c.idsHeld < 512

/-- Take the next id. -/
def Core.takeId (c : Core) : Core := { c with csr := { c.csr with xnext := c.csr.xnext + 1 } }

/-- XDONE moves past every id that has completed (R228). -/
def Core.advance : Nat → Core → Core
  | 0, c => c
  | n + 1, c =>
    match c.chan.find? fun o => o.id == c.csr.xdone && o.done with
    | none => c
    | some o =>
      Core.advance n
        { c with
          chan := c.chan.filter fun p => p.id != o.id
          idScopes := upsert Prod.fst (o.id.toNat, o.scope) c.idScopes
          csr := { c.csr with xdone := c.csr.xdone + 1 } }

/-- Record a status that is not OK (R231); COUNT of XPART has 32 bits. -/
def Core.noteStatus (c : Core) (id : Word32) (st part : Nat) : Core :=
  if st = 0 then c
  else
    let code := st % 8
    let sticky := (if code = 0 then 0 else 2 ^ (code - 1)) + (if st / 8 % 2 = 1 then 32 else 0)
      + (if st / 16 % 2 = 1 then 64 else 0)
    { c with csr := { c.csr with
        xstat := BitVec.ofNat 64 (id.toNat * 2 ^ 32 + st * 256) ||| (c.csr.xstat &&& 0x7F) ||| BitVec.ofNat 64 sticky
        xpart := BitVec.ofNat 64 (part % 2 ^ 32) } }

/-- Steps 2 to 6 of a completion (R229): `signal` is its count-down or arrival, `flagged` its interrupt. The queue of
flagged completions has no bound here. DESIGN CHOICE: log entry 56. -/
def State.completeId (s : State) (a : Agent) (op : EngOp) (st part : Nat) (flagged : Bool) (signal : State → State) :
    State :=
  let s1 := signal (s.modCore a fun c => c.freeLocks op.tag)
  s1.modCore a fun c =>
    let c1 := c.noteStatus op.id st part
    let c2 := { c1 with chan := c1.chan.map fun o => if o.id == op.id then { o with done := true } else o }
    let c3 := Core.advance 512 c2
    if flagged then { c3 with flagged := c3.flagged ++ [(op.id, BitVec.ofNat 64 st, op.scope)] } else c3

/-- The byte count-down of a record (R239). -/
def State.countDown (s : State) (a : Agent) (d : Layout) (sc : Scope) : State :=
  if Lay.esc d then
    s.modCore (if Lay.space d = 2 then .tile (Lay.core d) else a) fun c =>
      (c.noteScope (Lay.eidx d) sc).bytesOn (Lay.eidx d) s.time (-(Lay.downBytes d))
  else s

/-- A copy or gather completes with a status (R229, R239). -/
def State.completeCopy (s : State) (a : Agent) (op : EngOp) (st part : Nat) : State :=
  s.completeId a op st part (Lay.irq op.dst) fun s => s.countDown a op.dst op.scope

end Sys2Proof.Machine
end

