-- ==== Sys2Proof/Machine/GlobalUnit.lean ====
section
/-! DEFINITION. The global accesses of a core (R172 to R181) and of its transactions (R278 to R293): what each entry
of the memory unit does when it is performed, in program order. -/

namespace Sys2Proof.Machine

/-! ## Registrations of a transaction (R278, R284, R289) -/

/-- Timestamp x is older than y (R289). -/
def tsOlder (x y : Word) : Bool :=
  let d := (y.toNat % 2 ^ 63 + 2 ^ 63 - x.toNat % 2 ^ 63) % 2 ^ 63
  1 ≤ d && d < 2 ^ 62

/-- The timestamp of a core's transaction. -/
def Core.ts (c : Core) : Word := BitVec.ofNat 64 (fld c.csr.txts 62 0)

/-- What a transactional access registers: R, W or D of its plot. -/
structure Sets where
  r : Bool := false
  w : Bool := false
  d : Bool := false
deriving DecidableEq, Repr

/-- A holder's registration conflicts with a transactional request (R284). -/
def Plot.clash (p : Plot) (q : Sets) : Bool :=
  (q.r && (p.w || p.d)) || (q.w && (p.r || p.w || p.d)) || (q.d && (p.r || p.w))

/-- A key of a plot: its virtual and its physical place. -/
def Plot.key (p : Plot) : Nat := p.va * 2 ^ 46 + p.plot

/-- A transaction enters a plot of its virtual address space in its sets, or finds a limit of R278 passed. -/
def Tx.enter (t : Tx) (va plot : Nat) (q : Sets) : Option Tx :=
  let old := (t.plots.find? fun p => p.va == va && p.plot == plot).getD
    { va := va, plot := plot, r := false, w := false, d := false }
  let ps := upsert Plot.key { old with r := old.r || q.r, w := old.w || q.w, d := old.d || q.d } t.plots
  if 256 < (ps.filter Plot.r).length ∨ 128 < (ps.filter fun p => p.w || p.d).length then none
  else some { t with plots := ps }

/-- The oldest of a list of cores. -/
def oldestOf : List Core → Option Core
  | [] => none
  | c :: rest => match oldestOf rest with
    | none => some c
    | some d => if tsOlder d.ts c.ts then some d else some c

/-- A transactional access registers its plot at the home: an older holder that conflicts aborts the requester,
otherwise every holder that conflicts aborts (R284, R289). Only then does a limit of R278 that the requester passes
abort it too. The requester's own abort is left for TRANSACTION_ABORT. DESIGN CHOICE: log entry 68. -/
def State.register (s : State) (a : Agent) (va pa : Nat) (q : Sets) : State :=
  let me := s.getCore a
  let plot := pa / 1024
  let holders := s.cores.filter fun c => c.txLive && c.who != a && c.tx.plots.any fun p => p.plot == plot && p.clash q
  match oldestOf (holders.filter fun c => tsOlder c.ts me.ts) with
  | some o => s.setCore (me.doomTx 1 (coreId o.who))
  | none =>
    let s1 := holders.foldl (fun s c => s.setCore (c.doomTx 1 (coreId a))) s
    match me.tx.enter (va / 1024) plot q with
    | some t => s1.setCore { me with tx := t }
    | none => s1.setCore (me.doomTx 3 0)

/-- The transaction of an agent goes on. -/
def State.txGoes (s : State) (a : Agent) : Bool := (s.getCore a).txLive

/-- A core is as given, with its carve; where the ways of its cluster's L1 are fewer now, its speculative lines move
(R279). -/
def State.seat (s : State) (c : Core) : State := (s.setCore c).settleSpec (dieOf c.who)

/-- Change a transaction's bytes or deltas of a line, which finds a way first; the transaction aborts with CAPACITY
where its speculative lines find none (R279). -/
def State.modTx (s : State) (a : Agent) (line : Nat) (f : Tx → Tx) : State :=
  let s0 := if (s.getCore a).tx.specLines.contains line then s else s.specRoom a line
  if !s0.txGoes a then s0
  else
    let s1 := s0.modCore a fun c => { c with tx := f c.tx }
    let fits := (s1.versioned (dieOf a)).all (s1.versionFits (dieOf a))
    (if fits then s1 else s1.modCore a fun c => c.doomTx 3 0).settleSpec (dieOf a)

/-- The bytes of a span as a transaction sees them: its own stores over the committed bytes (R280). -/
def Tx.view (t : Tx) (m : Memory) (pa n : Nat) : List Byte :=
  (List.range n).map fun i => ((t.spec.find? fun c => c.1 == pa + i).map Prod.snd).getD (m.read (pa + i))

/-- A transaction stores bytes of a line, of whose page the share scope is noted with its first store. -/
def Tx.put (t : Tx) (sc : Scope) (pa : Nat) (bs : List Byte) : Tx :=
  { t with
    spec := (List.range bs.length).foldl (fun sp i => upsert Prod.fst (pa + i, bs.getD i 0) sp) t.spec
    scopes := if t.scopes.any fun p => p.1 == pa / 128 then t.scopes else t.scopes ++ [(pa / 128, sc)] }

/-- The share scope of a line that the transaction has stored to. -/
def Tx.scopeOf (t : Tx) (line : Nat) : Scope := ((t.scopes.find? fun p => p.1 == line).map Prod.snd).getD .cl

/-- A transaction has accessed a line. -/
def Tx.touch (t : Tx) (line : Nat) : Tx := { t with lines := if t.lines.contains line then t.lines else line :: t.lines }

/-- Before a transaction first accesses a line, the issuing cluster writes its own dirty bytes of the line back, and
keeps its copy (R149, R285); an access to another module aborts with REMOTE first (R297). -/
def State.txEnter (s : State) (a : Agent) (va pa : Nat) (q : Sets) : State :=
  if s.foreign pa then s.modCore a fun c => c.doomTx 7 0
  else
    let s1 := match a with
      | .tile id =>
        if (s.getCore a).tx.lines.contains (pa / 128) then s
        else match (s.cluster (clusterOf id)).find pa with
        | none => s
        | some l => s.cleanLine (clusterOf id) (some a) l
      | .sup _ => s
    (s1.modCore a fun c => { c with tx := c.tx.touch (pa / 128) }).register a va pa q

/-- A store by the thread reaches the L2 at once because its cluster has no ways, or it has no L1 (R193, R430). -/
def State.noL1 (s : State) (a : Agent) : Bool :=
  match a with
  | .tile id => (s.ways (clusterOf id)).isEmpty
  | .sup _ => true

/-- The transaction has stored every byte of a span itself (R280). -/
def Tx.owns (t : Tx) (pa n : Nat) : Bool :=
  (List.range n).all fun i => t.spec.any fun (c : Host.Cell) => c.1 == pa + i

/-- A transactional read of a span reaches a line's L2 copy: it reads a committed byte, or its cluster has no L1 that
could hold the transaction's own (R193, R280). -/
def State.txReaches (s : State) (a : Agent) (pa n : Nat) : Bool := s.noL1 a || !(s.getCore a).tx.owns pa n

/-- The state in which a transactional read finds its bytes: the die's L2 takes the line where it is reached. -/
def State.txTake (s : State) (a : Agent) (pa n : Nat) : State :=
  if (s.getCore a).tx.owns pa n then s else s.l2Take (dieOf a) pa false

/-- A transactional load of bytes of one line. -/
def State.txLoad (s : State) (a : Agent) (detail : Word) (pa n : Nat) : Res (State × List Byte) :=
  if !s.foreign pa ∧ s.poisoned pa ∧ s.txReaches a pa n then .bad (poisonFlt detail pa)
  else
    let s1 := s.txEnter a detail.toNat pa { r := true }
    if s1.txGoes a then
      let s2 := s1.txTake a pa n
      .ok (s2, (s2.getCore a).tx.view s2.mem pa n)
    else .ok (s1, [])

/-- A transactional store of bytes of one line of a page of a share scope. -/
def State.txStore (s : State) (a : Agent) (sc : Scope) (detail : Word) (pa : Nat) (bs : List Byte) : Res State :=
  if !s.foreign pa ∧ s.poisoned pa ∧ s.noL1 a then .bad (poisonFlt detail pa)
  else
    let s1 := s.txEnter a detail.toNat pa { w := true }
    if s1.txGoes a then .ok (s1.modTx a (pa / 128) fun t => t.put sc pa bs) else .ok s1

/-- A transactional atomic: one load and one store of the word (R283). -/
def State.txAtomic (s : State) (a : Agent) (sc : Scope) (detail : Word) (pa n : Nat) (f : Nat → Nat) : Res (State × Nat) :=
  if !s.foreign pa ∧ s.poisoned pa ∧ s.txReaches a pa n then .bad (poisonFlt detail pa)
  else
    let s1 := s.txEnter a detail.toNat pa { r := true, w := true }
    if s1.txGoes a then
      let s2 := s1.txTake a pa n
      let old := natOfBytes ((s2.getCore a).tx.view s2.mem pa n)
      .ok (s2.modTx a (pa / 128) fun t => t.put sc pa (bytesOfNat n (f old)), old)
    else .ok (s1, 0)

/-! ## Commutative writes (R291) -/

/-- The bytes of a delta's word: 8 of `tcor.d`, else 4. -/
def deltaBytes (k : Fin 5) : Nat := if k = 4 then 8 else 4

/-- Combine a delta with a new value, or apply it to memory: the kinds add, fadd, max, min, or. -/
def deltaOp (k : Fin 5) (x v : Nat) : Nat :=
  match k with
  | 0 => (x + v) % 2 ^ 32
  | 1 => (addF32 (BitVec.ofNat 32 x) (BitVec.ofNat 32 v)).1.toNat
  | 2 => wrapN32 (Max.max (signedOf 32 x) (signedOf 32 v))
  | 3 => wrapN32 (Min.min (signedOf 32 x) (signedOf 32 v))
  | _ => Nat.lor x v
where
  wrapN32 (v : Int) : Nat := (v % (2 ^ 32 : Int)).toNat

/-- The delta overlaps a word. -/
def Delta.meets (d : Delta) (pa n : Nat) : Bool := d.pa < pa + n && pa < d.pa + deltaBytes d.kind

/-- Record a delta; a delta of another kind on the same bytes is a FORMAT fault inside the transaction (R291). -/
def State.txDelta (s : State) (a : Agent) (detail : Word) (k : Fin 5) (pa v : Nat) : Res State :=
  if !s.foreign pa ∧ s.poisoned pa then .bad (poisonFlt detail pa)
  else
    let t := (s.getCore a).tx
    if t.deltas.any fun d => d.meets pa (deltaBytes k) && d.kind != k then .bad fmtFlt
    else
      let s1 := s.txEnter a detail.toNat pa { d := true }
      if s1.txGoes a then
        .ok (s1.modTx a (pa / 128) fun t =>
          match t.deltas.find? fun d => d.pa == pa with
          | some d => { t with deltas := t.deltas.map fun e =>
              if e.pa == pa then { e with value := BitVec.ofNat 64 (deltaOp k d.value.toNat v) } else e }
          | none => { t with deltas := t.deltas ++ [{ kind := k, pa := pa, value := BitVec.ofNat 64 v }] })
      else .ok s1

/-! ## The values of atomics (R179) -/

/-- The new value of an `amo` on n bytes. -/
def amoNew (op : AmoOp) (n old val : Nat) : Nat :=
  let w := 8 * n
  let v := val % 2 ^ w
  let fit (x : Int) : Nat := (x % (2 ^ w : Int)).toNat
  match op with
  | .add => (old + v) % 2 ^ w
  | .and => Nat.land old v
  | .or => Nat.lor old v
  | .xor => Nat.xor old v
  | .min => fit (Min.min (signedOf w old) (signedOf w v))
  | .max => fit (Max.max (signedOf w old) (signedOf w v))
  | .minu => Min.min old v
  | .maxu => Max.max old v
  | .swap => v
  | .fadd => (addF32 (BitVec.ofNat 32 old) (BitVec.ofNat 32 v)).1.toNat
  | .fmax => (rne32 ((num32 (BitVec.ofNat 32 old)).max (num32 (BitVec.ofNat 32 v)))).1.toNat

/-- The new value of a `cas` on n bytes. -/
def casNew (n old expect new : Nat) : Nat := if old = expect % 2 ^ (8 * n) then new % 2 ^ (8 * n) else old

/-! ## Accesses by any agent, device space included -/

/-- Device registers are reached: those of another module need a link that is up (R142, R174). -/
def State.deviceAt (s : State) (pa : Nat) (detail : Word) : Res Unit :=
  Res.unless (!s.foreign pa || s.ports.linkup != 0) { code := .protect, detail := detail }

/-- A load of device registers: of another module by a request, whose answer is free here. DEDUCED: log entry 41. -/
def State.deviceLoad (s : State) (pa n : Nat) : State × List Byte :=
  if s.foreign pa then
    ((s.send (.load pa n)).useFree n, (List.range n).map fun i => Config.freeByte (s.free + i))
  else (s, s.regBytes (lpaOf pa - devBase) n)

/-- A store of device registers by a core: of another module by a request. DEDUCED: log entry 41. -/
def State.deviceStore (s : State) (pa : Nat) (bs : List Byte) : State :=
  if s.foreign pa then s.send (.store pa bs) else s.regStoreAll false (lpaOf pa - devBase) bs

/-- The access goes to device registers. One of a transaction to another module's aborts as one to its memory does
(R297). -/
def State.toDevice (s : State) (tx : Bool) (pa : Nat) : Bool := isDevice pa && !(tx && s.foreign pa)

/-- A load of n bytes at a translated address, plain or transactional. -/
def State.gload (s : State) (a : Agent) (tx : Bool) (t : Tlb) (va pa n : Nat) : Res (State × List Byte) :=
  let detail := BitVec.ofNat 64 va
  if s.toDevice tx pa then (s.deviceAt pa detail).andThen fun _ => .ok (s.deviceLoad pa n)
  else if tx then s.txLoad a detail pa n
  else s.load a t va pa n

/-- A store of bytes at a translated address. -/
def State.gstore (s : State) (a : Agent) (tx : Bool) (t : Tlb) (va pa : Nat) (bs : List Byte) : Res State :=
  let detail := BitVec.ofNat 64 va
  if s.toDevice tx pa then (s.deviceAt pa detail).andThen fun _ => .ok (s.deviceStore pa bs)
  else if tx then s.txStore a t.scope detail pa bs
  else s.store a t va pa bs

/-- An atomic at a translated address. -/
def State.gatomic (s : State) (a : Agent) (tx : Bool) (t : Tlb) (sc : Scope) (va pa n : Nat) (f : Nat → Nat)
    (r : AtomReq) : Res (State × Nat) :=
  let detail := BitVec.ofNat 64 va
  if s.toDevice tx pa then
    (s.deviceAt pa detail).andThen fun _ =>
    if s.foreign pa then
      .ok ((s.sendAtomic pa n r).useFree n,
        natOfBytes ((List.range n).map fun i => Config.freeByte (s.free + i)))
    else
      let old := natOfBytes (s.regBytes (lpaOf pa - devBase) n)
      .ok (s.deviceStore pa (bytesOfNat n (f old)), old)
  else if tx then s.txAtomic a t.scope detail pa n f
  else s.atomic a t sc va pa n f r

/-! ## Entries of the memory unit -/

/-- The address, size, kind and scope of a global access, from its entry's operands (R174). -/
structure Access where
  ea : Word
  n : Nat
  kind : Kind
  acq : Bool := false
  rel : Bool := false
  scope : Scope := .cl
deriving DecidableEq, Repr

/-- The access of an instruction with its captured operands. -/
def accessOf (i : Instr) (o : Ops) : Option Access :=
  match i with
  | .ldg w acq sc _ _ off => some { ea := o.b + BitVec.ofInt 64 off, n := widthBytes w, kind := .rd, acq := acq, scope := sc }
  | .stg w rel sc _ _ off => some { ea := o.a + BitVec.ofInt 64 off, n := storeBytes w, kind := .wr, rel := rel, scope := sc }
  | .amoW _ sc _ _ => some { ea := o.a, n := 4, kind := .at_, scope := sc }
  | .amoD _ sc _ _ => some { ea := o.a, n := 8, kind := .at_, scope := sc }
  | .casW sc _ _ _ => some { ea := o.a, n := 4, kind := .at_, scope := sc }
  | .casD sc _ _ _ => some { ea := o.a, n := 8, kind := .at_, scope := sc }
  | .tcaddW _ _ | .tcaddF _ _ | .tcmaxW _ _ | .tcminW _ _ => some { ea := o.a, n := 4, kind := .at_, scope := .pkg }
  | .tcorD _ _ => some { ea := o.a, n := 8, kind := .at_, scope := .pkg }
  | _ => none

/-- The kind of a commutative write (R291). -/
def deltaKind : Instr → Option (Fin 5)
  | .tcaddW _ _ => some 0
  | .tcaddF _ _ => some 1
  | .tcmaxW _ _ => some 2
  | .tcminW _ _ => some 3
  | .tcorD _ _ => some 4
  | _ => none

/-- The checks of R174 that run at issue: XLATE, ALIGN, RANGELOCK. -/
def Core.accessCheck (c : Core) (x : Access) : Res Unit :=
  let f (code : Code) : Res Unit := .bad { code := code, detail := x.ea }
  if 2 ^ (if c.isSup then 56 else 52) ≤ x.ea.toNat then f .xlate
  else if x.ea.toNat % x.n ≠ 0 then f .align
  else if c.rangeLocked true x.ea.toNat x.n x.kind.writes then f .rangelock
  else .ok ()

/-- An entry is a global access that program order counts. -/
def Entry.isAccess (e : Entry) : Bool :=
  (accessOf e.instr e.ops).isSome || match e.instr with | .vldg _ _ | .vstg _ _ => true | _ => false

/-- A global access that has not been performed yet. -/
def Entry.unperformed (e : Entry) : Bool := e.isAccess && !e.ready

/-- An earlier global access of the core has not been performed (R160). DEDUCED: log entry 6. -/
def Core.behind (c : Core) (tag : Nat) : Bool := (c.entries.takeWhile fun e => e.tag != tag).any Entry.unperformed

/-- Every earlier load of the core has returned its value: an acquire takes effect only then (R155). -/
def Core.loadsBack (c : Core) : Bool :=
  !c.entries.any fun e => e.unperformed && match e.instr with
    | .vldg _ _ => true
    | _ => match accessOf e.instr e.ops with
      | some x => x.kind != .wr
      | none => false

/-- Every global access of the core has been performed, and with `back` also returned. -/
def Core.accessesDone (c : Core) (back : Bool) : Bool :=
  !c.entries.any fun e => if back then e.isAccess else e.unperformed

/-- Perform the access of an entry of the memory unit. The entry leaves the queue where nothing is to be returned; a
load or an atomic holds its value. The value of an access that aborted its transaction is never used. The store of a
release wider than cluster scope is performed at the L2 at once (R156, R159).
DEDUCED: log entry 6. -/
def State.perform1 (s : State) (a : Agent) (inline : Bool) (e : Entry) : Res State :=
  let c := s.getCore a
  match accessOf e.instr e.ops with
  | none => .ok s
  | some x =>
    let va := x.ea.toNat
    let put (s : State) (v : Word) : State := s.modCore a fun c => c.putEntry { e with ready := true, result := v }
    let drop (s : State) : State := s.modCore a fun c => c.dropEntry e.tag
    let s := if inline then s.walked a c.asid va else s
    (s.translateTx a c.asid inline e.tx x.kind va).andThen fun (t, pa) =>
    match e.instr with
    | .ldg w _ _ _ _ _ =>
      (s.gload a e.tx t va pa x.n).andThen fun (s1, bs) =>
      let s2 := if x.acq && !e.tx then s1.acquire a x.scope else s1
      .ok (put s2 (extend w (natOfBytes bs)))
    | .stg _ _ _ _ _ _ =>
      let s0 := if x.rel && !e.tx then s.release a x.scope else s
      (s0.gstore a e.tx t va pa (bytesOfNat x.n e.ops.b.toNat)).andThen fun s1 =>
      .ok (drop (if x.rel && !e.tx then s1.release a x.scope else s1))
    | .amoW op _ _ _ | .amoD op _ _ _ =>
      (s.gatomic a e.tx t x.scope va pa x.n (fun old => amoNew op x.n old e.ops.b.toNat) (e.instr, e.ops)).andThen fun (s1, v) =>
      .ok (put s1 (BitVec.ofNat 64 v))
    | .casW _ _ _ _ | .casD _ _ _ _ =>
      (s.gatomic a e.tx t x.scope va pa x.n (fun old => casNew x.n old e.ops.b.toNat e.ops.c.toNat) (e.instr, e.ops)).andThen
        fun (s1, v) => .ok (put s1 (BitVec.ofNat 64 v))
    | i => match deltaKind i with
      | none => .ok s
      | some k =>
        let v := e.ops.b.toNat % 2 ^ (8 * x.n)
        if e.tx then (s.txDelta a x.ea k pa v).andThen fun s1 => .ok (drop s1)
        else (s.gatomic a false t x.scope va pa x.n (fun old => deltaOp k old v) (e.instr, e.ops)).andThen fun (s1, _) => .ok (drop s1)

/-- An access that the drain leaves to an event of its own: an acquire, an atomic or a release that waits. -/
def Entry.ownEvent (e : Entry) : Bool :=
  match e.instr with
  | .ldg _ acq _ _ _ _ => acq && !e.tx
  | .stg _ rel _ _ _ _ => rel && !e.tx
  | .vldg _ _ | .vstg _ _ => true
  | .amoW _ _ _ _ | .amoD _ _ _ _ | .casW _ _ _ _ | .casD _ _ _ _ => true
  | _ => false

/-- Perform the core's accesses in program order as far as their translations are held; the entry that faults, where
one does. -/
def State.drainOver (s : State) (a : Agent) : List Entry → State × Option (Nat × Flt)
  | [] => (s, none)
  | e :: rest =>
    if !e.unperformed then s.drainOver a rest
    else if e.ownEvent then (s, none)
    else match s.perform1 a false e with
      | .ok s1 => if e.tx && !s1.txGoes a then (s1, none) else s1.drainOver a rest
      | .wait => (s, none)
      | .bad f => (s, some (e.tag, f))

/-- Perform what can be performed of a core's accesses. DEDUCED: log entry 6. -/
def State.drain (s : State) (a : Agent) : State × Option (Nat × Flt) := s.drainOver a (s.getCore a).entries

/-- A value returns: it lands in its register or train position, the lease ends, and the entry is gone (R83, R176). -/
def Core.finish (c : Core) (e : Entry) (v : Word) : Core :=
  let c1 := (c.deliver e.tag v).dropEntry e.tag
  match e.instr with
  | .ldg _ _ _ d _ _ | .rget d _ => (c1.setDstOf e.shadow d v).endLease e.tag
  | _ => c1.endLease e.tag

/-! ## Vector loads and stores of global memory (R207, R225) -/

/-- A vector global access of the active elements of size n bytes, each an access of its own: a load gives the bytes of
each element by its index. Of several elements that fault, the one of the lowest index is reported.
DESIGN CHOICE: log entry 73. -/
def State.vglobal (s : State) (a : Agent) (tx : Bool) (store : Bool) (n : Nat) (els : List (Nat × Nat × List Byte)) :
    Res (State × List (Nat × List Byte)) :=
  let asid := (s.getCore a).asid
  els.foldl (fun acc p => acc.andThen fun (s, got) =>
    let (i, va, bs) := p
    let s := s.walked a asid va
    (s.translateTx a asid true tx (if store then .wr else .rd) va).andThen fun (t, pa) =>
    if store then (s.gstore a tx t va pa bs).andThen fun s1 => .ok (s1, got)
    else (s.gload a tx t va pa n).andThen fun (s1, b) => .ok (s1, got ++ [(i, b)])) (.ok (s, []))

end Sys2Proof.Machine
end

