-- ==== Sys2Proof/Machine/MatUnit.lean ====
section
/-! DEFINITION. What the matrix array computes (10_matrix.md, R250 to R271; R76 to R78): control words, operand layouts,
the product, the split-K combination, and the moves of a bank. -/

namespace Sys2Proof.Machine

/-! ## The control word (R251 to R253) -/

def cwM (cw : Word) : Nat := fld cw 8 0
def cwN (cw : Word) : Nat := fld cw 18 9
def cwK (cw : Word) : Nat := fld cw 34 19
def cwFA (cw : Word) : Nat := fld cw 38 35
def cwFB (cw : Word) : Nat := fld cw 42 39
def cwACC (cw : Word) : Bool := cw.getLsbD 43
def cwTA (cw : Word) : Bool := cw.getLsbD 44
def cwTB (cw : Word) : Bool := cw.getLsbD 45
def cwLA (cw : Word) : Bool := cw.getLsbD 46
def cwLB (cw : Word) : Bool := cw.getLsbD 47
def cwKSV (cw : Word) : Bool := cw.getLsbD 48
def cwWEN (cw : Word) : Bool := cw.getLsbD 49
def cwEIDX (cw : Word) : Nat := fld cw 59 50
def cwWPAR (cw : Word) : Nat := fld cw 63 60

/-- The stored form of a format code. -/
def elOfCode (n : Nat) : ElFmt := fmtEl ((Fmt.ofCode n).getD .bf16)

/-- A block format by its code. -/
def blockCode (n : Nat) : Bool := 4 ≤ n && n ≤ 9

/-- The pair is accepted (R253): two floating formats of 0x0 to 0x9, or INT8 with INT8. -/
def pairOk (fa fb : Nat) : Bool := (fa ≤ 9 && fb ≤ 9) || (fa == 10 && fb == 10)

/-- The control word meets R252 under the limits of its instruction. -/
def cwOk (cw : Word) (maxM maxN : Nat) : Bool :=
  (cwWEN cw || (cwWPAR cw == 0 && cwEIDX cw == 0)) && (!cwKSV cw || fld cw 34 24 == 0)
    && 1 ≤ cwM cw && cwM cw ≤ maxM && 1 ≤ cwN cw && cwN cw ≤ maxN && pairOk (cwFA cw) (cwFB cw)
    && !(cwTA cw && blockCode (cwFA cw)) && !(!cwTB cw && blockCode (cwFB cw))

/-- The tiles of a team product fit the team (R252). -/
def cwFits (cw : Word) (n : Nat) : Bool := ceilDiv (cwM cw) 64 * ceilDiv (cwN cw) 80 ≤ n

/-! ## The part of a product that a core computes (R263, R264) -/

/-- The region, its place in the whole product, the groups of K, and whether it is the first part of its tile. -/
structure Part where
  mi : Nat
  nj : Nat
  row0 : Nat
  col0 : Nat
  g0 : Nat
  g1 : Nat
  k : Nat
  first : Bool
deriving DecidableEq, Repr

/-- The part of an mma or a command. -/
def partMma (cw : Word) (k : Nat) : Part :=
  { mi := cwM cw, nj := cwN cw, row0 := 0, col0 := 0, g0 := 0, g1 := ceilDiv k 16, k := k, first := true }

/-- The part of rank r of n members in a team product; none where it computes nothing (R264). -/
def partMmat (cw : Word) (k n r : Nat) : Option Part :=
  let tn := ceilDiv (cwN cw) 80
  let tiles := ceilDiv (cwM cw) 64 * tn
  let parts := n / tiles
  let isMx (f : Nat) : Bool := 7 ≤ f && f ≤ 9
  let u := if isMx (cwFA cw) || isMx (cwFB cw) then 2 else 1
  let g := ceilDiv k 16
  let units := ceilDiv g u
  if tiles = 0 ∨ parts * tiles ≤ r then none
  else
    let t := r / parts
    let p := r % parts
    let i := t / tn
    let j := t % tn
    some
      { mi := min 64 (cwM cw - 64 * i), nj := min 80 (cwN cw - 80 * j), row0 := 64 * i, col0 := 80 * j
        g0 := p * units / parts * u, g1 := min ((p + 1) * units / parts * u) g, k := k, first := p == 0 }

/-- The k-steps of a part: from 16 * g0 up to the last group's end. -/
def Part.kp (p : Part) : Nat := min (16 * p.g1) p.k - 16 * p.g0

/-! ## Operand layouts (R254) -/

/-- The bytes of a row of n elements. -/
def rowBytes (f : ElFmt) (n : Nat) : Nat := f.extent n / 8

/-- Where an operand stands: its address, its format, whether it comes from L2, whether its rows run along K, its full
size across K and along K, and the slice that is read: from `o` across and `k0` along K. -/
structure Operand where
  base : Nat
  fmt : ElFmt
  l2 : Bool
  kInner : Bool
  dimO : Nat
  dimK : Nat
  o : Nat
  n : Nat
  k0 : Nat
  kn : Nat
deriving DecidableEq, Repr

/-- Operand A of a part: from L2 a slice of the whole matrix, from scratch a dense slice (R264). -/
def operandA (cw : Word) (addr : Nat) (p : Part) : Operand :=
  let l2 := cwLA cw
  { base := addr, fmt := elOfCode (cwFA cw), l2 := l2, kInner := !cwTA cw
    dimO := if l2 then cwM cw else p.mi, dimK := if l2 then p.k else p.kp
    o := if l2 then p.row0 else 0, n := p.mi, k0 := if l2 then 16 * p.g0 else 0, kn := p.kp }

/-- Operand B of a part. -/
def operandB (cw : Word) (addr : Nat) (p : Part) : Operand :=
  let l2 := cwLB cw
  { base := addr, fmt := elOfCode (cwFB cw), l2 := l2, kInner := cwTB cw
    dimO := if l2 then cwN cw else p.nj, dimK := if l2 then p.k else p.kp
    o := if l2 then p.col0 else 0, n := p.nj, k0 := if l2 then 16 * p.g0 else 0, kn := p.kp }

/-- The rows of the slice: the address and bytes of each, and the elements it gives. -/
def Operand.rows (x : Operand) : List (Nat × Nat × Nat) :=
  let (outer, out0, inner, in0, len) :=
    if x.kInner then (x.n, x.o, x.kn, x.k0, x.dimK) else (x.kn, x.k0, x.n, x.o, x.dimO)
  let (kb, bits) := x.fmt.unit
  (List.range outer).map fun r =>
    (x.base + (out0 + r) * rowBytes x.fmt len + in0 / kb * (bits / 8), rowBytes x.fmt inner, inner)

/-- The bytes of a dense operand in scratch. -/
def Operand.bytes (x : Operand) : Nat :=
  if x.kInner then x.n * rowBytes x.fmt x.kn else x.kn * rowBytes x.fmt x.n

/-- An operand as fetched, by outer and inner position. -/
structure Tile where
  kInner : Bool
  rows : Array (Array Num)

/-- The element at position o across K and k along it. -/
def Tile.at_ (t : Tile) (o k : Nat) : Num :=
  let (i, j) := if t.kInner then (o, k) else (k, o)
  (t.rows.getD i #[]).getD j (.fin false 0 0)

/-- Decode the fetched rows of an operand. -/
def Operand.tile (x : Operand) (raw : List Nat) : Tile :=
  { kInner := x.kInner
    rows := ((x.rows.zip raw).map fun p => (x.fmt.decode p.1.2.2 p.2).toArray).toArray }

/-! ## Accumulation (R76, R77) -/

/-- The integer of an element of an INT8 operand. -/
def numInt : Num → Int
  | .fin a m e => let v : Int := m * 2 ^ e.toNat; if a then -v else v
  | _ => 0

/-- The exact sum of a k-group's products, and its operands. -/
def groupSum (xs : List (Num × Num)) : Num :=
  match xs with
  | [] => .fin false 0 0
  | p :: rest => rest.foldl (fun s q => s.add (q.1.mul q.2)) (p.1.mul p.2)

/-- One k-group added to an FP32 accumulator (R76). DEDUCED: log entry 44. -/
def accGroup (acc : Word32) (xs : List (Num × Num)) : Word32 × Flags :=
  let r := (num32 acc).add (groupSum xs)
  let (p, fl) := rne32 r
  (p, fl ||| nvFlag (num32 acc :: xs.flatMap fun q => [q.1, q.2]) r)

/-- One k-group added to an INT32 accumulator (R77). -/
def accGroupInt (acc : Word32) (xs : List (Num × Num)) : Word32 × Flags :=
  addSat32 acc ((xs.map fun q => numInt q.1 * numInt q.2).foldl (fun a b => a + b) 0)

/-- An element of a part: the groups in ascending order. -/
def accElement (int : Bool) (p : Part) (a b : Tile) (start : Word32) (i j : Nat) : Word32 × Flags :=
  (List.range (p.g1 - p.g0)).foldl (fun (acc : Word32 × Flags) g =>
    let xs := (List.range (min 16 (p.kp - 16 * g))).map fun k => (a.at_ i (16 * g + k), b.at_ j (16 * g + k))
    let (v, fl) := if int then accGroupInt acc.1 xs else accGroup acc.1 xs
    (v, acc.2 ||| fl)) (start, 0)

/-- Element (i, j) of a bank. -/
def bankAt (b : Bank) (i j : Nat) : Word32 :=
  if h : i < 64 then (if g : j < 80 then (b.get ⟨i, h⟩).get ⟨j, g⟩ else 0) else 0

/-- A bank given element by element. -/
def bankOf (f : Nat → Nat → Word32) : Bank := Vector.ofFn fun i => Vector.ofFn fun j => f i.val j.val

/-- The bank after a part, and the flags (R263, R264). -/
def product (cw : Word) (p : Part) (a b : Tile) (bank : Bank) : Bank × Flags :=
  let int := cwFA cw == 10
  let start (i j : Nat) : Word32 := if cwACC cw && p.first then bankAt bank i j else 0
  let rs : Array (Array (Word32 × Flags)) :=
    ((List.range p.mi).map fun i => ((List.range p.nj).map fun j => accElement int p a b (start i j) i j).toArray).toArray
  (bankOf fun i j => if i < p.mi ∧ j < p.nj then ((rs.getD i #[]).getD j (0, 0)).1 else bankAt bank i j,
    rs.foldl (fun fl row => row.foldl (fun fl r => fl ||| r.2) fl) 0)

/-- Combine a received bank with a core's own, one addition an element (R78, R267). -/
def combine (int : Bool) (s own : Bank) : Bank × Flags :=
  let f (i j : Nat) : Word32 × Flags :=
    if int then addSat32 (bankAt s i j) (bankAt own i j).toInt else addF32 (bankAt s i j) (bankAt own i j)
  (bankOf fun i j => (f i j).1,
    (List.range 64).foldl (fun fl i => (List.range 80).foldl (fun fl j => fl ||| (f i j).2) fl) 0)

/-! ## mzero, mld, mst, amov (R268 to R271) -/

/-- A bank of zeros (R268). -/
def zeroBank : Bank := bankOf fun _ _ => 0

/-- A bank from 20480 bytes of scratch (R269). -/
def Core.loadBank (c : Core) (o : Nat) : Bank :=
  bankOf fun i j => BitVec.ofNat 32 (c.scratch.readNat (o + 320 * i + 4 * j) 4)

/-- The modes of the 80 elements of row a, and of MX padding (R270). -/
def rowModes (g : Gens) (r : Rnd) (a n : Nat) : Gens × List RMode :=
  (List.range n).foldl (fun (p : Gens × List RMode) _ =>
    if h : a < 64 then
      if r = .sr then
        let (st, u) := genStep (p.1.row.get ⟨a, h⟩)
        ({ p.1 with row := p.1.row.set a st h }, p.2 ++ [rmode r u])
      else (p.1, p.2 ++ [rmode r 0])
    else p) (g, [])

/-- Row a of a bank encoded (R270): under sr every element draws, whatever the format, and MX padding too (R68). -/
def encodeRow (f : Fmt) (g : Gens) (r : Rnd) (b : Bank) (a : Nat) : Gens × Nat × Flags :=
  let e := fmtEl f
  let (g1, modes) := rowModes g r a ((80 + e.unit.1 - 1) / e.unit.1 * e.unit.1)
  match f with
  | .fp32 | .int32 => (g1, packFields 32 ((List.range 80).map fun j => (bankAt b a j).toNat), 0)
  | .int8 => (g1, e.encode modes ((List.range 80).map fun j => Num.ofInt (bankAt b a j).toInt))
  | _ => (g1, e.encode modes ((List.range 80).map fun j => num32 (bankAt b a j)))

/-- The bytes of mst's span. -/
def mstBytes (f : Fmt) : Nat := 64 * rowBytes (fmtEl f) 80

/-- mst as it completes. -/
def Core.storeBank (c : Core) (f : Fmt) (r : Rnd) (a : Acc) (o : Nat) : Core :=
  let rb := rowBytes (fmtEl f) 80
  (List.range 64).foldl (fun c i =>
    let (g, x, fl) := encodeRow f c.gens r (c.regs.acc.get a) i
    (({ c with gens := g }).storeLocal (o + i * rb) (bytesOfNat rb x)).flag fl) c

/-- Column col of a bank as a vector register (R271). -/
def columnOf (b : Bank) (col : Nat) : VecReg :=
  BitVec.ofNat 2048 (packFields 32 ((List.range 64).map fun i => (bankAt b i col).toNat))

end Sys2Proof.Machine
end

