-- ==== Sys2Proof/Machine/MatRun.lean ====
section
/-! DEFINITION. How a matrix operation is checked at issue, starts in its stream and completes (R255 to R275). -/

namespace Sys2Proof.Machine

/-- The members of a core's team, and its rank (R13). -/
def State.teamSize (s : State) (c : Core) : Nat :=
  match c.task.bind fun t => s.teamOf t.team with
  | some t => t.size
  | none => 0
def Core.rank (c : Core) : Nat := match c.task with | some t => t.rank | none => 0

/-- The stand of a core's task lies on more than one die: of this module, or of several (R103). -/
def State.spansDies (s : State) (c : Core) : Bool :=
  match c.task with
  | some t => t.gang && ((s.teamsOf t.launch).any (fun m => m.die != dieOf c.who)
      || match s.launchOf t.launch with
        | some l => fld (wordAt l.words 2) 17 9 != 0
        | none => false)
  | none => false

/-- The scope at which a wake from an escapement acquires (R103). -/
def State.wakeScope (s : State) (c : Core) (e : Nat) : Scope :=
  c.escScope e (if s.spansDies c then .pkg else .die)

/-- The part that a core computes (R263, R264); a team instruction by its team's size and its rank. -/
def State.partOf (s : State) (c : Core) (i : Instr) (cw : Word) (k : Nat) : Option Part :=
  match i with
  | .mmat _ _ _ => partMmat cw k (s.teamSize c) c.rank
  | _ => some (partMma cw k)

/-- An operand address of L2 or scratch: XLATE or CARVE (R255, R256), which name no detail (R431). -/
def operandCheck (c : Core) (l2 : Bool) (addr : Word) : Res Unit :=
  if l2 then Res.unless (c.vaOk addr) { code := .xlate }
  else Res.unless (fld addr 63 24 = 0) { code := .carve }

/-- The alignment of an operand (R254). -/
def operandAlign (f : Nat) (addr : Word) : Res Unit :=
  Res.unless (blockCode f || fld addr 20 0 % ((elOfCode f).unit.2 / 8) = 0) { code := .align }

/-- The scratch operands of a product: offset, bytes and address. -/
def scratchOperands (cw : Word) (p : Part) (a b : Word) : List (Nat × Nat × Word) :=
  (if cwLA cw then [] else [(fld a 20 0, (operandA cw (fld a 20 0) p).bytes, a)])
    ++ (if cwLB cw then [] else [(fld b 20 0, (operandB cw (fld b 20 0) p).bytes, b)])

/-- The scratch operands lie below the carve (R94). -/
def Core.operandCarve (c : Core) (xs : List (Nat × Nat × Word)) : Res Unit :=
  Res.unless (xs.all fun x => decide (x.1 + x.2.1 ≤ c.top)) { code := .carve }

/-- The range-lock spans of scratch operands. -/
def operandSpans (xs : List (Nat × Nat × Word)) : List Span :=
  xs.map fun x => { dst := false, glob := false, base := x.1, len := x.2.1 }

/-- The issue checks of a product (R252, R254 to R256); `team` has the limits of `mmat`. -/
def State.productCheck (s : State) (c : Core) (team : Bool) (cw a b : Word) : Res Unit :=
  let maxM := if team then 384 else 64
  let maxN := if team then 640 else 80
  if !cwOk cw maxM maxN ∨ (team ∧ !cwFits cw (s.teamSize c)) then .bad fmtFlt
  else
    (operandAlign (cwFA cw) a).andThen fun _ => (operandAlign (cwFB cw) b).andThen fun _ =>
    (operandCheck c (cwLA cw) a).andThen fun _ => (operandCheck c (cwLB cw) b).andThen fun _ =>
    if cwKSV cw then .ok ()
    else match (if team then partMmat cw (cwK cw) (s.teamSize c) c.rank else some (partMma cw (cwK cw))) with
    | none => .ok ()
    | some p => c.operandCarve (scratchOperands cw p a b)

/-- The issue checks of `mld` (R269). -/
def Core.mldCheck (c : Core) (addr : Word) : Res Unit :=
  let o := fld addr 20 0
  if fld addr 63 24 ≠ 0 then .bad { code := .carve, detail := addr }
  else if o % 16 ≠ 0 then .bad { code := .align, detail := addr }
  else Res.unless (o + 20480 ≤ c.top) { code := .carve, detail := addr }

/-- The issue checks of `mst` (R270). -/
def Core.mstCheck (c : Core) (f : Fmt) (addr : Word) : Res Unit :=
  let o := fld addr 20 0
  let e := fmtEl f
  if fld addr 63 24 ≠ 0 then .bad { code := .carve }
  else if !e.isBlock ∧ o % (e.unit.2 / 8) ≠ 0 then .bad { code := .align }
  else Res.unless (o + mstBytes f ≤ c.top && 0x800 ≤ o) { code := .carve }

/-- The scratch spans that a matrix entry registers, given K. -/
def State.matSpans (s : State) (c : Core) (e : Entry) (k : Nat) : List Span :=
  match e.instr with
  | .mma _ _ _ | .mmat _ _ _ =>
    match s.partOf c e.instr e.cfg0 k with
    | some p => operandSpans (scratchOperands e.cfg0 p e.ops.b e.ops.c)
    | none => []
  | .mld _ _ => [{ dst := false, glob := false, base := fld e.ops.b 20 0, len := 20480 }]
  | .mst f _ _ _ => [{ dst := true, glob := false, base := fld e.ops.b 20 0, len := mstBytes f }]
  | _ => []

/-- An entry that registers its spans when it starts (R261): KSV = 1, or a command. -/
def deferredSpans (command : Bool) (e : Entry) : Bool :=
  match e.instr with
  | .mma _ _ _ | .mmat _ _ _ => command || cwKSV e.cfg0
  | _ => false

/-- Replace an entry wherever it stands: in stream 0 or another stream. -/
def Core.putStream (c : Core) (stream : Fin 4) (e : Entry) : Core :=
  if h : stream.val = 0 then c.putEntry e
  else
    let i : Fin 3 := ⟨stream.val - 1, by omega⟩
    { c with streams := setAt c.streams i ((c.streams.get i).map fun x => if x.tag == e.tag then e else x) }

/-- Remove an entry from its stream. -/
def Core.dropStream (c : Core) (stream : Fin 4) (tag : Nat) : Core :=
  if h : stream.val = 0 then c.dropEntry tag
  else
    let i : Fin 3 := ⟨stream.val - 1, by omega⟩
    { c with streams := setAt c.streams i ((c.streams.get i).filter fun x => x.tag != tag) }

/-- The operations of a stream, in order (R257). -/
def Core.stream (c : Core) (stream : Fin 4) : List Entry :=
  if h : stream.val = 0 then c.stream0 else c.streams.get ⟨stream.val - 1, by omega⟩

/-- A team instruction of the matrix engine (R265). -/
def isTeamOp : Instr → Bool
  | .mmat _ _ _ | .mred _ _ _ => true
  | _ => false

/-- An operation at the head of its stream takes its wait, samples K and registers deferred spans (R259 to R261). It
then starts; a team instruction stands ready for its rendezvous first, and starts once that has formed. -/
def State.matStart (s : State) (a : Agent) (stream : Fin 4) (e : Entry) : Res State :=
  let c := s.getCore a
  let command := decide (stream.val ≠ 0)
  let begin_ (c : Core) (e : Entry) : Core :=
    c.putStream stream (if isTeamOp e.instr && !e.solo then { e with ready := true } else { e with started := true })
  if e.met then .ok (s.setCore (c.putStream stream { e with started := true }))
  else match e.instr with
  | .mma _ _ _ | .mmat _ _ _ =>
    let cw := e.cfg0
    if cwWEN cw ∧ ¬ c.reachedBy (cwEIDX cw) (cwWPAR cw) s.time then .wait
    else
      let s1 := if cwWEN cw then s.acquire a (s.wakeScope c (cwEIDX cw)) else s
      let kv := if cwKSV cw then (c.regs.sv.toList.getD (cwK cw % 32) 0).toNat else cwK cw
      if 65535 < kv then .bad fmtFlt
      else
        let spans := if deferredSpans command e then s.matSpans c e kv else []
        let xs := match s.partOf c e.instr cw kv with
          | some p => scratchOperands cw p e.ops.b e.ops.c
          | none => []
        (if deferredSpans command e then c.operandCarve xs else .ok ()).andThen fun _ =>
        if !c.lockRoom spans then .wait
        else .ok (s1.setCore (begin_ (c.addLocks e.tag spans) { e with k := kv }))
  | _ => .ok (s.setCore (begin_ c e))

/-! ## The tile fetch unit (R256) -/

/-- The lines of one set of a die's L2 that tile fetch units pin (R256). -/
def State.pinnedIn (s : State) (die pa : Nat) : Nat :=
  (s.pins.filter fun p => p.1 == die && l2Set (p.2 * 128) == l2Set pa && l2Slice (p.2 * 128) == l2Slice pa).length

/-- Bytes of one line of an operand as a core's tile fetch unit reads them. The line is pinned in its L2 set until the
arrays that need it have read it, which the unit's answer, multicast to all of them, lets them do at once; a fetch that
would pin a third line of a set waits (R256). -/
def State.tileLine (s : State) (a : Agent) (va lineVa n : Nat) : Res (State × List Byte) :=
  let s0 := s.walked a (s.getCore a).asid va
  (s0.translate a (s0.getCore a).asid true .rd va).andThen fun (_, pa) =>
  (s0.reach pa (BitVec.ofNat 64 va)).andThen fun _ =>
  let die := dieOf a
  if 2 ≤ s0.pinnedIn die pa then .wait
  else
    (({ s0 with pins := (die, pa / 128) :: s0.pins } : State).engLine a (BitVec.ofNat 64 va) (pa - (va - lineVa)) n).andThen
    fun (s1, bs) => .ok ({ s1 with pins := s1.pins.filter fun p => p != (die, pa / 128) }, bs)

/-- An operand of L2 has a row in a line. -/
def Operand.inLine (x : Operand) (line : Nat) : Bool :=
  x.l2 && x.rows.any fun r => decide (r.1 < line * 128 + 128) && decide (line * 128 < r.1 + r.2.1)

/-- The operands of the part that a rank of a team computes. -/
def partOperands (e : Entry) (n rank : Nat) : List Operand :=
  let cw := e.cfg0
  match partMmat cw e.k n rank with
  | none => []
  | some p => [operandA cw (if cwLA cw then e.ops.b.toNat else fld e.ops.b 20 0) p,
               operandB cw (if cwLB cw then e.ops.c.toNat else fld e.ops.c 20 0) p]

/-- The member of lowest rank that needs a line of a team operation's operands. -/
def Team.fetcher (t : Team) (e : Entry) (line : Nat) : Option Agent :=
  ((List.range t.size).find? fun r => (partOperands e t.size r).any fun x => x.inLine line).map t.member

/-- The team that an operation belongs to, but for a part that runs alone (R273). -/
def State.teamOp (s : State) (c : Core) (e : Entry) : Option Team :=
  if isTeamOp e.instr && !e.solo then c.task.bind fun t => s.teamOf t.team else none

/-- A tile fetch unit holds a line for the other members of a team operation. -/
def State.holdLine (s : State) (l : TileLine) : State := { s with tileLines := s.tileLines ++ [l] }

/-- Bytes of an operand in L2. Of a team operation each line is fetched once, by the member of lowest rank that needs
it, and every member that needs it takes that line (R256). -/
def State.tileRead (s : State) (a : Agent) (e : Entry) (va n : Nat) : Res (State × List Byte) :=
  (lineParts va n).foldl (fun acc p => acc.andThen fun (s, bs) =>
    let line := p.1 / 128
    (match s.teamOp (s.getCore a) e with
    | none => s.tileLine a p.1 p.1 p.2
    | some t =>
      match s.tileLines.find? fun (l : TileLine) => l.team == t.id && l.seq == e.seq && l.line == line with
      | some l => .ok (s, (l.data.drop (p.1 % 128)).take p.2)
      | none =>
        (s.tileLine ((t.fetcher e line).getD a) p.1 (line * 128) 128).andThen fun (s1, data) =>
        .ok (s1.holdLine { team := t.id, seq := e.seq, line := line, data := data },
             (data.drop (p.1 % 128)).take p.2)).andThen fun (s1, b) => .ok (s1, bs ++ b)) (.ok (s, []))

/-- The rows of an operand as they are read: through the tile fetch unit, or from scratch (R255, R256). -/
def State.fetchRows (s : State) (a : Agent) (e : Entry) (x : Operand) : Res (State × List Nat) :=
  x.rows.foldl (fun acc r => acc.andThen fun (s, got) =>
    if x.l2 then (s.tileRead a e r.1 r.2.1).andThen fun (s1, bs) => .ok (s1, got ++ [natOfBytes bs])
    else .ok (s, got ++ [(s.getCore a).scratch.readNat r.1 r.2.1])) (.ok (s, []))

/-- A product as it completes: it reads its operands, computes, and writes its region (R263, R264). -/
def State.productRun (s : State) (a : Agent) (b : Acc) (e : Entry) : Res State :=
  let c := s.getCore a
  let cw := e.cfg0
  match s.partOf c e.instr cw e.k with
  | none => .ok s
  | some p =>
    let xa := operandA cw (if cwLA cw then e.ops.b.toNat else fld e.ops.b 20 0) p
    let xb := operandB cw (if cwLB cw then e.ops.c.toNat else fld e.ops.c 20 0) p
    (s.fetchRows a e xa).andThen fun (s1, ra) =>
    (s1.fetchRows a e xb).andThen fun (s2, rb) =>
    .ok (s2.modCore a fun c =>
      let (bank, fl) := product cw p (xa.tile ra) (xb.tile rb) (c.regs.acc.get b)
      (c.setBank b bank).flag fl)

/-- The lines held for a team operation go once no member has its part before it, but for parts that run alone (R256,
R273). -/
def State.dropTileLines (s : State) (c : Core) (e : Entry) : State :=
  match if isTeamOp e.instr then c.task.bind fun t => s.teamOf t.team else none with
  | none => s
  | some t =>
    if t.members.any fun a => (s.getCore a).entries.any fun x => isTeamOp x.instr && x.seq == e.seq && !x.solo then s
    else { s with tileLines := s.tileLines.filter fun (l : TileLine) => !(l.team == t.id && l.seq == e.seq) }

/-- The place of a member in its chain of `mred`, where it has one (R267). -/
def chainPlace (n len r : Nat) : Option Nat := if r < n / len * len then some (r % len) else none

/-- Send a bank to the next rank of a team, for its team instruction of the same number. -/
def State.sendBank (s : State) (a : Agent) (seq : Nat) (b : Bank) : State :=
  let c := s.getCore a
  match c.task.bind fun t => s.teamOf t.team with
  | none => s
  | some t => s.modCore (t.member (c.rank + 1)) fun d => { d with mredBanks := d.mredBanks ++ [(seq, b)] }

/-- A started operation completes: its effect, then its lease and its range locks end. A `mred` that adds waits for
its message (R267). -/
def State.matComplete (s : State) (a : Agent) (stream : Fin 4) (e : Entry) : Res State :=
  let finish (s : State) : State :=
    s.modCore a fun c => ((c.dropStream stream e.tag).endLease e.tag).freeLocks e.tag
  let c := s.getCore a
  match e.instr with
  | .mma b _ _ | .mmat b _ _ => (s.productRun a b e).andThen fun s1 => .ok ((finish s1).dropTileLines c e)
  | .mzero b => .ok (finish (s.setCore (c.setBank b zeroBank)))
  | .mld b _ => .ok (finish (s.setCore (c.setBank b (c.loadBank (fld e.ops.b 20 0)))))
  | .mst f r b _ => .ok (finish (s.setCore (c.storeBank f r b (fld e.ops.b 20 0))))
  | .amov d b col =>
    if (c.entries.takeWhile fun x => x.tag != e.tag).any fun x => unitOf x.instr == 1 then .wait
    else .ok (finish (s.setCore (c.setV d (columnOf (c.regs.acc.get b) col))))
  | .mred i32 b len =>
    let n := s.teamSize c
    match chainPlace n len c.rank with
    | none => .ok (finish s)
    | some 0 => .ok (finish (if 1 < len then s.sendBank a e.seq (c.regs.acc.get b) else s))
    | some (q + 1) =>
      match c.mredBanks.find? fun m => m.1 == e.seq with
      | none => .wait
      | some (_, got) =>
        let (bank, fl) := combine i32 got (c.regs.acc.get b)
        let c1 := { (c.setBank b bank).flag fl with mredBanks := c.mredBanks.filter fun m => m.1 != e.seq }
        let s1 := s.setCore c1
        .ok (finish (if q + 2 < len then s1.sendBank a e.seq bank else s1))
  | .mrg _ => .ok (s.modCore a fun c => c.dropStream stream e.tag)
  | _ => .ok (finish s)

end Sys2Proof.Machine
end

