-- ==== Sys2Proof/Machine/VecUnit.lean ====
section
/-! DEFINITION. What a vector instruction does when it runs (08_vector.md, R195 to R226; heap selection, R301 to R307):
functions of one core, given the entry with its captured operands, VCFG and AWIN. The global accesses of vldg and vstg
are in GlobalMem. -/

namespace Sys2Proof.Machine

/-! ## Types and elements (R195) -/

/-- The width of a vector type. -/
def vwidth : VType → Nat
  | .i8 => 8 | .i16 => 16 | .i32 => 32 | .i64 => 64 | .bf16 => 16 | .fp16 => 16 | .fp32 => 32

/-- The floating format of a vector type. -/
def vfloat : VType → Option FpFmt
  | .bf16 => some Machine.bf16 | .fp16 => some Machine.fp16 | .fp32 => some Machine.fp32 | _ => none

/-- The type and governing mask of a captured VCFG (R196). -/
def cfgType (cfg : Word) : VType := (VType.ofCode (fld cfg 2 0)).getD .i8
def cfgMask (cfg : Word) : MReg := ⟨fld cfg 6 4 % 8, Nat.mod_lt _ (by decide)⟩

/-- Element i of width w. -/
def elAt (v : VecReg) (w i : Nat) : Nat := bitsAt v.toNat (w * i) w

/-- A register of elements of width w. -/
def vecOf (w : Nat) (xs : List Nat) : VecReg := BitVec.ofNat 2048 (packFields w xs)

/-- Element i is active under a mask (R88). -/
def activeAt (m : MaskReg) (w i : Nat) : Bool := m.getLsbD (i * w / 8)

/-- The elements of a register. -/
def elems (v : VecReg) (w : Nat) : List Nat := (List.range (2048 / w)).map (elAt v w)

/-- The union of a list of flags. -/
def orFlags (fs : List Flags) : Flags := fs.foldl (fun a b => a ||| b) 0

/-- Each active element takes a new value; the others keep theirs (R198). -/
def mapEl (w : Nat) (m : MaskReg) (old : VecReg) (f : Nat → Nat × Flags) : VecReg × Flags :=
  let rs := (List.range (2048 / w)).map fun i => if activeAt m w i then f i else (elAt old w i, 0)
  (vecOf w (rs.map Prod.fst), orFlags (rs.map Prod.snd))

/-- A value taken modulo 2^w. -/
def wrapN (w : Nat) (v : Int) : Nat := (v % (2 ^ w : Int)).toNat

/-- A floating result rounded once, with NV where it is a new NaN (R70, R72). -/
def roundFl (f : FpFmt) (xs : List Num) (r : Num) : Nat × Flags :=
  let (p, fl) := f.encode .rne r
  (p, fl ||| nvFlag xs r)

/-- Division at width w (R128, R213). -/
def divN (x y : Int) : Int := if y = 0 then -1 else x.tdiv y

/-- A two-input table over the bits of two patterns, chosen bit by bit by a third (R125, R214). -/
def bmuxN (w lo hi x y s : Nat) : Nat :=
  (List.range w).foldl (fun acc k =>
    let i := 2 * (x / 2 ^ k % 2) + y / 2 ^ k % 2
    let t := if s / 2 ^ k % 2 = 0 then lo else hi
    acc + t / 2 ^ i % 2 * 2 ^ k) 0

/-- Set bits of a pattern, and the zero bits above its highest set bit. -/
def popN (w x : Nat) : Nat := ((List.range w).filter fun k => x / 2 ^ k % 2 == 1).length
def clzN (w x : Nat) : Nat := if x = 0 then w else w - 1 - x.log2

/-- A vector instruction's effect on its core: the core, and the value of vext and vred. -/
abbrev VOut := Res (Core × Option Word)

/-- Write a vector register and the flags. -/
def Core.vdone (c : Core) (d : VReg) (r : VecReg × Flags) : VOut := .ok ((c.setV d r.1).flag r.2, none)

/-- A masked element operation of two registers, by kind (R213, R214): the functions get the element's old value too.
-/
def Core.vop (c : Core) (cfg : Word) (d a b : VReg) (fi : Nat → Nat → Nat → Nat → Int)
    (ff : Num → Num → Num → Num) (operands : Num → Num → Num → List Num) : VOut :=
  let t := cfgType cfg
  let w := vwidth t
  let va := c.regs.v.get a
  let vb := c.regs.v.get b
  let vd := c.regs.v.get d
  c.vdone d (mapEl w (c.getF (cfgMask cfg)) vd fun i =>
    let x := elAt va w i
    let y := elAt vb w i
    let z := elAt vd w i
    match vfloat t with
    | none => (wrapN w (fi w x y z), 0)
    | some f => roundFl f (operands (f.decode x) (f.decode y) (f.decode z)) (ff (f.decode x) (f.decode y) (f.decode z)))

/-- An element operation of two patterns, of every type (R199). -/
def Core.vpat (c : Core) (cfg : Word) (d a b : VReg) (fi : Nat → Nat → Nat → Nat → Nat) : VOut :=
  let w := vwidth (cfgType cfg)
  let va := c.regs.v.get a
  let vb := c.regs.v.get b
  let vd := c.regs.v.get d
  c.vdone d (mapEl w (c.getF (cfgMask cfg)) vd fun i => (fi w (elAt va w i) (elAt vb w i) (elAt vd w i) % 2 ^ w, 0))

/-- A floating function of one register (R215). -/
def Core.vfun (c : Core) (cfg : Word) (d a : VReg) (f : Num → Num) : VOut :=
  let t := cfgType cfg
  let w := vwidth t
  let va := c.regs.v.get a
  c.vdone d (mapEl w (c.getF (cfgMask cfg)) (c.regs.v.get d) fun i =>
    match vfloat t with
    | none => (elAt va w i, 0)
    | some g => roundFl g [g.decode (elAt va w i)] (f (g.decode (elAt va w i))))

/-- A compare into a mask register (R216). -/
def Core.vcmp (c : Core) (cfg : Word) (fd : MReg) (a b : VReg) (fi : Int → Int → Bool) (ff : Num → Num → Bool) : VOut :=
  let t := cfgType cfg
  let w := vwidth t
  let m := c.getF (cfgMask cfg)
  let bits := (List.range 256).map fun k =>
    let i := 8 * k / w
    let x := elAt (c.regs.v.get a) w i
    let y := elAt (c.regs.v.get b) w i
    let r := match vfloat t with
      | none => fi (signedOf w x) (signedOf w y)
      | some f => ff (f.decode x) (f.decode y)
    if activeAt m w i && r then 1 else 0
  .ok (c.setF fd (BitVec.ofNat 256 (packFields 1 bits)), none)

/-! ## Reduction (R220) -/

/-- The result of vred. DEDUCED: log entry 44. -/
def vredValue (op : RedOp) (t : VType) (xs : List Nat) : Word × Flags :=
  let w := vwidth t
  match vfloat t with
  | none =>
    let vs := xs.map (signedOf w)
    let r : Int := match op with
      | .add => vs.foldl (fun a b => a + b) 0
      | .min => vs.foldl (fun a b => Min.min a b) (2 ^ (w - 1) - 1)
      | .max => vs.foldl (fun a b => Max.max a b) (-(2 ^ (w - 1)))
    (BitVec.ofInt 64 r, 0)
  | some f =>
    let vs := xs.map f.decode
    match vs with
    | [] => (match op with | .add => 0 | .min => 0x7F800000 | .max => 0xFF800000, 0)
    | v :: rest =>
      match op with
      | .add =>
        let (acc, fl) := rest.foldl (fun (p : Word32 × Flags) e =>
          let (q, g) := addF32 p.1 (rne32 e).1
          (q, p.2 ||| g)) ((rne32 v).1, 0)
        (acc.setWidth 64, fl)
      | .min => ((rne32 (rest.foldl Num.min v)).1.setWidth 64, 0)
      | .max => ((rne32 (rest.foldl Num.max v)).1.setWidth 64, 0)

/-! ## Conversions and windows (R222 to R224, R75) -/

/-- Draw from vector generator i (R65, R68). -/
def Gens.drawVec (g : Gens) (i : Nat) : Gens × Nat :=
  if h : i < 64 then
    let (st, u) := genStep (g.vec.get ⟨i, h⟩)
    ({ g with vec := g.vec.set i st h }, u)
  else (g, 0)

/-- The rounding modes of a run of elements: under sr the elements that `sel` picks draw, in ascending order, each from
the generator of its lane. -/
def Gens.modes (g : Gens) (r : Rnd) (n : Nat) (lane : Nat → Nat) (sel : Nat → Bool) : Gens × List RMode :=
  (List.range n).foldl (fun (p : Gens × List RMode) i =>
    if r = .sr ∧ sel i = true then
      let (g1, u) := p.1.drawVec (lane i)
      (g1, p.2 ++ [rmode r u])
    else (p.1, p.2 ++ [rmode r 0])) (g, [])

/-- Replace the low n bits of a register. -/
def lowBits (v : VecReg) (n x : Nat) : VecReg := BitVec.ofNat 2048 (v.toNat / 2 ^ n * 2 ^ n + x % 2 ^ n)

/-- vcvt (R222). -/
def Core.vcvt (c : Core) (cfg : Word) (f g : CFmt) (r : Rnd) (d a : VReg) : VOut :=
  let fe := cfmtEl f
  let ge := cfmtEl g
  let block := fe.isBlock || ge.isBlock
  let xs := fe.decode 64 (c.regs.v.get a).toNat
  let m := c.getF (cfgMask cfg)
  let sel (i : Nat) : Bool := block || m.getLsbD (4 * i)
  let (gens, modes) := c.gens.modes r 64 id sel
  let c1 := { c with gens := gens }
  let old := c.regs.v.get d
  if block then
    let (x, fl) := ge.encode modes xs
    .ok ((c1.setV d (lowBits old (ge.extent 64) x)).flag fl, none)
  else
    let w := ge.unit.2
    let rs := (List.range 64).map fun i =>
      if sel i then ge.encodeUnit [modes.getD i .rne] [xs.getD i (.fin false 0 0)] else (bitsAt old.toNat (w * i) w, 0)
    .ok ((c1.setV d (lowBits old (64 * w) (packFields w (rs.map Prod.fst)))).flag (orFlags (rs.map Prod.snd)), none)

/-- The stored form of a vector type. -/
def vtypeEl (t : VType) : ElFmt :=
  match vfloat t with
  | some f => .fp f
  | none => .int (vwidth t)

/-- The lane whose generator element i of width w draws from (R68). -/
def laneOf (w i : Nat) : Nat := i * w / 32

/-- The stored format of a captured AWIN (R75). -/
def awinEl (aw : Word) : ElFmt := fmtEl ((Fmt.ofCode (fld aw 3 0)).getD .bf16)

/-- A window that moves bytes unchanged (R75). -/
def rawWindow (t : VType) (f : ElFmt) : Bool :=
  match t, f with
  | .fp32, .fp g => g == Machine.fp32
  | .i32, .int 32 => true
  | _, _ => false

/-- The elements, bytes and alignment of a vector local access (R223). -/
def vspan (t : VType) (win : Nat) (aw : Word) : Nat × Nat × Nat :=
  let w := vwidth t
  if win = 0 then (2048 / w, 256, w / 8)
  else
    let f := awinEl aw
    let n := min (2048 / w) 64
    let unit := f.unit.2 / 8
    (n, f.extent n / 8, unit)

/-- The issue checks of vld and vst (R223). -/
def Core.vlocalCheck (c : Core) (t : VType) (aw addr : Word) (store : Bool) : Res Unit :=
  let o := fld addr 20 0
  let (_, size, align) := vspan t (fld addr 23 21) aw
  if fld addr 63 24 ≠ 0 then .bad { code := .carve, detail := addr }
  else if o % align ≠ 0 then .bad { code := .align, detail := addr }
  else if c.top < o + size then .bad { code := .carve, detail := addr }
  else if store ∧ c.constOff o then .bad { code := .carve, detail := addr }
  else if c.rangeLocked false o size store then .bad { code := .rangelock, detail := addr }
  else .ok ()

/-- vld as it runs (R224). -/
def Core.vld (c : Core) (cfg aw addr : Word) (d : VReg) : VOut :=
  let t := cfgType cfg
  let w := vwidth t
  let m := c.getF (cfgMask cfg)
  let o := fld addr 20 0
  let win := fld addr 23 21
  let (n, size, _) := vspan t win aw
  let raw := c.scratch.readNat o size
  let f := awinEl aw
  let old := c.regs.v.get d
  if win = 0 ∨ rawWindow t f then
    c.vdone d (mapEl w m old fun i => if i < n then (bitsAt raw (w * i) w, 0) else (elAt old w i, 0))
  else
    let xs := f.decode n raw
    let mk := if f.isBlock then BitVec.allOnes 256 else m
    c.vdone d (mapEl w mk old fun i =>
      if i < n then (vtypeEl t).encodeUnit [.rne] [xs.getD i (.fin false 0 0)] else (elAt old w i, 0))

/-- Store the units of a list that have a value, each of k bytes, one after another. -/
def Core.storeUnits (c : Core) (o k : Nat) (xs : List (Option Nat)) : Core :=
  (List.range xs.length).foldl (fun c i => match xs.getD i none with
    | some x => c.storeLocal (o + k * i) (bytesOfNat k x)
    | none => c) c

/-- vst as it runs (R224). -/
def Core.vst (c : Core) (cfg aw addr : Word) (a : VReg) : VOut :=
  let t := cfgType cfg
  let w := vwidth t
  let m := c.getF (cfgMask cfg)
  let o := fld addr 20 0
  let win := fld addr 23 21
  let (n, _, _) := vspan t win aw
  let v := c.regs.v.get a
  let f := awinEl aw
  if win = 0 ∨ rawWindow t f then
    .ok (c.storeUnits o (w / 8) ((List.range n).map fun i => if activeAt m w i then some (elAt v w i) else none), none)
  else
    let r := (Rnd.ofCode (fld aw 5 4)).getD .rne
    let sel (i : Nat) : Bool := f.isBlock || activeAt m w i
    let (gens, modes) := c.gens.modes r n (laneOf w) sel
    let c1 := { c with gens := gens }
    let xs := (List.range n).map fun i => match (vtypeEl t).decodeUnit (elAt v w i) with
      | x :: _ => x
      | [] => .fin false 0 0
    if f.isBlock then
      let (x, fl) := f.encode modes xs
      .ok ((c1.storeLocal o (bytesOfNat (f.extent n / 8) x)).flag fl, none)
    else
      let rs := (List.range n).map fun i =>
        if sel i then (some (f.encodeUnit [modes.getD i .rne] [xs.getD i (.fin false 0 0)])) else none
      .ok ((c1.storeUnits o (f.unit.2 / 8) (rs.map fun r => r.map Prod.fst)).flag
        (orFlags (rs.filterMap fun r => r.map Prod.snd)), none)

/-! ## Gather and scatter (R226) -/

/-- The issue checks of vgath and vscat. -/
def vgatherCheck (t : VType) (base : Word) : Res Unit :=
  if fld base 63 24 ≠ 0 then .bad { code := .carve, detail := base }
  else if fld base 20 0 % (vwidth t / 8) ≠ 0 then .bad { code := .align, detail := base }
  else .ok ()

/-- The addresses of the active elements, each checked when the instruction runs (R210, R226). -/
def Core.vgatherAddrs (c : Core) (cfg base : Word) (idx : VReg) (store : Bool) : Res (List (Nat × Nat)) :=
  let w := vwidth (cfgType cfg)
  let n := min (2048 / w) 64
  let m := c.getF (cfgMask cfg)
  ((List.range n).filter (activeAt m w)).foldl (fun acc i => acc.andThen fun xs =>
    let a := fld base 20 0 + elAt (c.regs.v.get idx) 32 i * (w / 8)
    if c.top < a + w / 8 ∨ (store ∧ c.constOff a) then .bad (flt .carve a)
    else if c.rangeLocked false a (w / 8) store then .bad (flt .rangelock a)
    else .ok (xs ++ [(i, a)])) (.ok [])

/-- vgath as it runs. -/
def Core.vgath (c : Core) (cfg base : Word) (d idx : VReg) : VOut :=
  let w := vwidth (cfgType cfg)
  (c.vgatherAddrs cfg base idx false).andThen fun as =>
  let old := c.regs.v.get d
  c.vdone d (vecOf w ((List.range (2048 / w)).map fun i =>
    match as.find? fun p => p.1 == i with
    | some (_, a) => c.scratch.readNat a (w / 8)
    | none => elAt old w i), 0)

/-- vscat as it runs: in ascending order, so that the highest element stays. -/
def Core.vscat (c : Core) (cfg base : Word) (a idx : VReg) : VOut :=
  let w := vwidth (cfgType cfg)
  (c.vgatherAddrs cfg base idx true).andThen fun as =>
  .ok (as.foldl (fun c p => c.storeLocal p.2 (bytesOfNat (w / 8) (elAt (c.regs.v.get a) w p.1))) c, none)

/-! ## Heap selection (R301 to R307) -/

/-- An entry of a heap: score and id. -/
abbrev HeapEntry := Word32 × Word32

/-- The sentinel id, and the sentinel entry (R301). -/
def noId : Word32 := 0xFFFFFFFF
def sentinel : HeapEntry := (0xFF800000, noId)

/-- a ranks above b (R302). -/
def ranksAbove (a b : HeapEntry) : Bool :=
  (num32 b.1).lt (num32 a.1) || ((num32 a.1).eq (num32 b.1) && decide (a.2 < b.2))

/-- Sift a candidate down from place j of a heap (R306). -/
def siftDown (h : List HeapEntry) (k : Nat) (c : HeapEntry) : Nat → Nat → List HeapEntry
  | 0, j => h.set j c
  | fuel + 1, j =>
    let l := 2 * j + 1
    let r := 2 * j + 2
    if k ≤ l then h.set j c
    else
      let m := if r < k && ranksAbove (h.getD l sentinel) (h.getD r sentinel) then r else l
      if ranksAbove c (h.getD m sentinel) then siftDown (h.set j (h.getD m sentinel)) k c fuel m else h.set j c

/-- The heap after a candidate that is not NaN (R306). -/
def heapInsert (h : List HeapEntry) (k : Nat) (c : HeapEntry) : List HeapEntry :=
  if ranksAbove c (h.getD 0 sentinel) then siftDown h k c k 0 else h

/-- Insert into a list in sorted order (R302). Of two entries that rank equal and differ in bits (scores -0 and +0, one
id) the one inserted later stands after. DESIGN CHOICE: log entry 73. -/
def sortInsert (x : HeapEntry) : List HeapEntry → List HeapEntry
  | [] => [x]
  | y :: t => if ranksAbove x y then x :: y :: t else y :: sortInsert x t

/-- Sorted order: descending, sentinels last; a sentinel keeps its score (R301). -/
def heapSort (h : List HeapEntry) : List HeapEntry :=
  let sorted (es : List HeapEntry) : List HeapEntry := es.foldl (fun acc e => sortInsert e acc) []
  sorted (h.filter fun e => e.2 != noId) ++ sorted (h.filter fun e => e.2 == noId)

/-- Scores for the real entries of a heap, in place (R307). -/
def putScores : List HeapEntry → List Word32 → List HeapEntry
  | e :: t, w :: ws => if e.2 = noId then e :: putScores t (w :: ws) else (w, e.2) :: putScores t ws
  | h, _ => h

/-- The gate weights of the real entries of a sorted heap (R307). -/
def weightsOf (real : List HeapEntry) : List Word32 :=
  let n := real.length
  let isInf (e : HeapEntry) : Bool := num32 e.1 == .inf false
  let ninf := (real.filter isInf).length
  let one (k : Nat) : Word32 := (rne32 ((Num.ofInt 1).div (Num.ofInt k))).1
  match real with
  | [] => []
  | top :: _ =>
    if 0 < ninf then real.map fun e => if isInf e then one ninf else 0
    else if num32 top.1 = .inf true then real.map fun _ => one n
    else
      let es := real.map fun e =>
        let t := (rne32 (((num32 e.1).add (num32 top.1).neg).mul (num32 0x3FB8AA3B))).1
        (rne32 (num32 t).exp2).1
      let sum := (es.drop 1).foldl (fun s e => (addF32 s e).1) (es.getD 0 0)
      es.map fun e => (rne32 ((num32 e).div (num32 sum))).1

/-- A sorted heap with gate weights for the scores of its real entries (R307). -/
def gateWeights (h : List HeapEntry) : List HeapEntry := putScores h (weightsOf (h.filter fun e => e.2 != noId))

/-- A heap block as read: K, STATE, SM, NANM, and its 64 heaps, as the clear of R303 leaves them. -/
structure HeapBlock where
  k : Nat
  state : Nat
  sm : Bool
  nanm : Word
  heaps : List (List HeapEntry)
deriving DecidableEq, Repr

/-- The header of a block meets R301. -/
def headerOk (h : Word) : Bool :=
  let k := fld h 7 0
  1 ≤ k && k ≤ 16 && fld h 15 8 ≤ 2 && fld h 63 17 == 0

/-- The entries of a heap of K entries at an offset. -/
def readHeap (m : Memory) (o k : Nat) : List HeapEntry :=
  (List.range k).map fun j => (BitVec.ofNat 32 (m.readNat (o + 8 * j) 4), BitVec.ofNat 32 (m.readNat (o + 8 * j + 4) 4))

/-- The checks of R305 and the block; RANGELOCK alone has a detail, the access address (R168, R431). `sorted` tells
whether STATE 1 is allowed. -/
def Core.heapBlock (c : Core) (addr : Word) (sorted : Bool) : Res (Nat × HeapBlock) :=
  let o := fld addr 20 0
  let detail := addr &&& 0xFFFFFF
  if o % 16 ≠ 0 then .bad { code := .align }
  else if c.top < o + 16 ∨ o < 0x800 then .bad { code := .carve }
  else
    let h := c.scratch.word o
    let k := fld h 7 0
    if !headerOk h ∨ (fld h 15 8 = 1 ∧ !sorted) then .bad { code := .format }
    else if c.top < o + 16 + 512 * k then .bad { code := .carve }
    else if c.rangeLocked false o (16 + 512 * k) true then .bad { code := .rangelock, detail := detail }
    else if fld h 15 8 = 2 then
      .ok (o, { k := k, state := 0, sm := h.getLsbD 16, nanm := 0
                heaps := List.replicate 64 (List.replicate k sentinel) })
    else .ok (o, { k := k, state := fld h 15 8, sm := h.getLsbD 16, nanm := c.scratch.word (o + 8)
                   heaps := (List.range 64).map fun i => readHeap c.scratch (o + 16 + 8 * k * i) k })

/-- Write a block back. -/
def Core.putBlock (c : Core) (o : Nat) (b : HeapBlock) : Core :=
  let head := BitVec.ofNat 64 (b.k + 256 * b.state + 65536 * (if b.sm then 1 else 0))
  c.storeLocal o (bytesOfWords64 [head, b.nanm] ++
    b.heaps.flatMap fun h => h.flatMap fun e => bytesOfNat 4 e.1.toNat ++ bytesOfNat 4 e.2.toNat)

/-- A candidate for heap i of a block; a NaN score only sets NANM (R306). -/
def HeapBlock.insert (b : HeapBlock) (i : Nat) (score : Word32) (id : Word32) : HeapBlock :=
  if (num32 score).isNan then { b with nanm := b.nanm ||| BitVec.ofNat 64 (2 ^ i) }
  else { b with heaps := b.heaps.set i (heapInsert (b.heaps.getD i []) b.k (score, id)) }

/-- hsift as it runs. -/
def Core.hsift (c : Core) (heap score id : Word) : VOut :=
  (c.heapBlock (heap &&& 0xFFFFFF) false).andThen fun (o, b) =>
  .ok (c.putBlock o (b.insert (fld heap 29 24) (score.setWidth 32) (id.setWidth 32)), none)

/-- vhsift as it runs: every lane whose mask bit 4i is set. -/
def Core.vhsift (c : Core) (cfg block : Word) (v : VReg) (id : Word) : VOut :=
  (c.heapBlock block false).andThen fun (o, b) =>
  let m := c.getF (cfgMask cfg)
  .ok (c.putBlock o ((List.range 64).foldl (fun b i =>
    if m.getLsbD (4 * i) then b.insert i (BitVec.ofNat 32 (elAt (c.regs.v.get v) 32 i)) (id.setWidth 32) else b) b), none)

/-- hsort as it runs (R307). -/
def Core.hsort (c : Core) (block : Word) : VOut :=
  (c.heapBlock block true).andThen fun (o, b) =>
  let sorted := if b.state = 1 then b.heaps else b.heaps.map heapSort
  let wsm := block.getLsbD 24 && !b.sm
  .ok (c.putBlock o { b with state := 1, sm := b.sm || wsm, heaps := if wsm then sorted.map gateWeights else sorted },
    none)

/-! ## The instructions -/

/-- What a vector instruction other than vldg and vstg does when it runs, from its entry. -/
def Core.vecRun (c : Core) (e : Entry) : VOut :=
  let cfg := e.cfg0
  let aw := e.cfg1
  let t := cfgType cfg
  let w := vwidth t
  let s (x : Nat) : Int := signedOf w x
  match e.instr with
  | .vadd d a b => c.vop cfg d a b (fun _ x y _ => s x + s y) (fun x y _ => x.add y) fun x y _ => [x, y]
  | .vsub d a b => c.vop cfg d a b (fun _ x y _ => s x - s y) (fun x y _ => x.add y.neg) fun x y _ => [x, y]
  | .vmul d a b => c.vop cfg d a b (fun _ x y _ => s x * s y) (fun x y _ => x.mul y) fun x y _ => [x, y]
  | .vmulh d a b => c.vpat cfg d a b fun w x y _ => wrapN w (s x * s y / 2 ^ w)
  | .vfma d a b => c.vop cfg d a b (fun _ x y z => s x * s y + s z) (fun x y z => (x.mul y).add z) fun x y z => [x, y, z]
  | .vdiv d a b => c.vop cfg d a b (fun _ x y _ => divN (s x) (s y)) (fun x y _ => x.div y) fun x y _ => [x, y]
  | .vsqrt d a => c.vfun cfg d a Num.sqrt
  | .vrcp d a => c.vfun cfg d a fun x => (Num.ofInt 1).div x
  | .vrsq d a => c.vfun cfg d a Num.rsqrt
  | .vexp2 d a => c.vfun cfg d a Num.exp2
  | .vlog2 d a => c.vfun cfg d a Num.log2
  | .vmin d a b => c.vop cfg d a b (fun _ x y _ => Min.min (s x) (s y)) (fun x y _ => x.min y) fun x y _ => [x, y]
  | .vmax d a b => c.vop cfg d a b (fun _ x y _ => Max.max (s x) (s y)) (fun x y _ => x.max y) fun x y _ => [x, y]
  | .vabs d a => c.vpat cfg d a a fun w x _ _ =>
      match vfloat t with
      | none => wrapN w (s x).natAbs
      | some f => if (f.decode x).isNan then f.nan else x % 2 ^ (w - 1)
  | .vand d a b => c.vpat cfg d a b fun _ x y _ => Nat.land x y
  | .vor d a b => c.vpat cfg d a b fun _ x y _ => Nat.lor x y
  | .vxor d a b => c.vpat cfg d a b fun _ x y _ => Nat.xor x y
  | .vbmux d a b lo hi => c.vpat cfg d a b fun w x y z => bmuxN w lo.val hi.val x y z
  | .vshl d a b => c.vpat cfg d a b fun w x y _ => x * 2 ^ (y % w)
  | .vshr d a b => c.vpat cfg d a b fun w x y _ => x / 2 ^ (y % w)
  | .vsra d a b => c.vpat cfg d a b fun w x y _ => wrapN w (s x / 2 ^ (y % w))
  | .vfshl d a b n => c.vpat cfg d a b fun w x y _ => (x * 2 ^ w + y) * 2 ^ (n.val % w) / 2 ^ w
  | .vfshr d a b n => c.vpat cfg d a b fun w x y _ => (x * 2 ^ w + y) / 2 ^ (n.val % w)
  | .vpopc d a => c.vpat cfg d a a fun w x _ _ => popN w x
  | .vclz d a => c.vpat cfg d a a fun w x _ _ => clzN w x
  | .vceq fd a b => c.vcmp cfg fd a b (fun x y => decide (x = y)) Num.eq
  | .vclt fd a b => c.vcmp cfg fd a b (fun x y => decide (x < y)) Num.lt
  | .vcle fd a b => c.vcmp cfg fd a b (fun x y => decide (x ≤ y)) Num.le
  | .vsel d a b =>
    let m := c.getF (cfgMask cfg)
    .ok (c.setV d (vecOf w ((List.range (2048 / w)).map fun i =>
      elAt (c.regs.v.get (if activeAt m w i then a else b)) w i)), none)
  | .vsplat d _ => c.vpat cfg d d d fun _ _ _ _ => e.ops.b.toNat
  | .vext a _ =>
    let x := elAt (c.regs.v.get a) w (e.ops.b.toNat % (2048 / w))
    .ok (c, some (match vfloat t with | none => BitVec.ofInt 64 (s x) | some _ => BitVec.ofNat 64 x))
  | .vins d _ _ =>
    let k := e.ops.c.toNat % (2048 / w)
    let old := c.regs.v.get d
    .ok (c.setV d (vecOf w ((List.range (2048 / w)).map fun i => if i = k then e.ops.b.toNat % 2 ^ w else elAt old w i)),
      none)
  | .vperm d a idx => c.vpat cfg d a idx fun w _ y _ => elAt (c.regs.v.get a) w (y % (2048 / w))
  | .vslide d a _ =>
    let va := c.regs.v.get a
    c.vdone d (mapEl w (c.getF (cfgMask cfg)) (c.regs.v.get d) fun i =>
      let k : Int := i + e.ops.c.toInt
      (if 0 ≤ k ∧ k < (2048 / w : Nat) then elAt va w k.toNat else 0, 0))
  | .vred op a =>
    let m := c.getF (cfgMask cfg)
    let (v, fl) := vredValue op t (((List.range (2048 / w)).filter (activeAt m w)).map (elAt (c.regs.v.get a) w))
    .ok (c.flag fl, some v)
  | .vcvt f g r d a => c.vcvt cfg f g r d a
  | .vmask tbl fd fa fb =>
    .ok (c.setF fd (BitVec.ofNat 256 (bmuxN 256 tbl.val 0 (c.getF fa).toNat (c.getF fb).toNat 0)), none)
  | .vld d _ => c.vld cfg aw e.ops.b d
  | .vst a _ => c.vst cfg aw e.ops.b a
  | .vgath d _ idx => c.vgath cfg e.ops.b d idx
  | .vscat a _ idx => c.vscat cfg e.ops.b a idx
  | .hsift _ _ _ => c.hsift e.ops.a e.ops.b e.ops.c
  | .vhsift _ v _ => c.vhsift cfg e.ops.a v e.ops.c
  | .hsort _ => c.hsort e.ops.a
  | _ => .ok (c, none)

end Sys2Proof.Machine
end

