-- ==== Sys2Proof/Machine/Ops.lean ====
section
/-! DEFINITION. The operations that the meanings share: what an unfinished instruction does when it can, settling a
core, parking it and taking a fault (R388 to R394, R430, R431), aborting a transaction (R294), and the forms in which a
chain issues. -/

namespace Sys2Proof.Machine

/-! ## Completing an unfinished instruction -/

/-- The units of the core go on: it is not parked. What a halted core had issued still completes. -/
def Core.going (c : Core) : Bool :=
  match c.run with
  | .parked => false
  | _ => true

/-- The active elements of a vector instruction's type: index, and address from a base. -/
def Core.activeEls (c : Core) (cfg base : Word) : List (Nat × Nat) :=
  let w := vwidth (cfgType cfg)
  let m := c.getF (cfgMask cfg)
  ((List.range (2048 / w)).filter (activeAt m w)).map fun i => (i, base.toNat + i * (w / 8))

/-- vldg as it runs (R225): nothing is written where an element faults or the transaction has aborted. -/
def State.runVldg (s : State) (a : Agent) (e : Entry) (d : VReg) : Res State :=
  let c := s.getCore a
  let w := vwidth (cfgType e.cfg0)
  (s.vglobal a e.tx false (w / 8) ((c.activeEls e.cfg0 e.ops.b).map fun p => (p.1, p.2, []))).andThen fun (s1, got) =>
  if e.tx && !s1.txGoes a then .ok s1
  else .ok (s1.modCore a fun c =>
    let old := c.regs.v.get d
    let r := vecOf w ((List.range (2048 / w)).map fun i =>
      match got.find? fun p => p.1 == i with | some (_, b) => natOfBytes b | none => elAt old w i)
    ((c.setV d r).endLease e.tag).dropEntry e.tag)

/-- vstg as it runs (R225). -/
def State.runVstg (s : State) (a : Agent) (e : Entry) (v : VReg) : Res State :=
  let c := s.getCore a
  let w := vwidth (cfgType e.cfg0)
  let x := c.regs.v.get v
  (s.vglobal a e.tx true (w / 8)
    ((c.activeEls e.cfg0 e.ops.b).map fun p => (p.1, p.2, bytesOfNat (w / 8) (elAt x w p.1)))).andThen fun (s1, _) =>
  if e.tx && !s1.txGoes a then .ok s1 else .ok (s1.modCore a fun c => c.dropEntry e.tag)

/-- A vector access of global memory follows the core's earlier accesses; at a park or a halt it waits for none that
stays, so that the queue empties (R160, R211). -/
def Core.vectorBehind (c : Core) (tag : Nat) : Bool := decide (c.run ≠ .parked ∧ c.run ≠ .halted) && c.behind tag

/-- Arrays and lane groups issue nothing: a fallback is in force with FCAP = 0 (R423). -/
def State.issueHalted (s : State) : Bool := s.ports.tstat.getLsbD 62 && fld s.ports.psctl 63 48 == 0

/-- The head of a vector queue runs (R201, R205), at a park too. One that cannot run as the core parks, because a
fallback halts issue or its memory is not ready, stands in the frame with those behind it (R392, R415, R423). DEDUCED:
log entry 70. -/
def State.runVector (s : State) (a : Agent) (e : Entry) : Res State :=
  let c := s.getCore a
  if (c.vqueue.head?.map Entry.tag) ≠ some e.tag ∨ s.issueHalted then .wait
  else match e.instr with
  | .vldg d _ => if c.vectorBehind e.tag then .wait else s.runVldg a e d
  | .vstg v _ => if c.vectorBehind e.tag then .wait else s.runVstg a e v
  | .vld _ _ | .vgath _ _ _ => ((c.seen s.time).vecRun e).andThen fun (c1, _) =>
    .ok (s.setCore (({ c1 with scratch := c.scratch } : Core).dropEntry e.tag))
  | _ => (c.vecRun e).andThen fun (c1, v) =>
    .ok (s.setCore (match v with | some v => c1.finish e v | none => c1.dropEntry e.tag))

/-- The outstanding engine operations of a core, for a fence with `.e` (R183): the channel but for held copies, the
array streams, the merge, routing and exchange engines, and its flushes. -/
def State.enginesDone (s : State) (a : Agent) : Bool :=
  let c := s.getCore a
  c.chan.all (fun o => o.held || o.done) && c.streams.toList.all List.isEmpty && c.merge.isNone && c.walks.isEmpty
    && (s.die (dieOf a)).routes.all (fun o => o.who != a)
    && c.entries.all fun e => match e.instr with
      | .flush _ _ _ _ | .xsend _ _ _ | .xrecv _ _ | .rput _ _ _ | .rget _ _ => false
      | _ => unitOf e.instr != 2

/-- A fence's wait is over (R182, R183): the core's accesses are performed and have returned, a release at system
scope is acknowledged, and with `.e` its engines are done. -/
def State.fenceReady (s : State) (a : Agent) (kind : FenceKind) (sc : Scope) (e : Bool) : Bool :=
  (s.getCore a).accessesDone true && (kind == .acq || (s.release a sc).releaseDone sc) && (!e || s.enginesDone a)

/-- The effect of a fence as it completes. -/
def State.fenceRun (s : State) (a : Agent) (kind : FenceKind) (sc : Scope) : State :=
  let s1 := if kind = .acq then s else s.release a sc
  if kind = .rel then s1 else s1.acquire a sc

/-- The status doublewords of the core's latest routing, table and merge operation before a tag (R320): key 8 * tag + k,
with k 0 to 2 for a route, 3 for `rtbl`, 4 for a merge. -/
def Core.lastStat (c : Core) (tag k : Nat) : Word :=
  (c.rmstats.filter fun p => p.1 % 8 == k && decide (p.1 / 8 < tag)).foldl (fun acc p => if acc.1 ≤ p.1 then p else acc)
    ((0, 0) : Nat × Word) |>.2

/-- Every `route`, `rtbl`, `mrg` and `umrg` that the core issued before a tag has completed. -/
def State.routesBefore (s : State) (a : Agent) (tag : Nat) : Bool :=
  let c := s.getCore a
  (s.die (dieOf a)).routes.all (fun o => o.who != a || decide (tag < o.op.tag))
    && (match c.merge with | some m => decide (tag < m.tag) | none => true)
    && c.chan.all fun o => match o.instr with | .umrg _ => o.done || decide (tag < o.tag) | _ => true

/-- rmstat as it completes (R320). The record of an `rtbl` has bit 63 set, so that a core that issued none since its
launch shows no table. -/
def State.runRmstat (s : State) (a : Agent) (e : Entry) : Res State :=
  if !s.routesBefore a e.tag then .wait
  else
    let c := s.getCore a
    let last := c.lastStat e.tag 3
    let slot := fld last 22 19
    let launch := match c.task with | some t => t.launch | none => 0
    let ts := (s.die (dieOf a)).tables.filter fun t => t.launch == launch && t.slot == slot
    let w2 := if !last.getLsbD 63 then 0
      else match ts.find? fun t => !t.active, ts.find? fun t => t.active with
      | some t, _ => t.layer.toNat + 65536
      | none, some t => t.layer.toNat
      | none, none => 0
    let bs := bytesOfWords64 [c.lastStat e.tag 0, c.lastStat e.tag 1,
      BitVec.ofNat 64 (fld last 62 0) ||| BitVec.ofNat 64 w2, c.lastStat e.tag 4]
    .ok (s.setCore ((c.storeLocal (fld e.ops.a 20 0) bs).finish e (c.lastStat e.tag 2)))

/-- A thread's remote store into another core's scratch, in the order of its cycle (R139); none where it is refused. -/
def State.remoteStore (s : State) (a target : Agent) (o : Nat) (bs : List Byte) : Option State :=
  let t := s.getCore target
  if t.refuses o bs.length then none else some (s.setCore (t.landStore s.time (coreId a) o bs))

/-- A remote store lands at its target, or is refused (R355). DEDUCED: log entry 29. -/
def State.runRput (s : State) (a : Agent) (e : Entry) : Res State :=
  match e.instr with
  | .rput _ _ off =>
    let sh := e.ops.a + BitVec.ofInt 64 off
    match s.remoteStore a (.tile (fld e.ops.a 35 24)) (fld sh 20 0) (bytesOfNat 8 e.ops.b.toNat) with
    | some s1 => .ok (s1.modCore a fun c => c.putEntry { e with started := true })
    | none => .bad { code := .remote, detail := BitVec.ofNat 64 (fld e.ops.a 35 24 * 2 ^ 24 + fld sh 23 0) }
  | _ => .ok s

/-- An earlier remote store of the core to the same target has not landed (R356). -/
def Core.rputBefore (c : Core) (tag target : Nat) : Bool :=
  (c.entries.takeWhile fun e => e.tag != tag).any fun e =>
    match e.instr with | .rput _ _ _ => !e.started && fld e.ops.a 35 24 == target | _ => false

/-- A remote load reads its target; it is refused only for the carve (R355). DEDUCED: log entry 29. -/
def State.runRget (s : State) (a : Agent) (e : Entry) : Res State :=
  let t := s.getCore (.tile (fld e.ops.b 35 24))
  let o := fld e.ops.b 20 0
  if t.top < o + 8 then .bad { code := .remote, detail := BitVec.ofNat 64 (fld e.ops.b 35 0) }
  else .ok (s.modCore a fun c => c.finish e ((t.seen s.time).scratch.word o))

/-- Every access of the core to local memory but its remote stores has taken effect: those of its vector queue come late
(R201, R206, R308), and its remote loads have read (R355). -/
def Core.localsDone (c : Core) : Bool :=
  !c.entries.any fun e => match e.instr with
    | .vld _ _ | .vst _ _ | .vgath _ _ _ | .vscat _ _ _ | .hsift _ _ _ | .vhsift _ _ _ | .hsort _ => true
    | .rget _ _ => !e.ready
    | _ => false

/-- An earlier vector access of the queue holds a scalar local access, `einit` or `eexp` of n bytes at an offset: a
`vld` or `vst` that overlaps it, or any instruction whose bytes are known only when it runs (R106, R206, R308). -/
def Core.vectorHolds (c : Core) (o n : Nat) : Bool :=
  c.entries.any fun e =>
    let span (addr : Word) : Bool :=
      let (_, size, _) := vspan (cfgType e.cfg0) (fld addr 23 21) e.cfg1
      o < fld addr 20 0 + size && fld addr 20 0 < o + n
    match e.instr with
    | .vld _ _ | .vst _ _ => span e.ops.b
    | .vgath _ _ _ | .vscat _ _ _ | .hsift _ _ _ | .vhsift _ _ _ | .hsort _ => true
    | _ => false

/-- What an unfinished instruction has done before the fault that it meets: a flush has flushed the lines walked
(R188). -/
def State.beforeFault (s : State) (a : Agent) (e : Entry) : State :=
  match e.instr with
  | .flush kind lvl _ _ => (s.flushRun a kind lvl e.ops.a e.ops.b).1
  | _ => s

/-- An unfinished instruction goes as far as it can without any chain yet to issue. A matrix operation that has not
started stays in its stream, and the array runs on (R275). -/
def State.attempt (s : State) (a : Agent) (e : Entry) : Res State :=
  let c := s.getCore a
  match e.instr with
  | .flush kind lvl _ _ =>
    if c.behind e.tag then .wait
    else match s.flushRun a kind lvl e.ops.a e.ops.b with
      | (s1, .ok _) => .ok (s1.modCore a fun c => c.dropEntry e.tag)
      | (_, .bad f) => .bad f
      | (_, .wait) => .wait
  | .rput _ _ _ =>
    if e.started then .ok (s.modCore a fun c => c.dropEntry e.tag)
    else if c.rputBefore e.tag (fld e.ops.a 35 24) then .wait
    else (s.runRput a e).andThen fun s1 => .ok (s1.modCore a fun c => c.dropEntry e.tag)
  | .rget _ _ => if c.rputBefore e.tag (fld e.ops.b 35 24) then .wait else s.runRget a e
  | .rmstat _ => s.runRmstat a e
  | i =>
    if unitOf i = 1 then s.runVector a e
    else if unitOf i = 2 then .wait
    else if e.ready then .ok (s.modCore a fun c => c.finish e e.result)
    else if e.isAccess then
      if c.behind e.tag then .wait
      else match i with
      | .stg _ rel sc _ _ _ =>
        if rel && !e.tx && !(s.release a sc).releaseDone sc then .wait else s.perform1 a true e
      | _ => (s.perform1 a true e).andThen fun s1 =>
        match (s1.getCore a).entry e.tag with
        | some e1 => .ok (if e1.ready then s1.modCore a fun c => c.finish e1 e1.result else s1)
        | none => .ok s1
    else .wait

/-- Settle a core: each unfinished instruction, in issue order, completes or stays; the tags of those that fault
(R392). -/
def State.settle (s : State) (a : Agent) : List Nat → State × List Nat
  | [] => (s, [])
  | tag :: rest =>
    match (s.getCore a).entry tag with
    | none => s.settle a rest
    | some e =>
      if !(s.getCore a).unfinished e then s.settle a rest
      else match s.attempt a e with
      | .ok s1 => s1.settle a rest
      | .wait => s.settle a rest
      | .bad _ =>
        let (s1, bad) := (s.beforeFault a e).settle a rest
        (s1, tag :: bad)

/-! ## Aborting a transaction (R293, R294) -/

/-- TXSTAT after an abort (R295). -/
def txstatAbort (cause other code held depth : Nat) : Word :=
  BitVec.ofNat 64 (other * 2 ^ 36 + code * 2 ^ 24 + held * 2 ^ 16 + depth * 2 ^ 12 + cause)

/-- The held copies of a core, in id order. -/
def Core.heldCopies (c : Core) : List EngOp := c.chan.filter fun o => o.held && !o.done

/-- A held copy is cancelled: it counts down all the same, and a command's lease ends (R293). -/
def State.cancelHeld (s : State) (a : Agent) (op : EngOp) : State :=
  (s.completeCopy a op 1 0).modCore a fun c => c.endLease op.tag

/-- The transaction of a core aborts, in the order of R294; an interrupt waits for the fallback's first chain (R296). -/
def State.abortTx (s : State) (a : Agent) (cause other code : Nat) : State :=
  let t := (s.getCore a).tx
  let held := (s.getCore a).heldCopies
  let s1 := s.modCore a fun c => { c with tx := {} }
  let s2 := held.foldl (fun s op => s.cancelHeld a op) s1
  let st := txstatAbort cause other code held.length t.depth
  s2.modCore a fun c =>
    let gone := (c.entries.filter Entry.tx).map Entry.tag
    let c1 := { c with
      entries := c.entries.filter fun e => !e.tx
      leases := c.leases.filter fun l => !gone.contains l.own
      regs := { c.regs with train := t.train, k := t.k, m := t.m, sv := t.sv }
      csr := { c.csr with txstat := st }
      run := .running, pc := t.fallback, nextPc := t.fallback, stalling := false, stallCounted := false
      stageId := none, uiReady := false }
    c1.push st

/-- Record a fault of a transaction (R294, R295). -/
def Core.noteTxFault (c : Core) (addr : Word) (f : Flt) : Core :=
  { c with csr := { c.csr with
      txfault := BitVec.ofNat 64 (f.code.num * 2 ^ 56) ||| (f.detail &&& 0xFFFFFFFFFFFFF)
      txfpc := addr &&& 0xFFFFFFFFFFFFF } }

/-- The instructions of the transaction among faulting entries go with its abort: their fault is not delivered (R294).
One that was issued before `tbegin` stays and meets its fault outside. DEDUCED: log entry 43. -/
def Core.dropFaulty (c : Core) (late : List Nat) : Core :=
  (late.filter fun t => decide (c.tx.since ≤ t)).foldl (fun c t => ((c.dropEntry t).endLease t).freeLocks t) c

/-! ## Parking and halting (R392 to R394, R430) -/

/-- A supervisor core halts: its message goes into its die's mailbox, and host vector 1 + d is raised (R430).
DEDUCED: log entries 35, 38. -/
def State.halt (s : State) (a : Agent) (code : Code) (detail resume : Word) : State :=
  let die := dieOf a
  let m := (s.getCore a).message kindPark code.num false (detail &&& 0xFFFFFFFFFFFFF) resume
  let d := s.die die
  let s1 := s.setDie (if d.mailbox.length < 256 then { d with mailbox := d.mailbox ++ [m] }
                      else { d with rows := d.rows ++ [m] })
  (s1.modCore a fun c => { c with run := .halted, fetched := [] }).raise (1 + die)

/-- An instruction that holds its core enters the replay queue; a releasing store stands there already.
DEDUCED: log entry 11. -/
def Core.unhold (c : Core) (tag : Nat) : Core :=
  match c.run with
  | .held i ops =>
    match i with
    | .stg _ _ _ _ _ _ => c
    | _ => { c with entries := c.entries ++ [{ tag := tag, instr := i, addr := c.pc, ops := ops }] }
  | _ => c

/-- The resume address of a core that parks between chains: after a chain that holds it, else its chain (R45).
DEDUCED: log entry 11. -/
def Core.resume (c : Core) : Word := match c.run with | .held _ _ => c.nextPc | _ => c.pc

/-- Mark the oldest faulting entry; a faulting team part runs alone from now on, and a faulting operation has not
started (R273, R392). -/
def Core.markFaults (c : Core) (bad : List Nat) : Core :=
  { c with entries := c.entries.map fun e =>
      { e with
        flt := bad.head? == some e.tag
        started := e.started && !bad.contains e.tag
        stuck := e.stuck || bad.contains e.tag
        solo := e.solo || (bad.contains e.tag && isTeamOp e.instr) } }

/-- A core parks (R392): what can complete completes, the frame is recorded, and the park message is posted. `late`
names faulting entries that settling does not try again. -/
def State.park (s : State) (a : Agent) (f : Flt) (resume : Word) (dec : Option Word) (post : Bool) (late : List Nat) :
    State :=
  let s0 := { s with serial := s.serial + 1 }.modCore a fun c => { c.unhold s.serial with
      run := .parked, stalling := false, stallCounted := false, stageId := none, fetched := [] }
  let (s1, bad) := s0.settle a (((s0.getCore a).entries.map Entry.tag).filter fun t => !late.contains t)
  let aux := if f.code = .poison then f.aux else resume
  let s2 := s1.modCore a fun c =>
    let faulty := ((c.entries.map Entry.tag).filter fun t => bad.contains t || late.contains t)
    { (c.markFaults faulty) with
      frame := { code := f.code, dec := dec.isSome, mal := f.mal, resume := resume, detail := f.detail
                 next := dec.getD 0, aux := aux } }
  if post then
    s2.post (dieOf a) ((s2.getCore a).message kindPark f.code.num f.mal (f.detail &&& 0xFFFFFFFFFFFFF) aux)
  else s2

/-- A supervisor core's fault halts it (R430). Its vector queue empties first, and its earlier accesses are performed
(R211); entries that fault, then or later, are gone, since nothing replays them. DEDUCED: log entry 35. -/
def State.haltAt (s : State) (a : Agent) (f : Flt) (resume : Word) (late : List Nat) : State :=
  let drop (s : State) (ts : List Nat) : State := s.modCore a fun c =>
    ts.foldl (fun c t => ((c.dropEntry t).endLease t).freeLocks t) c
  if (s.getCore a).run = .halted then drop s late
  else
    let s0 := (drop s late).modCore a fun c => { c with run := .halted, stalling := false, stallCounted := false, stageId := none }
    let (s1, bad) := s0.settle a ((s0.getCore a).entries.map Entry.tag)
    (drop s1 bad).halt a f.code f.detail resume

/-- A fault of an agent, for the chain at an address: inside a transaction a FAULT abort (R294), on a supervisor core a
halt (R430), of a parked core an entry of its frame, else a park. `late` names the entries that faulted. -/
def State.faultAt (s : State) (a : Agent) (addr : Word) (f : Flt) (resume : Word) (dec : Option Word) (late : List Nat) :
    State :=
  let c := s.getCore a
  if 0 < c.tx.depth then (s.setCore ((c.noteTxFault addr f).dropFaulty late)).abortTx a 5 0 0
  else if c.isSup then s.haltAt a f resume late
  else if c.run = .parked then
    let old := (c.entries.filter Entry.flt).map Entry.tag
    s.setCore (c.markFaults ((c.entries.map Entry.tag).filter fun t => old.contains t || late.contains t))
  else s.park a f resume dec true late

/-- Take an exception: the focal core's chain faults, with its own address as the resume address (R45, R388). -/
def State.trap (s : State) (f : Flt) : State := s.faultAt s.core.who s.core.pc f s.core.pc none []

/-- Take an exception after the chain, as `brk` and `svc` do (R115). -/
def State.trapAfter (s : State) (f : Flt) : State := s.faultAt s.core.who s.core.pc f s.core.nextPc none []

/-- Take a decode exception: the offending word is the detail, and NEXT is where mode skip resumes (R45, R51, R52). -/
def State.trapDecode (s : State) (code : Code) (word next : Word) : State :=
  s.faultAt s.core.who s.core.pc { code := code, detail := word } s.core.pc (some next) []

/-- A fault that an unfinished instruction of an agent meets (R175, R210, R273). -/
def State.trapEntry (s : State) (a : Agent) (tag : Nat) (f : Flt) : State :=
  let c := s.getCore a
  s.faultAt a (match c.entry tag with | some e => e.addr | none => c.pc) f c.resume none [tag]

/-- A disallowed instruction of a transaction: FAULT with code 0x00 (R283, R294). DEDUCED: log entry 43. -/
def State.disallow (s : State) : State :=
  (s.setCore (s.core.noteTxFault s.core.pc { code := .none })).abortTx s.core.who 5 0 0

/-! ## How a chain issues -/

/-- A check passes, stalls the chain, or traps. -/
def State.check {α : Type} (s : State) (r : Res α) (k : α → Out) : Out :=
  match r with
  | .ok x => k x
  | .wait => s.stall
  | .bad f => .next (s.trap f)

/-- A chain that a user-level interrupt handler may not issue (R112). -/
def State.notInHandler (s : State) (k : Out) : Out :=
  if s.core.inHandler then .next (s.trap { code := .priv }) else k

/-- A chain that is disallowed inside a transaction (R283). DEDUCED: log entry 43. -/
def State.notInTx (s : State) (k : Out) : Out := if 0 < s.core.tx.depth then .next s.disallow else k

/-- A chain that the supervisor core, which belongs to no team, may not issue (R430). DEDUCED: log entry 34. -/
def State.inTeam (s : State) (k : Out) : Out :=
  if s.core.isSup then .next (s.trap { code := .team }) else k

/-- A supervisor-only chain (R49). DEDUCED: log entry 43. -/
def State.supOnly (s : State) (k : Out) : Out :=
  if s.core.isSup then k else .next (s.trap { code := .priv })

/-- A chain whose operands are read, whose registers are checked, and which goes on with its operands. -/
def State.issue (s : State) (xs : List Src) (names : List LeaseReg) (k : Out) : Out :=
  s.check (s.core.ready xs names) fun _ => k

/-- A chain that computes one scalar result (R116). -/
def State.compute (s : State) (xs : List Src) (f : Core → Word) : Out :=
  s.issue xs (namesOf xs) (.next (s.result (f s.core)))

/-- A new unfinished instruction of the focal core; with `tr` it fills a train position (R83). -/
def State.enter (s : State) (e : Entry) : State :=
  let c := s.core
  let c1 := if e.tr then c.pushPending s.serial else c
  { s with serial := s.serial + 1
           core := { c1 with entries := c1.entries ++
             [{ e with tag := s.serial, addr := c.pc, shadow := c.inHandler, placed := s.serial, tx := e.isAccess && decide (0 < c.tx.depth) }] } }

/-- Every earlier vector access of the core, local or global, has been performed, and so have its global accesses: the
issue of an engine operation waits for them (R163, R208). -/
def Core.engineReady (c : Core) : Bool :=
  !c.entries.any fun e => e.unperformed || match e.instr with
    | .vld _ _ | .vst _ _ | .vgath _ _ _ | .vscat _ _ _ | .hsift _ _ _ | .vhsift _ _ _ | .hsort _ => true
    | _ => false

/-- Perform what can be performed of the focal core's accesses, and take the fault that one of them meets. -/
def State.settleAccesses (s : State) (a : Agent) : State :=
  match s.drain a with
  | (s1, none) => s1
  | (s1, some (tag, f)) => s1.trapEntry a tag f

/-- A core waits at a blocking point: its chain is not retired (R112). DEDUCED: log entry 11. -/
def State.block (s : State) (b : Block) : State := { s with core := { s.core with run := .blocked b } }

/-- A chain holds its core until a completion of its own. DEDUCED: log entry 11. -/
def State.hold (s : State) (i : Instr) (ops : Ops) : State := { s with core := { s.core with run := .held i ops } }

/-- A core goes on after the chain that blocked or held it. -/
def Core.wake (c : Core) : Core := ({ c with run := .running } : Core).retire

/-- A held copy of the commit is released: the copies of `tend` (R287, R293). -/
def Core.releaseHeld (c : Core) (op : EngOp) : Core :=
  let c1 := c.addLocks op.tag op.spans
  { c1 with chan := c1.chan.map fun o => if o.id == op.id then { o with held := false } else o }

end Sys2Proof.Machine
end

