-- ==== Sys2Proof/Machine/Control.lean ====
section
/-! DEFINITION. Branches, escapement instructions, blocking points, `end`, `brk` and `svc` (R104 to R115), and the steps
that land values and wake threads. `yield` is in Context, `chime` and `chimex` in Exchange. -/

namespace Sys2Proof.Machine

/-- The chain retires and control goes elsewhere. -/
def State.jump (s : State) (pc : Word) : State := { s with core := { s.core.retire with pc := pc } }

/-- A branch target: an offset in halfwords from the word after the chain (R43). Where it lies at or above 2^52 the
program counter keeps all its bits, and the fetch there raises XLATE. DESIGN CHOICE: log entry 66. -/
def Core.target (c : Core) (off : Int) : Word := c.nextPc + BitVec.ofInt 64 (2 * off)

def execBr (off : Int) (s : State) : Out := .next (s.jump (s.core.target off))

def execBz (x : Src) (off : Int) (s : State) : Out :=
  s.issue [x] (namesOf [x]) (.next (if s.core.value x = 0 then s.jump (s.core.target off) else s.retire))

def execBnz (x : Src) (off : Int) (s : State) : Out :=
  s.issue [x] (namesOf [x]) (.next (if s.core.value x ≠ 0 then s.jump (s.core.target off) else s.retire))

def execCall (off : Int) (s : State) : Out :=
  s.issue [] [.scalar (.k 15)] (.next ({ s with core := s.core.setK 15 s.core.nextPc }.jump (s.core.target off)))

def execJr (x : Src) (s : State) : Out :=
  s.issue [x] (namesOf [x])
    (let v := s.core.value x
     .next (if v.getLsbD 0 then s.trap { code := .align } else s.jump v))

def execDbnz (k : Fin 16) (off : Int) (s : State) : Out :=
  s.issue [] [.scalar (.k k)]
    (let v := s.core.getK k - 1
     let s1 := { s with core := s.core.setK k v }
     .next (if v ≠ 0 then s1.jump (s.core.target off) else s1.retire))

/-! ## Escapements (R99 to R103, R106, R107) -/

/-- An own escapement of an instruction: its reference, then its reserved bits (R99, R100). -/
def State.ownEsc (s : State) (x : Word) : Res Nat :=
  (s.escRef x true).andThen fun (_, e) => (s.core.escFormat e).andThen fun _ => .ok e

/-- A wake from an escapement, or the completion at once: an acquire under R103, after the earlier loads (R155). -/
def State.ewaitDone (s : State) (e : Nat) : State := s.acquire s.core.who (s.wakeScope s.core e)

/-- The focal core's blocking chain need not block: it is done once its acquire can take effect, and is no blocking
point meanwhile (R107, R108, R155). -/
def State.acquireThen (s : State) (b : Block) (done : State) : State :=
  if s.core.loadsBack then done.retire else { s with core := { s.core with run := .waking b } }

def execEwait (x : Src) (s : State) : Out :=
  s.notInHandler (s.notInTx (s.issue [x] (namesOf [x])
    (s.check (s.ownEsc (s.core.value x)) fun e =>
      let par := fld (s.core.value x) 63 60
      .next (if s.core.reachedBy e par s.time then s.acquireThen (.ewait e par) (s.ewaitDone e)
             else s.block (.ewait e par)))))

/-- The scope of an arrival's release (R103). -/
def arrivalScope (from_ to_ : Agent) : Scope :=
  match from_, to_ with
  | .tile a, .tile b =>
    if clusterOf a = clusterOf b then .cl else if dieOf from_ = dieOf to_ then .die else .pkg
  | _, _ => if from_ = to_ then .cl else if dieOf from_ = dieOf to_ then .die else .pkg

/-- A remote store that a core issued before a tag has not landed (R103, R356). -/
def Core.rputUnlanded (c : Core) (tag : Nat) : Bool :=
  c.entries.any fun e => match e.instr with | .rput _ _ _ => !e.started && decide (e.tag < tag) | _ => false

/-- n arrivals: on the own escapement at once, on another core's as an arrival on its way (R101, R103). -/
def State.sendArrivals (s : State) (to_ : Agent) (e n : Nat) (sc : Scope) : State :=
  if to_ = s.core.who then
    { s with core := s.core.arrive e s.time placeOwn n }
  else
    { s with
      serial := s.serial + 1
      arrivals := s.arrivals ++ [{ n := s.serial, from_ := agentKey s.core.who, core := agentKey to_, off := e
                                   count := n, bytes := 0, scope := sc }] }

/-- `earr` and `earrn`: a release, then the arrivals. Earlier local and global accesses, reads too, are performed
first; in a transaction, registered (R103, R156, R283). The reference is checked before the value, and the reserved
bits of an own escapement once the queued local accesses to it have run (R95, R100, R106). DESIGN CHOICE: log entry
73. Earlier remote stores land before an arrival: those on another core's escapement wait on their way, one on the own
at its issue (R166, R356). -/
def State.arriveAt (s : State) (x : Word) (n : Word) : Out :=
  s.check (s.escRef x false) fun (to_, e) =>
  if 0xFFFFFFFF < n.toNat then .next (s.trap fmtFlt)
  else if to_ = s.core.who ∧ s.core.vectorHolds (escOff e) 16 then s.stall
  else
  s.check (if to_ = s.core.who then s.core.escFormat e else .ok ()) fun _ =>
  if n = 0 then .next s.retire
  else if !s.core.accessesDone false ∨ !s.core.localsDone then s.stall
  else if to_ = s.core.who ∧ s.core.rputUnlanded s.serial then s.stall
  else
    let sc := arrivalScope s.core.who to_
    .next ((s.release s.core.who sc).sendArrivals to_ e n.toNat sc).retire

def execEarr (x : Src) (s : State) : Out := s.issue [x] (namesOf [x]) (s.arriveAt (s.core.value x) 1)

def execEarrn (x n : Src) (s : State) : Out :=
  s.issue [x, n] (namesOf [x, n]) (s.arriveAt (s.core.value x) (s.core.value n))

/-- `einit`: the reference is checked before the value (R100, R106). DESIGN CHOICE: log entry 73. -/
def execEinit (x n : Src) (s : State) : Out :=
  s.issue [x, n] (namesOf [x, n])
    (s.check (s.escRef (s.core.value x) true) fun (_, e) =>
      let v := s.core.value n
      if 0xFFFFFFFF < v.toNat then .next (s.trap fmtFlt)
      else if s.core.vectorHolds (escOff e) 16 then s.stall
      else
        let c := s.core.storeLocal (escOff e) (bytesOfNat 4 v.toNat ++ bytesOfNat 4 v.toNat ++ bytesOfNat 8 0)
        .next { s with core := ({ c with escScopes := c.escScopes.filter fun p => p.1 != e } : Core).retire })

/-- `eexp`: the reference is checked before the value, and the reserved bits once the queued local accesses to the
escapement have run (R95, R100, R106). DESIGN CHOICE: log entry 73. -/
def execEexp (x bytes : Src) (s : State) : Out :=
  s.issue [x, bytes] (namesOf [x, bytes])
    (s.check (s.escRef (s.core.value x) true) fun (_, e) =>
      let v := (s.core.value bytes).toInt
      if v < -(2 ^ 31) ∨ 2 ^ 31 ≤ v then .next (s.trap fmtFlt)
      else if s.core.vectorHolds (escOff e) 16 then s.stall
      else s.check (s.core.escFormat e) fun _ => .next { s with core := (s.core.bytesOn e s.time v).retire })

/-- What `etest` pushes (R106). -/
def Core.escValue (c : Core) (e : Nat) : Word :=
  let x := c.esc e
  BitVec.ofNat 64 (x.ph * 2 ^ 60 + min x.arr (2 ^ 28 - 1) * 2 ^ 32) ||| BitVec.setWidth 64 (BitVec.ofInt 32 x.byt)

def execEtest (x : Src) (s : State) : Out :=
  s.issue [x] (namesOf [x])
    (s.check (s.ownEsc (s.core.value x)) fun e =>
      if !s.core.entryRoom then s.stall
      else .next (s.enter
        { tag := 0, instr := .etest x, addr := 0, ops := { a := s.core.value x }, tr := true, ready := true
          result := s.core.escValue e, due := some (s.time + 4) }).retire)

/-! ## Other blocking points (R108, R109, R113, R115) -/

/-- The id has not been issued by the channel (R108). -/
def Core.notIssued (c : Core) (id : Word32) : Bool := 2 ^ 31 ≤ (c.csr.xnext - 1 - id).toNat

/-- The watermark has passed an id (R108). -/
def Core.passed (c : Core) (id : Word32) : Bool :=
  let d := (c.csr.xdone - id).toNat
  1 ≤ d && d < 2 ^ 31

/-- The acquire of an `await`: the scope of the operation of that id. -/
def State.awaitDone (s : State) (a : Agent) (id : Word32) : State :=
  match (s.getCore a).idScopes.find? fun p => p.1 == id.toNat with
  | some (_, sc) => s.acquire a sc
  | none => s

def execAwait (x : Src) (s : State) : Out :=
  s.notInHandler (s.notInTx (s.issue [x] (namesOf [x])
    (let id : Word32 := (s.core.value x).setWidth 32
     .next (if s.core.notIssued id then s.retire
            else if s.core.passed id then s.acquireThen (.await id) (s.awaitDone s.core.who id)
            else s.block (.await id)))))

def execWlease (r : LeaseReg) (s : State) : Out :=
  s.notInHandler (.next (if s.core.leased r then s.block (.wlease r) else s.retire))

/-- `end` (R113): the vector queue empties first (R211); on the supervisor core it halts (R430).
DEDUCED: log entry 35. -/
def execEnd (s : State) : Out :=
  s.notInHandler (s.notInTx
    (if !s.core.vqueue.isEmpty then s.stall
     else if s.core.isSup then .next (s.halt s.core.who .none 0 s.core.pc)
     else .next { s with core := { s.core with run := .ended, stallCounted := false } }))

def execBrk (n : Nat) (s : State) : Out := .next (s.trapAfter (flt .brk n))

def execSvc (n : Nat) (s : State) : Out := .next (s.trapAfter (flt .svc n))

/-! ## Steps: values that land and threads that wake -/

/-- PENDING_ARRIVAL: the value of `lld` or `etest` lands 4 ck after the issue (R83). -/
def execPendingArrival (a : Agent) (tag : Nat) (s : State) : Out :=
  match (s.getCore a).entry tag with
  | some e => match e.due with
    | some t => if t ≤ s.time + 1 then .next (s.modCore a fun c => c.finish e e.result) else .next s
    | none => .next s
  | none => .next s

/-- A blocked chain whose wake has come goes on once its acquire can take effect; it is no blocking point meanwhile
(R107, R108, R155). -/
def State.wakeWith (s : State) (a : Agent) (b : Block) (done : State) : State :=
  if (s.getCore a).loadsBack then done.modCore a Core.wake else s.modCore a fun c => { c with run := .waking b }

/-- EWAIT_WAKE: the phase has reached the value that a blocked `ewait` waits for (R107). -/
def execEwaitWake (a : Agent) (s : State) : Out :=
  let c := s.getCore a
  let done (e : Nat) : State := s.acquire a (s.wakeScope c e)
  match c.run with
  | .blocked (.ewait e par) => .next (if c.reachedBy e par s.time then s.wakeWith a (.ewait e par) (done e) else s)
  | .waking (.ewait e par) => .next (s.wakeWith a (.ewait e par) (done e))
  | _ => .next s

/-- AWAIT_WAKE (R108). -/
def execAwaitWake (a : Agent) (s : State) : Out :=
  let c := s.getCore a
  match c.run with
  | .blocked (.await id) => .next (if c.passed id then s.wakeWith a (.await id) (s.awaitDone a id) else s)
  | .waking (.await id) => .next (s.wakeWith a (.await id) (s.awaitDone a id))
  | _ => .next s

/-- WLEASE_WAKE (R109). -/
def execWleaseWake (a : Agent) (s : State) : Out :=
  let c := s.getCore a
  match c.run with
  | .blocked (.wlease r) => if c.leased r then .next s else .next (s.modCore a Core.wake)
  | _ => .next s

/-- MWAIT_WAKE (R272). -/
def execMwaitWake (a : Agent) (s : State) : Out :=
  let c := s.getCore a
  match c.run with
  | .blocked (.mwait b) => if c.leased (.acc b) then .next s else .next (s.modCore a Core.wake)
  | _ => .next s

/-- The agent of a key. -/
def agentOf (k : Nat) : Agent := if k % 2 = 1 then .sup (k / 2) else .tile (k / 2)

/-- The next arrival on its way whose sender's earlier remote stores have landed. -/
def State.arrivalReady (s : State) (r : Arrival) : Bool := !(s.getCore (agentOf r.from_)).rputUnlanded r.n

/-- REMOTE_ARRIVAL: an arrival lands on its escapement (R101, R103). -/
def execRemoteArrival (n : Nat) (s : State) : Out :=
  match s.arrivals.find? fun r => r.n == n with
  | none => .next s
  | some r =>
    if !s.arrivalReady r then .next s
    else
      let s1 := { s with arrivals := s.arrivals.filter fun x => x.n != n }
      .next (s1.modCore (agentOf r.core) fun c => c.arrive r.off s1.time (placeCore (coreId (agentOf r.from_))) r.count)

/-- USER_LEVEL_INTERRUPT: the core enters its handler between chains (R45, R247). Its resume address is the next chain,
or its blocking chain, which executes again. Its acquire waits for the earlier loads (R155). -/
def execUserLevelInterrupt (a : Agent) (s : State) : Out :=
  let c := s.getCore a
  let between : Bool := match c.run with | .running => !c.stalling | .blocked _ => true | _ => false
  match c.flagged with
  | [] => .next s
  | (id, st, sc) :: rest =>
    if c.csr.uictl.getLsbD 63 ∧ !c.inHandler ∧ c.uiReady ∧ between ∧ c.tx.depth = 0 ∧ c.loadsBack then
      let shadowK := (((Vector.replicate 8 0 : Vector Word 8).set 0 (id.setWidth 64)).set 1 st)
      let c1 := { c with
        run := .running
        flagged := rest
        stallCounted := false
        csr := { c.csr with uira := c.pc &&& 0xFFFFFFFFFFFFF, uictl := setFld c.csr.uictl 62 62 1 }
        regs := { c.regs with shadow := Vector.replicate 16 {}, shadowK := shadowK }
        pc := BitVec.ofNat 64 (c.csr.uihigh.toNat * 2 ^ 52 + fld c.csr.uictl 51 0) }
      .next ((s.setCore c1).acquire a sc)
    else .next s

end Sys2Proof.Machine
end

