-- ==== Sys2Proof/Machine/GlobalMem.lean ====
section
/-! DEFINITION. Page 2: global loads and stores, atomics, fences, flushes and hints (07_memory_ops.md, R172 to R191),
and the steps that complete them. -/

namespace Sys2Proof.Machine

/-- A translation that the cluster's micro-TLB holds is checked when the chain issues; every other comes after issue
(R175). A supervisor core translates nothing. -/
def State.hitCheck (s : State) (x : Access) : Res Unit :=
  let held : Bool := match s.core.who with
    | .tile id => (s.cluster (clusterOf id)).tlb.any fun t => t.covers s.core.asid x.ea.toNat
    | .sup _ => true
  match if held then s.translateTx s.core.who s.core.asid false (0 < s.core.tx.depth) x.kind x.ea.toNat else .wait with
  | .bad f => .bad f
  | _ => .ok ()

/-- A new entry whose destination register, where it has one, is leased until it completes (R90). -/
def State.enterLeased (s : State) (e : Entry) (lease : Option LeaseReg) : State :=
  let s1 := s.enter e
  match lease with
  | some r => { s1 with core := s1.core.lease r s.serial }
  | none => s1

/-- A global access issues: the checks of R174 up to RANGELOCK, the translation where it is held, then its entry, which
is performed in program order. -/
def State.access (s : State) (i : Instr) (ops : Ops) (tr : Bool) (lease : Option LeaseReg) : Out :=
  match accessOf i ops with
  | none => .next s
  | some x =>
    s.check (s.core.accessCheck x) fun _ =>
    s.check (s.hitCheck x) fun _ =>
    if !s.core.entryRoom then s.stall
    else
      let s1 := s.enterLeased { tag := 0, instr := i, addr := 0, ops := ops, tr := tr } lease
      if x.rel ∧ s.core.tx.depth = 0 then .next (s1.hold i ops)
      else .next (s1.retire.settleAccesses s.core.who)

def execLdg (w : Width) (acq : Bool) (sc : Scope) (d : Dst) (addr : Src) (off : Int) (s : State) : Out :=
  s.issue [addr] (nameDst d :: namesOf [addr])
    (s.access (.ldg w acq sc d addr off) { a := BitVec.ofNat 64 d.code, b := s.core.value addr } false (some (nameDst d)))

def execStg (w : StWidth) (rel : Bool) (sc : Scope) (addr val : Src) (off : Int) (s : State) : Out :=
  s.issue [addr, val] (namesOf [addr, val])
    (s.access (.stg w rel sc addr val off) { a := s.core.value addr, b := s.core.value val } false none)

def execAmoW (op : AmoOp) (sc : Scope) (addr val : Src) (s : State) : Out :=
  s.issue [addr, val] (namesOf [addr, val])
    (s.access (.amoW op sc addr val) { a := s.core.value addr, b := s.core.value val } true none)

def execAmoD (op : AmoOp) (sc : Scope) (addr val : Src) (s : State) : Out :=
  s.issue [addr, val] (namesOf [addr, val])
    (s.access (.amoD op sc addr val) { a := s.core.value addr, b := s.core.value val } true none)

def execCasW (sc : Scope) (addr expect new : Src) (s : State) : Out :=
  s.issue [addr, expect, new] (namesOf [addr, expect, new])
    (s.access (.casW sc addr expect new)
      { a := s.core.value addr, b := s.core.value expect, c := s.core.value new } true none)

def execCasD (sc : Scope) (addr expect new : Src) (s : State) : Out :=
  s.issue [addr, expect, new] (namesOf [addr, expect, new])
    (s.access (.casD sc addr expect new)
      { a := s.core.value addr, b := s.core.value expect, c := s.core.value new } true none)

/-- A fence holds every later chain until FENCE_COMPLETION (R182). -/
def execFence (kind : FenceKind) (sc : Scope) (e : Bool) (s : State) : Out :=
  if !s.core.entryRoom then s.stall else .next (s.hold (.fence kind sc e) {})

/-- `ifence` discards the words fetched ahead (R185, R430). -/
def execIfence (s : State) : Out :=
  s.notInTx (.next { s with core := ({ s.core with fetched := [] } : Core).retire })

/-- The flushes of a core in flight (R188). -/
def Core.flushes (c : Core) : Nat :=
  (c.entries.filter fun e => match e.instr with | .flush _ _ _ _ => true | _ => false).length

/-- The length of a flush: 0 to 2^32 (R187). -/
def flushLenOk (len : Word) : Bool := len.toNat ≤ 2 ^ 32

def execFlush (kind : FlushKind) (lvl : FlushLevel) (addr len : Src) (s : State) : Out :=
  s.notInTx (s.issue [addr, len] (namesOf [addr, len])
    (let c := s.core
     if !flushLenOk (c.value len) then .next (s.trap fmtFlt)
     else if 4 ≤ c.flushes ∨ !c.entryRoom then s.stall
     else .next (s.enter { tag := 0, instr := .flush kind lvl addr len, addr := 0
                           ops := { a := c.value addr, b := c.value len } }).retire))

/-- A leased operand register raises LEASE before the hint begins (R91, R191). DESIGN CHOICE: log entry 42. -/
def execPref (addr len : Src) (lvl : Fin 3) (s : State) : Out :=
  s.issue [addr, len] (namesOf [addr, len])
    (.next (s.prefRun s.core.who (s.core.value addr) (s.core.value len) lvl).retire)

/-- A leased operand register raises LEASE before the hint begins (R91, R191). DESIGN CHOICE: log entry 42. -/
def execResid (addr len : Src) (mode : Fin 3) (s : State) : Out :=
  s.issue [addr, len] (namesOf [addr, len])
    (.next (s.residRun s.core.who (s.core.value addr) (s.core.value len) mode).retire)

/-! ## Steps -/

/-- A step of an unfinished instruction: it goes on, or its core takes the fault. The entries of a parked core stay as
its frame holds them. -/
def State.entryStep (s : State) (a : Agent) (tag : Nat) (r : Res State) : Out :=
  if !(s.getCore a).going then .next s
  else match r with
  | .ok s1 => .next (s1.settleAccesses a)
  | .wait => .next s
  | .bad f => .next (s.trapEntry a tag f)

/-- The value of a performed access returns. -/
def State.returned (s : State) (a : Agent) (tag : Nat) : State :=
  match (s.getCore a).entry tag with
  | some e => if e.ready then s.modCore a fun c => c.finish e e.result else s
  | none => s

/-- GLOBAL_LOAD_RETURNS: the value of an `ldg` is written, its lease ends, and an acquire takes effect (R176).
DEDUCED: log entry 6. -/
def execGlobalLoadReturns (a : Agent) (tag : Nat) (s : State) : Out :=
  let c := s.getCore a
  match c.entry tag with
  | some e =>
    match e.instr with
    | .ldg _ _ _ _ _ _ =>
      if e.ready then .next ((s.returned a tag).settleAccesses a)
      else if c.behind tag ∨ !e.ownEvent then .next s
      else s.entryStep a tag ((s.perform1 a false e).andThen fun s1 => .ok (s1.returned a tag))
    | _ => .next s
  | none => .next s

/-- ATOMIC_COMPLETES: an `amo` or `cas` runs at the place its scope names, and its old value lands (R158, R179). -/
def execAtomicCompletes (a : Agent) (tag : Nat) (s : State) : Out :=
  let c := s.getCore a
  match c.entry tag with
  | some e =>
    match e.instr with
    | .amoW _ _ _ _ | .amoD _ _ _ _ | .casW _ _ _ _ | .casD _ _ _ _ =>
      if c.behind tag then .next s
      else s.entryStep a tag ((s.perform1 a false e).andThen fun s1 => .ok (s1.returned a tag))
    | _ => .next s
  | none => .next s

/-- PLOT_REGISTRATION: a transactional access that waits registers its plot at the home (R278, R284). -/
def execPlotRegistration (a : Agent) (tag : Nat) (s : State) : Out :=
  let c := s.getCore a
  match c.entry tag with
  | some e =>
    if !e.tx ∨ e.ready ∨ c.behind tag ∨ !c.txLive then .next s
    else match accessOf e.instr e.ops with
    | none => .next s
    | some x =>
      s.entryStep a tag ((s.translateTx a c.asid false true x.kind x.ea.toNat).andThen fun (_, pa) =>
        .ok (s.txEnter a x.ea.toNat pa
          (match deltaKind e.instr, x.kind with
            | some _, _ => { d := true }
            | none, .rd => { r := true }
            | none, .wr => { w := true }
            | none, _ => { r := true, w := true })))
  | none => .next s

/-- FENCE_COMPLETION (R182, R183): the write-backs of a release, and the invalidations that they cause, go out first
(R156). -/
def execFenceCompletion (a : Agent) (s : State) : Out :=
  match (s.getCore a).run with
  | .held (.fence kind sc e) _ =>
    let s1 := if (s.getCore a).accessesDone true ∧ kind ≠ .acq then s.release a sc else s
    if s1.fenceReady a kind sc e then .next ((s1.fenceRun a kind sc).modCore a Core.wake) else .next s1
  | _ => .next s

/-- FLUSH_WALK_COMPLETES (R188, R189). -/
def execFlushWalkCompletes (a : Agent) (tag : Nat) (s : State) : Out :=
  match (s.getCore a).entry tag with
  | some e =>
    match e.instr with
    | .flush _ _ _ _ =>
      let r := s.attempt a e
      let s1 := match r with | .bad _ => if (s.getCore a).going then s.beforeFault a e else s | _ => s
      s1.entryStep a tag r
    | _ => .next s
  | none => .next s

/-! ## Page-table walks (R398, R399) -/

/-- The address that a core's oldest unperformed access, or else its fetch, waits to have translated, and the tag of the
access. -/
def State.wanted (s : State) (a : Agent) : Option (Nat × Option Nat) :=
  let c := s.getCore a
  match a with
  | .sup _ => none
  | .tile id =>
    let missing (va : Nat) : Bool := (s.tlbFind (dieOf a) (clusterOf id) c.asid va).isNone && va < 2 ^ 52
    let access := if !c.going then none else match c.entries.find? Entry.unperformed with
      | none => none
      | some e => match accessOf e.instr e.ops with
        | some x => if missing x.ea.toNat then some (x.ea.toNat, some e.tag) else none
        | none => none
    match access with
    | some r => some r
    | none =>
      if c.run = .running then
        match s.fetchChain a with
        | .miss va => if missing va then some (va, none) else none
        | _ => none
      else none

/-- The cores of a die and address space that wait for a translation of one 64 KiB block. -/
def State.waiters (s : State) (die asid va : Nat) : List (Agent × Nat × Option Nat) :=
  (s.cores.filter fun c => dieOf c.who == die && c.asid == asid && c.task.isSome).filterMap fun c =>
    match s.wanted c.who with
    | some (w, tag) => if w / 65536 = va / 65536 then some (c.who, w, tag) else none
    | none => none

/-- PAGE_TABLE_WALK: a die's walker ends. Its translation serves every core that waits on the block; its fault parks
each of them (R398, R399). -/
def execPageTableWalk (die asid va : Nat) (s : State) : Out :=
  let ws := s.waiters die asid va
  match ws with
  | [] => .next s
  | _ =>
    let s := s.walkTo die asid va
    match s.walk die asid va with
    | .wait => .next s
    | .ok t =>
      let d := s.die die
      let s1 := s.setDie { d with tlb := fillTlb 8192 t d.tlb }
      let s2 := ws.foldl (fun s w =>
        match w.1 with
        | .tile id =>
          let c := s.cluster (clusterOf id)
          s.setCluster { c with tlb := fillTlb 64 t c.tlb }
        | .sup _ => s) s1
      .next (ws.foldl (fun s w => s.settleAccesses w.1) s2)
    | .bad f =>
      .next (ws.foldl (fun s w =>
        let g := { f with detail := BitVec.ofNat 64 w.2.1 }
        match w.2.2 with
        | some tag => s.trapEntry w.1 tag g
        | none => s.faultAt w.1 (s.getCore w.1).pc g (s.getCore w.1).pc none []) s)

end Sys2Proof.Machine
end

