-- ==== Sys2Proof/Machine/Vector.lean ====
section
/-! DEFINITION. Page 3 and the heap instructions of page 7 (08_vector.md, R197 to R226; R304 to R308), and the step that
runs the head of a vector queue. -/

namespace Sys2Proof.Machine

/-- The code of a vector register, as a captured operand that is not read. -/
def vcode (v : VReg) : Word := BitVec.ofNat 64 v.val

/-- The code of a mask register that is written (R34). -/
def fdCode (f : MReg) : Word := BitVec.ofNat 64 (0x20 + f.val)

/-- A vector register as a name. -/
def nameV (v : VReg) : LeaseReg := .vec v

/-- A vector instruction as it issues. -/
structure VIssue where
  instr : Instr
  /-- the scalar fields it reads -/
  xs : List Src := []
  /-- the registers it names, in field order -/
  names : List LeaseReg
  ops : Ops
  /-- the checks at issue -/
  pre : Res Unit := .ok ()
  cfg1 : Word := 0
  /-- it pushes a pending position -/
  tr : Bool := false
  lease : Option LeaseReg := none

/-- A vector chain issues (R200): its checks, then its place in the core's queue of 16. TYPE and MSK are captured
(R197). DEDUCED: log entry 36. -/
def State.vissue (s : State) (v : VIssue) : Out :=
  s.issue v.xs v.names
    (s.check v.pre fun _ =>
      if 16 ≤ s.core.vqueue.length ∨ !s.core.entryRoom then s.stall
      else .next (s.enterLeased
        { tag := 0, instr := v.instr, addr := 0, ops := v.ops, cfg0 := s.core.csr.vcfg, cfg1 := v.cfg1, tr := v.tr }
        v.lease).retire)

/-- The current vector type. -/
def Core.vtype (c : Core) : VType := cfgType c.csr.vcfg

/-- An integer type, or FORMAT (R199). -/
def Core.needInt (c : Core) : Res Unit := Res.unless (vfloat c.vtype).isNone fmtFlt

/-- A floating type, or FORMAT (R199). -/
def Core.needFloat (c : Core) : Res Unit := Res.unless (vfloat c.vtype).isSome fmtFlt

/-- Three vector registers. -/
def State.vissue3 (s : State) (i : Instr) (d a b : VReg) : Out :=
  s.vissue { instr := i, names := [nameV d, nameV a, nameV b], ops := { a := vcode d, b := vcode a, c := vcode b } }

/-- Two vector registers. -/
def State.vissue2 (s : State) (i : Instr) (d a : VReg) (pre : Res Unit) : Out :=
  s.vissue { instr := i, names := [nameV d, nameV a], ops := { a := vcode d, b := vcode a }, pre := pre }

/-- `vcfg` acts at issue and does not enter the queue (R197). -/
def execVcfg (ty : VType) (fm : MReg) (s : State) : Out :=
  .next { s with core := ({ s.core with csr := { s.core.csr with
    vcfg := BitVec.ofNat 64 (ty.code + 16 * fm.val) } } : Core).retire }

def execVadd (d a b : VReg) (s : State) : Out := s.vissue3 (.vadd d a b) d a b
def execVsub (d a b : VReg) (s : State) : Out := s.vissue3 (.vsub d a b) d a b
def execVmul (d a b : VReg) (s : State) : Out := s.vissue3 (.vmul d a b) d a b
def execVmulh (d a b : VReg) (s : State) : Out :=
  s.vissue { instr := .vmulh d a b, names := [nameV d, nameV a, nameV b]
             ops := { a := vcode d, b := vcode a, c := vcode b }, pre := s.core.needInt }
def execVfma (d a b : VReg) (s : State) : Out := s.vissue3 (.vfma d a b) d a b
def execVdiv (d a b : VReg) (s : State) : Out := s.vissue3 (.vdiv d a b) d a b
def execVsqrt (d a : VReg) (s : State) : Out := s.vissue2 (.vsqrt d a) d a s.core.needFloat
def execVrcp (d a : VReg) (s : State) : Out := s.vissue2 (.vrcp d a) d a s.core.needFloat
def execVrsq (d a : VReg) (s : State) : Out := s.vissue2 (.vrsq d a) d a s.core.needFloat
def execVexp2 (d a : VReg) (s : State) : Out := s.vissue2 (.vexp2 d a) d a s.core.needFloat
def execVlog2 (d a : VReg) (s : State) : Out := s.vissue2 (.vlog2 d a) d a s.core.needFloat
def execVmin (d a b : VReg) (s : State) : Out := s.vissue3 (.vmin d a b) d a b
def execVmax (d a b : VReg) (s : State) : Out := s.vissue3 (.vmax d a b) d a b
def execVabs (d a : VReg) (s : State) : Out := s.vissue2 (.vabs d a) d a (.ok ())
def execVand (d a b : VReg) (s : State) : Out := s.vissue3 (.vand d a b) d a b
def execVor (d a b : VReg) (s : State) : Out := s.vissue3 (.vor d a b) d a b
def execVxor (d a b : VReg) (s : State) : Out := s.vissue3 (.vxor d a b) d a b
def execVbmux (d a b : VReg) (lo hi : Fin 16) (s : State) : Out := s.vissue3 (.vbmux d a b lo hi) d a b
def execVshl (d a b : VReg) (s : State) : Out := s.vissue3 (.vshl d a b) d a b
def execVshr (d a b : VReg) (s : State) : Out := s.vissue3 (.vshr d a b) d a b
def execVsra (d a b : VReg) (s : State) : Out := s.vissue3 (.vsra d a b) d a b
def execVfshl (d a b : VReg) (n : Fin 64) (s : State) : Out := s.vissue3 (.vfshl d a b n) d a b
def execVfshr (d a b : VReg) (n : Fin 64) (s : State) : Out := s.vissue3 (.vfshr d a b n) d a b
def execVpopc (d a : VReg) (s : State) : Out := s.vissue2 (.vpopc d a) d a (.ok ())
def execVclz (d a : VReg) (s : State) : Out := s.vissue2 (.vclz d a) d a (.ok ())

/-- A compare into a mask register: the registers va and vb stand in fields a and b, fd in c. -/
def State.vcompare (s : State) (i : Instr) (fd : MReg) (a b : VReg) : Out :=
  s.vissue { instr := i, names := [nameV a, nameV b], ops := { a := vcode a, b := vcode b, c := fdCode fd } }

def execVceq (fd : MReg) (a b : VReg) (s : State) : Out := s.vcompare (.vceq fd a b) fd a b
def execVclt (fd : MReg) (a b : VReg) (s : State) : Out := s.vcompare (.vclt fd a b) fd a b
def execVcle (fd : MReg) (a b : VReg) (s : State) : Out := s.vcompare (.vcle fd a b) fd a b
def execVsel (d a b : VReg) (s : State) : Out := s.vissue3 (.vsel d a b) d a b

def execVsplat (d : VReg) (x : Src) (s : State) : Out :=
  s.vissue { instr := .vsplat d x, xs := [x], names := nameV d :: namesOf [x]
             ops := { a := vcode d, b := s.core.value x } }

def execVext (a : VReg) (idx : Src) (s : State) : Out :=
  s.vissue { instr := .vext a idx, xs := [idx], names := nameV a :: namesOf [idx]
             ops := { a := vcode a, b := s.core.value idx }, tr := true }

def execVins (d : VReg) (x idx : Src) (s : State) : Out :=
  s.vissue { instr := .vins d x idx, xs := [x, idx], names := nameV d :: namesOf [x, idx]
             ops := { a := vcode d, b := s.core.value x, c := s.core.value idx } }

def execVperm (d a idx : VReg) (s : State) : Out := s.vissue3 (.vperm d a idx) d a idx

def execVslide (d a : VReg) (dist : Src) (s : State) : Out :=
  s.vissue { instr := .vslide d a dist, xs := [dist], names := nameV d :: nameV a :: namesOf [dist]
             ops := { a := vcode d, b := vcode a, c := s.core.value dist } }

def execVred (op : RedOp) (a : VReg) (s : State) : Out :=
  s.vissue { instr := .vred op a, names := [nameV a], ops := { a := vcode a }, tr := true }

def execVcvt (f g : CFmt) (r : Rnd) (d a : VReg) (s : State) : Out := s.vissue2 (.vcvt f g r d a) d a (.ok ())

/-- Mask registers are never leased (R209). -/
def execVmask (tbl : Fin 16) (fd fa fb : MReg) (s : State) : Out :=
  s.vissue { instr := .vmask tbl fd fa fb, names := []
             ops := { a := BitVec.ofNat 64 fa.val, b := BitVec.ofNat 64 fb.val, c := fdCode fd } }

/-- AWIN of the window that an address names; 0 for window 0 (R75, R197). -/
def Core.windowOf (c : Core) (addr : Word) : Word :=
  let n := fld addr 23 21
  if n = 0 then 0 else c.csr.awin.toList.getD (n - 1) 0

def execVld (d : VReg) (addr : Src) (s : State) : Out :=
  let ad := s.core.value addr
  let aw := s.core.windowOf ad
  s.vissue { instr := .vld d addr, xs := [addr], names := nameV d :: namesOf [addr], ops := { a := vcode d, b := ad }
             pre := s.core.vlocalCheck s.core.vtype aw ad false, cfg1 := aw }

def execVst (a : VReg) (addr : Src) (s : State) : Out :=
  let ad := s.core.value addr
  let aw := s.core.windowOf ad
  s.vissue { instr := .vst a addr, xs := [addr], names := nameV a :: namesOf [addr], ops := { a := vcode a, b := ad }
             pre := s.core.vlocalCheck s.core.vtype aw ad true, cfg1 := aw }

/-- The issue checks of vldg and vstg (R225). -/
def Core.vglobalCheck (c : Core) (t : VType) (addr : Word) (store : Bool) : Res Unit :=
  if !c.vaOk addr then .bad { code := .xlate, detail := addr }
  else if addr.toNat % (vwidth t / 8) ≠ 0 then .bad { code := .align, detail := addr }
  else if c.rangeLocked true addr.toNat 256 store then .bad { code := .rangelock, detail := addr }
  else .ok ()

/-- `vldg` leases its destination until every active element is written (R209). -/
def execVldg (d : VReg) (addr : Src) (s : State) : Out :=
  let ad := s.core.value addr
  s.vissue { instr := .vldg d addr, xs := [addr], names := nameV d :: namesOf [addr], ops := { a := vcode d, b := ad }
             pre := s.core.vglobalCheck s.core.vtype ad false, lease := some (nameV d) }

def execVstg (a : VReg) (addr : Src) (s : State) : Out :=
  let ad := s.core.value addr
  s.vissue { instr := .vstg a addr, xs := [addr], names := nameV a :: namesOf [addr], ops := { a := vcode a, b := ad }
             pre := s.core.vglobalCheck s.core.vtype ad true }

def execVgath (d : VReg) (base : Src) (idx : VReg) (s : State) : Out :=
  let b := s.core.value base
  s.vissue { instr := .vgath d base idx, xs := [base], names := nameV d :: (namesOf [base] ++ [nameV idx])
             ops := { a := vcode d, b := b, c := vcode idx }, pre := vgatherCheck s.core.vtype b }

def execVscat (a : VReg) (base : Src) (idx : VReg) (s : State) : Out :=
  let b := s.core.value base
  s.vissue { instr := .vscat a base idx, xs := [base], names := nameV a :: (namesOf [base] ++ [nameV idx])
             ops := { a := vcode a, b := b, c := vcode idx }, pre := vgatherCheck s.core.vtype b }

/-! ## Heap selection (R304 to R308) -/

/-- The operand checks of R305: bits above a position are zero, and the id is no sentinel's. -/
def heapOperands (x : Word) (top : Nat) (id : Word) : Res Unit :=
  Res.unless (decide (x.toNat < 2 ^ top) && fld id 31 0 != 0xFFFFFFFF) fmtFlt

def execHsift (heap score id : Src) (s : State) : Out :=
  let c := s.core
  s.notInTx (s.vissue
    { instr := .hsift heap score id, xs := [heap, score, id], names := namesOf [heap, score, id]
      ops := { a := c.value heap, b := c.value score, c := c.value id }
      pre := heapOperands (c.value heap) 30 (c.value id) })

def execVhsift (block : Src) (score : VReg) (id : Src) (s : State) : Out :=
  let c := s.core
  s.notInTx (s.vissue
    { instr := .vhsift block score id, xs := [block, id], names := namesOf [block] ++ nameV score :: namesOf [id]
      ops := { a := c.value block, b := vcode score, c := c.value id }
      pre := heapOperands (c.value block) 24 (c.value id) })

def execHsort (block : Src) (s : State) : Out :=
  let c := s.core
  s.notInTx (s.vissue
    { instr := .hsort block, xs := [block], names := namesOf [block], ops := { a := c.value block }
      pre := heapOperands (c.value block) 25 0 })

/-! ## The step -/

/-- VECTOR_EXECUTION: the oldest instruction of a core's vector queue runs whole (R201): every beat of a local access
moves in one cycle (R206). DESIGN CHOICE: log entry 57. -/
def execVectorExecution (a : Agent) (s : State) : Out :=
  match (s.getCore a).vqueue with
  | [] => .next s
  | e :: _ =>
    if s.issueHalted then .next s
    else s.entryStep a e.tag (s.runVector a e)

end Sys2Proof.Machine
end

