-- ==== Sys2Proof/Machine/Copy.lean ====
section
/-! DEFINITION. The copy instructions of page 5 (09_copy.md, R241 to R248), user-level interrupts, and the steps that
complete the operations of a channel. -/

namespace Sys2Proof.Machine

/-! ## Issue -/

/-- What an operation of the channel captures at issue. -/
structure ChanReq where
  instr : Instr
  ops : List Word
  src : Layout
  dst : Layout
  /-- the generator steps it reserves (R238) -/
  draws : Nat
  /-- the bank and stream of a command -/
  command : Option (Acc × Nat) := none

/-- A stall on a table: counted where the range-lock table lacks room (R170). -/
def State.stallLocks (s : State) (room : Bool) : Out :=
  if room then s.stall else ({ s with core := s.core.countStall } : State).stall

/-- n entries of the range-lock table are free, as a copy needs them (R242). -/
def Core.locksFree (c : Core) (n : Nat) : Bool := c.locks.length + n ≤ 64

/-- The operation that a request becomes. -/
def State.chanOp (s : State) (q : ChanReq) : EngOp :=
  { id := s.core.csr.xnext, tag := s.serial, instr := q.instr, addr := s.core.pc, ops := q.ops, recs := q.src ++ q.dst
    scope := Lay.scope q.dst, gen := s.core.gens.chan, held := decide (0 < s.core.tx.depth) }

/-- The operation takes its id, its spans and its generator steps; inside a transaction it is held and registers
nothing yet (R227, R238, R293). -/
def State.chanPlace (s : State) (q : ChanReq) : State :=
  let op := s.chanOp q
  let c := s.core.takeId
  let c1 := if op.held then c else c.addLocks op.tag op.spans
  let c2 := match q.command with
    | some (b, stream) => c1.lease (.acc b) op.tag (some stream)
    | none => c1
  { s with serial := s.serial + 1
           core := { c2 with
             chan := c2.chan ++ [op]
             gens := { c2.gens with chan := genSteps q.draws c2.gens.chan } } }

/-- The channel has an id free and the table has two entries free; a held copy needs no entries. -/
def Core.chanRoom (c : Core) : Bool := c.idFree && (decide (0 < c.tx.depth) || c.locksFree 2)

/-- A transaction holds its 16 copies, and n more would pass them (R293). -/
def Core.heldFull (c : Core) (n : Nat) : Bool := decide (0 < c.tx.depth) && decide (16 < c.heldCopies.length + n)

/-- Abort with cause HELD (R294). -/
def State.abortHeld (s : State) : State := s.abortTx s.core.who 10 0 0

/-- A checked request issues: it pushes its id (R227, R241). -/
def State.chanIssue (s : State) (q : ChanReq) : Out :=
  if s.core.heldFull 1 then .next s.abortHeld
  else if !s.core.chanRoom then s.stallLocks (decide (0 < s.core.tx.depth) || s.core.locksFree 2)
  else .next ((s.chanPlace q).result (s.core.csr.xnext.setWidth 64))

/-- The request of a `copy` of two records at local addresses (R242). -/
def State.copyReq (s : State) (i : Instr) (src dst : Word) (more : List Word) : Res ChanReq :=
  (s.copyCheck src dst).andThen fun (a, b) =>
  .ok { instr := i, ops := [src, dst] ++ more, src := a, dst := b, draws := drawCount a b }

/-- An engine operation issues only after the core's earlier accesses (R163, R208). -/
def State.engineIssue (s : State) (xs : List Src) (names : List LeaseReg) (k : Out) : Out :=
  s.issue xs names (if s.core.engineReady && s.core.accessesDone false then k else s.stall)

def execCopy (src dst : Src) (s : State) : Out :=
  s.engineIssue [src, dst] (namesOf [src, dst])
    (s.check (s.copyReq (.copy src dst) (s.core.value src) (s.core.value dst) []) fun q => s.chanIssue q)

/-- `copyf` (R243): its command is checked with its control word before the copy's records, and leases its bank from
issue (R90, R91). DESIGN CHOICE: log entry 56. -/
def execCopyf (src dst : Src) (q : MQuad) (stream2 : Bool) (s : State) : Out :=
  let m (i : Fin 4) : Word := s.core.regs.m.get (quadReg q i)
  let bank : Acc := ⟨fld (m 3) 1 0 % 4, Nat.mod_lt _ (by decide)⟩
  s.engineIssue [src, dst] (namesOf [src, dst] ++ namesQuad q ++ [.acc bank])
    (s.check (Res.unless (fld (m 3) 63 2 = 0) fmtFlt) fun _ =>
     s.check (s.productCheck s.core false (m 0) (m 1) (m 2)) fun _ =>
     s.check (s.copyReq (.copyf src dst q stream2) (s.core.value src) (s.core.value dst) [m 0, m 1, m 2, m 3]) fun r =>
       s.chanIssue { r with command := some (bank, if stream2 then 2 else 1) })

/-- The table's record of a gather (R244): RANK 2, WIN1 = 1 and ORG1 = 0 beside R234. -/
def tableOk (addr : Word) (r : Layout) (dblock : Bool) : Res Unit :=
  let more := (if Lay.rank r ≠ 2 then [1] else []) ++ (if Lay.win r 1 ≠ 1 then [6] else [])
    ++ if Lay.orgN r 1 ≠ 0 then [7] else []
  match (Lay.bad r false dblock ++ more).min? with
  | some k => .bad (recFormat addr k)
  | none => .ok ()

/-- A list of n bytes at a local address (R94, R244). Engine operations are not checked against one another's range
locks (R168). -/
def Core.listCheck (c : Core) (x : Word) (n : Nat) : Res Nat :=
  let o := fld x 20 0
  if fld x 63 24 ≠ 0 ∨ c.top < o + n then .bad { code := .carve }
  else if o % 4 ≠ 0 then .bad { code := .align }
  else .ok o

/-- The generator steps that a gather reserves (R238): its encoded elements. DEDUCED: log entry 46. -/
def gathDraws (a b : Layout) (idx : List Nat) : Nat :=
  if Lay.mode b ≠ .sr then 0
  else if Lay.fmt a ≠ Lay.fmt b then idx.length * Lay.win a 0
  else if Lay.block b then
    ((gathPairs a b idx).filter fun p => Lay.inside b p.2 && !Lay.inside a p.1).length
  else 0

/-- The request of a `gath`, after its checks (R244): the places of the three operands, the records, the count and its
list, the records' spaces. DESIGN CHOICE: log entry 56. -/
def State.gathReq (s : State) (i : Instr) (table list dst : Word) : Res ChanReq :=
  let c := s.core
  (c.readRecord table).andThen fun a =>
  (c.listCheck list 4).andThen fun o =>
  (c.readRecord dst).andThen fun b =>
  (tableOk table a (Lay.block b)).andThen fun _ =>
  (layoutOk dst b true false).andThen fun _ =>
  if spansMeet a b then .bad (recFormat table 0)
  else
    let cnt := c.scratch.readNat o 4
    if 16384 < cnt then .bad fmtFlt
    else
      (c.listCheck list (4 + 4 * cnt)).andThen fun _ =>
      (s.placeCheck a).andThen fun _ => (s.placeCheck b).andThen fun _ =>
      let idx := (List.range (gathRows a b cnt)).map fun j => c.scratch.readNat (o + 4 + 4 * j) 4
      .ok { instr := i, ops := [table, list, dst, BitVec.ofNat 64 cnt], src := a, dst := b, draws := gathDraws a b idx }

def execGath (table idx dst : Src) (s : State) : Out :=
  s.engineIssue [table, idx, dst] (namesOf [table, idx, dst])
    (s.check (s.gathReq (.gath table idx dst) (s.core.value table) (s.core.value idx) (s.core.value dst)) fun q =>
      s.chanIssue q)

/-! ## The static copy schedule (R245) -/

/-- The schedule of the kernel that a core runs. -/
def State.schedule (s : State) (c : Core) : List Word :=
  match c.task.bind fun t => s.teamOf t.team with
  | some t => t.sched
  | none => []

/-- XSTAGE.NEXTE and SCNT. -/
def Core.nextE (c : Core) : Nat := fld c.csr.xstage 40 32
def Core.setNextE (c : Core) (n : Nat) : Core := { c with csr := { c.csr with xstage := setFld c.csr.xstage 40 32 n } }
def Core.setScnt (c : Core) (n : Nat) : Core :=
  { c with csr := { c.csr with xstage := setFld c.csr.xstage 8 0 (max (fld c.csr.xstage 8 0) n) } }

/-- The entries that `stage #n` has still to release. -/
def State.released (s : State) (n : Nat) : List Word :=
  ((s.schedule s.core).drop s.core.nextE).takeWhile fun w => fld w 7 0 < n

/-- The released entries issue one after another, until one must wait or faults. -/
def State.stageRun (s : State) (n : Nat) : List Word → Res Unit × State
  | [] => (.ok (), s)
  | w :: rest =>
    match s.copyReq (.stage n) (BitVec.ofNat 64 (fld w 31 8)) (BitVec.ofNat 64 (fld w 55 32)) [] with
    | .bad f => (.bad f, s)
    | .wait => (.wait, s)
    | .ok q =>
      if !s.core.chanRoom then (.wait, s)
      else
        let s1 := s.chanPlace q
        let c := s1.core.setNextE (s1.core.nextE + 1)
        { s1 with core := { c with stageId := some (c.stageId.getD s.core.csr.xnext) } }.stageRun n rest

/-- `stage` pushes the id of the first entry it released, or XNEXT (R245); one that goes on after a fault or a park, the
first that it released since. DESIGN CHOICE: log entry 56. Inside a transaction the entries released before one that
faults keep their ids, which the abort completes with CANCELLED, and NEXTE stays behind them, though R294 says that a
chain that raises has no effect. DESIGN CHOICE: log entry 73. -/
def execStage (n : Nat) (s : State) : Out :=
  if !(s.core.engineReady && s.core.accessesDone false) then s.stall
  else if s.core.heldFull (s.released n).length then .next s.abortHeld
  else
    match s.stageRun n (s.released n) with
    | (.ok _, s1) =>
      .next (({ s1 with core := s1.core.setScnt n } : State).result
        ((s1.core.stageId.getD s1.core.csr.xnext).setWidth 64))
    | (.wait, s1) => s1.stallLocks (decide (0 < s1.core.tx.depth) || s1.core.locksFree 2)
    | (.bad f, s1) => .next (s1.trap f)

/-- `xdone` is none of the instructions that a transaction allows (R246, R283). DEDUCED: log entry 43. -/
def execXdone (s : State) : Out := s.notInTx (.next (s.result (s.core.csr.xdone.setWidth 64)))

/-! ## User-level interrupts (R247) -/

def execUien (x : Src) (s : State) : Out :=
  s.issue [x] (namesOf [x])
    (let v := s.core.value x
     if v.getLsbD 0 then .next (s.trap { code := .align })
     else .next { s with core := ({ s.core with csr := { s.core.csr with
       uictl := setFld (setFld s.core.csr.uictl 51 0 (fld v 51 0)) 63 63 1, uihigh := BitVec.ofNat 12 (fld v 63 52) } }
         : Core).retire })

def execUidis (s : State) : Out :=
  .next { s with core := ({ s.core with csr := { s.core.csr with uictl := setFld s.core.csr.uictl 63 63 0 } } : Core).retire }

/-- `uiret` discards the shadow registers and resumes at UIRA; outside the handler it raises PRIV. A lease of a shadow
register stays until its producer ends. DESIGN CHOICE: log entry 65. -/
def execUiret (s : State) : Out :=
  s.notInTx
    (if !s.core.inHandler then .next (s.trap { code := .priv })
     else
       let c := s.core
       .next { s with core := { c.retire with
         pc := c.csr.uira, uiReady := false
         csr := { c.csr with uictl := setFld c.csr.uictl 62 62 0 }
         regs := { c.regs with shadow := Vector.replicate 16 {}, shadowK := Vector.replicate 8 0 } } })

/-! ## Steps of the channel -/

/-- The operation of an id. -/
def Core.chanFind (c : Core) (id : Word32) : Option EngOp := c.chan.find? fun o => o.id == id

/-- Replace the operation of its id. -/
def Core.putOp (c : Core) (op : EngOp) : Core :=
  { c with chan := c.chan.map fun o => if o.id == op.id then op else o }

/-- The command of a `copyf`, as an entry of its stream (R243); its id stands in `result`. -/
def commandEntry (op : EngOp) : Entry :=
  let w (i : Nat) : Word := op.ops.getD i 0
  let bank : Acc := ⟨fld (w 5) 1 0 % 4, Nat.mod_lt _ (by decide)⟩
  { tag := op.tag, instr := .mma bank (.t 0) 0, addr := op.addr, ops := { a := w 5, b := w 3, c := w 4 }, cfg0 := w 2
    result := op.id.setWidth 64 }

/-- The stream of a command. -/
def commandStream (op : EngOp) : Fin 3 := match op.instr with | .copyf _ _ _ true => 1 | _ => 0

/-- A command of the same stream waits whose copy ended before (R243, R257). -/
def Core.commandBefore (c : Core) (op : EngOp) : Bool :=
  c.chan.any fun o => match o.instr with
    | .copyf _ _ _ _ => o.moved && !o.done && commandStream o == commandStream op && o.id != op.id
        && (!op.moved || decide (o.order < op.order))
    | _ => false

/-- Place a command whose copy has ended, and complete its id; none where its stream is full or an earlier command of
the stream waits (R243, R257). -/
def State.placeCommand (s : State) (a : Agent) (op : EngOp) : Option State :=
  let c := s.getCore a
  let i := commandStream op
  if 8 ≤ (c.streams.get i).length ∨ c.commandBefore op then none
  else
    let e : Entry := { commandEntry op with placed := s.serial }
    let c1 := { c with streams := setAt c.streams i (c.streams.get i ++ [e]) }
    some (({ s with serial := s.serial + 1 }.setCore c1).completeCopy a op op.status op.part)

/-- A copy or gather whose writes are done completes with its status, or its command takes its place first (R229, R240,
R243). -/
def State.copyDone (s : State) (a : Agent) (op : EngOp) : State :=
  match op.instr with
  | .copyf _ _ _ _ =>
    if op.status % 8 = 3 then (s.modCore a fun c => c.endLease op.tag).completeCopy a op op.status op.part
    else match s.placeCommand a op with
    | some s1 => s1
    | none => { s with serial := s.serial + 1 }.modCore a fun c => c.putOp { op with moved := true, order := s.serial }
  | _ => s.completeCopy a op op.status op.part

/-- The writes of an operation into global memory are performed at its scope (R156, R163). -/
def State.scopeDone (s : State) (glob : Bool) (sc : Scope) : Bool := !glob || s.releaseDone sc

/-- A copy or gather has run: its fault is told, and it completes once its writes are performed at its scope. -/
def State.copyEnd (s : State) (a : Agent) (op : EngOp) : Res Moved → State
  | .ok m =>
    let s1 := match m.fault with
      | some f => m.s.noticeFlt (m.s.getCore a) f (op.id.setWidth 64)
      | none => m.s
    let op1 := { op with status := m.status, part := m.part, wrote := true }
    if s1.scopeDone (Lay.space op.dst == 0) op.scope then s1.copyDone a op1 else s1.modCore a fun c => c.putOp op1
  | _ => s

/-- COMMAND_PLACEMENT: a command that found its stream full is placed, and its copy's id completes (R257). -/
def execCommandPlacement (a : Agent) (id : Word32) (s : State) : Out :=
  match (s.getCore a).chanFind id with
  | none => .next s
  | some op =>
    if !op.moved ∨ op.done then .next s
    else match op.instr with
    | .copyf _ _ _ _ => .next ((s.placeCommand a op).getD s)
    | _ => .next s

end Sys2Proof.Machine
end

