-- ==== Sys2Proof/Machine/Matrix.lean ====
section
/-! DEFINITION. Page 4 (10_matrix.md, R262 to R276), and the steps that start and complete the operations of an array. -/

namespace Sys2Proof.Machine

/-! ## Issue -/

/-- A name that a page-4 instruction may not use now: a leased register, or a bank that carries a lease other than of
stream 0 (R91). -/
def Core.heldBack (c : Core) (r : LeaseReg) : Bool :=
  match r with
  | .acc _ => c.leases.any fun l => l.reg == r && l.stream != some 0
  | _ => c.leased r

/-- The operands and registers of a page-4 instruction (R84, R91). -/
def Core.matReady (c : Core) (xs : List Src) (names : List LeaseReg) : Res Unit :=
  if xs.any c.pending then .wait
  else match names.find? c.heldBack with
  | some r => .bad { code := .lease, detail := leaseDetail r }
  | none => .ok ()

/-- A page-4 instruction as it issues. -/
structure MIssue where
  instr : Instr
  xs : List Src := []
  names : List LeaseReg
  ops : Ops
  cfg0 : Word := 0
  /-- the checks at issue -/
  pre : Res Unit := .ok ()
  /-- what it leases from issue -/
  lease : Option LeaseReg := none
  /-- an operand from L2, which a transaction does not allow -/
  l2 : Bool := false

/-- The entry of a page-4 instruction; a team instruction counts (R265). -/
def State.matEnter (s : State) (m : MIssue) (spans : List Span) : State :=
  let seq := s.core.teamCount + 1
  let team := isTeamOp m.instr
  let s1 := s.enter { tag := 0, instr := m.instr, addr := 0, ops := m.ops, cfg0 := m.cfg0, seq := if team then seq else 0 }
  let c := s1.core.addLocks s.serial spans
  let c1 := match m.lease with
    | some r => c.lease r s.serial (some 0)
    | none => c
  { s1 with core := { c1 with teamCount := if team then seq else c1.teamCount } }

/-- A page-4 instruction enters stream 0 (R257): after the core's earlier accesses (R276), its checks, and room in the
stream, the entries and the range-lock table (R261). -/
def State.missue (s : State) (m : MIssue) : Out :=
  s.check (s.core.matReady m.xs m.names) fun _ =>
    if m.l2 ∧ 0 < s.core.tx.depth then .next s.disallow
    else if !(s.core.engineReady && s.core.accessesDone false) then s.stall
    else s.check m.pre fun _ =>
      let e : Entry := { tag := 0, instr := m.instr, addr := 0, ops := m.ops, cfg0 := m.cfg0 }
      let spans := if deferredSpans false e then [] else s.matSpans s.core e (cwK m.cfg0)
      if 8 ≤ s.core.stream0.length ∨ !s.core.entryRoom then s.stall
      else if !s.core.lockRoom spans then s.stallLocks false
      else .next (s.matEnter m spans).retire

/-- The code of a bank, as a captured operand. -/
def bankCode (a : Acc) : Word := BitVec.ofNat 64 a.val

/-- A product (R263, R264): its control word and the pair of operand addresses. -/
def State.product (s : State) (i : Instr) (a : Acc) (cw : Src) (p : MPair) (team : Bool) : Out :=
  let w := s.core.value cw
  let x := s.core.regs.m.get (pairLo p)
  let y := s.core.regs.m.get (pairHi p)
  s.missue { instr := i, xs := [cw], names := .acc a :: (namesOf [cw] ++ namesPair p)
             ops := { a := bankCode a, b := x, c := y }, cfg0 := w, pre := s.productCheck s.core team w x y
             lease := some (.acc a), l2 := cwLA w || cwLB w }

def execMma (a : Acc) (cw : Src) (p : MPair) (s : State) : Out := s.product (.mma a cw p) a cw p false

def execMmat (a : Acc) (cw : Src) (p : MPair) (s : State) : Out :=
  s.notInTx (s.inTeam (s.product (.mmat a cw p) a cw p true))

def execMred (i32 : Bool) (a : Acc) (len : Nat) (s : State) : Out :=
  s.notInTx (s.inTeam (s.missue { instr := .mred i32 a len, names := [.acc a], ops := { a := bankCode a }
                                  lease := some (.acc a) }))

def execMzero (a : Acc) (s : State) : Out :=
  s.missue { instr := .mzero a, names := [.acc a], ops := { a := bankCode a } }

def execMld (a : Acc) (addr : Src) (s : State) : Out :=
  let ad := s.core.value addr
  s.missue { instr := .mld a addr, xs := [addr], names := .acc a :: namesOf [addr], ops := { a := bankCode a, b := ad }
             pre := s.core.mldCheck ad, lease := some (.acc a) }

def execMst (f : Fmt) (r : Rnd) (a : Acc) (addr : Src) (s : State) : Out :=
  let ad := s.core.value addr
  s.missue { instr := .mst f r a addr, xs := [addr], names := .acc a :: namesOf [addr]
             ops := { a := bankCode a, b := ad }, pre := s.core.mstCheck f ad }

def execAmov (d : VReg) (a : Acc) (col : Nat) (s : State) : Out :=
  s.missue { instr := .amov d a col, names := [.vec d, .acc a], ops := { a := vcode d, b := bankCode a }
             lease := some (.vec d) }

/-- `mwait` (R272): a blocking point; inside a transaction it waits as outside. -/
def execMwait (a : Acc) (s : State) : Out :=
  s.notInHandler (.next (if s.core.leased (.acc a) then s.block (.mwait a) else s.retire))

/-! ## Steps of the array -/

/-- A command is dropped: its bank is unchanged, its lease ends, and its fault is posted (R274). -/
def State.dropCommand (s : State) (a : Agent) (stream : Fin 4) (e : Entry) (f : Flt) : State :=
  (s.noticeFlt (s.getCore a) f e.result).modCore a fun c =>
    ((c.dropStream stream e.tag).endLease e.tag).freeLocks e.tag

/-- An operation of a stream goes on, waits, or faults (R273, R274). -/
def State.streamStep (s : State) (a : Agent) (stream : Fin 4) (e : Entry) (r : Res State) : Out :=
  match r with
  | .ok s1 => .next s1
  | .wait => .next s
  | .bad f => .next (if stream.val = 0 then s.trapEntry a e.tag f else s.dropCommand a stream e f)

/-- The array goes on with an operation of stream 0: on a parked core too, unless the operation has faulted (R275). -/
def Core.arrayGoes (c : Core) (e : Entry) : Bool :=
  match c.run with
  | .parked => !e.stuck
  | _ => true

/-- The array computes an operation (R250). -/
def Core.arrayBusy (c : Core) : Bool :=
  (List.finRange 4).any fun st => match c.stream st with | [] => false | e :: _ => e.started

/-- The head of a stream that has not started and may. -/
def Core.streamHead (c : Core) (stream : Fin 4) : Option Entry :=
  match c.stream stream with
  | [] => none
  | e :: _ => if e.started || (e.ready && !e.met) || (decide (stream.val = 0) && !c.arrayGoes e) then none else some e

/-- The head of a stream would start now: not a wait, and not the sampling of a team instruction before its
rendezvous. -/
def State.startable (s : State) (a : Agent) (stream : Fin 4) (e : Entry) : Bool :=
  (!isTeamOp e.instr || e.solo || e.met) && match s.matStart a stream e with | .wait => false | _ => true

/-- Another head would start that was placed earlier, or as early in a lower stream (R258). -/
def State.outrun (s : State) (a : Agent) (stream : Fin 4) (e : Entry) : Bool :=
  (List.finRange 4).any fun st => st != stream && match (s.getCore a).streamHead st with
    | none => false
    | some x => (decide (x.placed < e.placed) || (decide (x.placed = e.placed) && decide (st < stream))) && s.startable a st x

/-- MATRIX_OPERATION_START: a free array starts the ready head that was placed earliest (R258); a team instruction
first stands ready for its rendezvous (R259 to R261). -/
def execMatrixOperationStart (a : Agent) (stream : Fin 4) (s : State) : Out :=
  match (s.getCore a).streamHead stream with
  | none => .next s
  | some e =>
    let starts := !isTeamOp e.instr || e.solo || e.met
    if s.issueHalted ∨ (starts ∧ ((s.getCore a).arrayBusy ∨ s.outrun a stream e)) then .next s
    else s.streamStep a stream e (s.matStart a stream e)

/-- The operation waits for a bank of the rank before it (R267). -/
def State.awaitsBank (s : State) (c : Core) (e : Entry) : Bool :=
  match e.instr with
  | .mred _ _ len => match chainPlace (s.teamSize c) len c.rank with | some (_ + 1) => true | _ => false
  | _ => false

/-- MATRIX_OPERATION_COMPLETES: a started operation takes its effect and completes. -/
def execMatrixOperationCompletes (a : Agent) (stream : Fin 4) (s : State) : Out :=
  let c := s.getCore a
  match c.stream stream with
  | [] => .next s
  | e :: _ =>
    if !e.started ∨ s.awaitsBank c e then .next s else s.streamStep a stream e (s.matComplete a stream e)

/-- MRED_MESSAGE: a member of a chain has the bank of the rank before it, adds, and sends its sum on (R267). -/
def execMredMessage (a : Agent) (s : State) : Out :=
  let c := s.getCore a
  match c.stream0 with
  | [] => .next s
  | e :: _ => if e.started && s.awaitsBank c e then s.streamStep a 0 e (s.matComplete a 0 e) else .next s

/-! ## The rendezvous (R265, R266) -/

/-- The team instruction at the head of a member's stream 0 that waits for its rendezvous. -/
def Core.teamHead (c : Core) : Option Entry :=
  match c.stream0 with
  | e :: _ => if isTeamOp e.instr && !e.started && !e.met && !e.solo && c.arrayGoes e then some e else none
  | [] => none

/-- The fields that a rendezvous compares. -/
def teamKey (e : Entry) : Nat × Nat × Word × Nat × Word × Word :=
  match e.instr with
  | .mmat a _ _ => (0, a.val, setFld e.cfg0 34 19 0, e.k, e.ops.b, e.ops.c)
  | .mred i32 a len => (if i32 then 2 else 1, a.val, BitVec.ofNat 64 len, 0, 0, 0)
  | _ => (3, 0, 0, 0, 0, 0)

/-- A `mred` whose len exceeds the team (R267). -/
def lenAbove (n : Nat) (e : Entry) : Bool := match e.instr with | .mred _ _ len => n < len | _ => false

/-- Every member takes TEAM for its part. -/
def State.teamFault (s : State) (parts : List (Agent × Entry)) : State :=
  parts.foldl (fun s p => s.trapEntry p.1 p.2.tag { code := .team }) s

/-- TEAM_RENDEZVOUS: every member's nth team instruction is ready, and all of them may start, or all fault where they
differ; where a member has ended without its nth, the others fault. Halted arrays issue nothing (R423). -/
def execTeamRendezvous (team : Nat) (s : State) : Out :=
  match s.teamOf team with
  | none => .next s
  | some t =>
    let parts := t.members.filterMap fun a => ((s.getCore a).teamHead).map fun e => (a, e)
    match parts.map fun p => p.2.seq with
    | [] => .next s
    | n0 :: rest =>
      let n := rest.foldl min n0
      let now := parts.filter fun p => p.2.seq == n
      let absent (a : Agent) : Bool :=
        let c := s.getCore a
        decide (c.run = .ended) && decide (c.teamCount < n)
      if now.length = t.size then
        if !now.all (fun p => p.2.ready) ∨ s.issueHalted then .next s
        else
          let keys := now.map fun p => teamKey p.2
          if keys.all (fun k => some k == keys.head?) ∧ !now.any (fun p => lenAbove t.size p.2) then
            .next (now.foldl (fun s p => s.modCore p.1 fun c => c.putEntry { p.2 with met := true }) s)
          else .next (s.teamFault now)
      else if t.members.all fun a => absent a || now.any fun p => p.1 == a then .next (s.teamFault now)
      else .next s

end Sys2Proof.Machine
end

