-- ==== Sys2Proof/Machine/Txn.lean ====
section
/-! DEFINITION. Page 6: transactions (11_transactions.md, R281 to R300), their commit, and the abort that another agent's
access brings about. -/

namespace Sys2Proof.Machine

/-! ## Beginning (R281, R282, R289) -/

/-- TXTS.VALID. -/
def Core.tsHeld (c : Core) : Bool := c.csr.txts.getLsbD 63

/-- The held timestamp was taken 2^49 ck or more ago (R289). -/
def Core.tsStale (c : Core) (time : Nat) : Bool :=
  2 ^ 49 ≤ (time % 2 ^ 51 + 2 ^ 51 - fld c.csr.txts 62 12) % 2 ^ 51

/-- A timestamp with VALID (R289, R295). A supervisor core has no global core id (R430); the id in its timestamp is
0xFFF. DESIGN CHOICE: log entry 73. -/
def timestamp (time : Nat) (a : Agent) : Word := BitVec.ofNat 64 (2 ^ 63 + time % 2 ^ 51 * 4096 + coreId a)

/-- TXSTAT as it reads: while a transaction is open, ACT, DEPTH and the held copies so far (R295). -/
def Core.txstatNow (c : Core) : Word :=
  if c.tx.depth = 0 then c.csr.txstat
  else BitVec.ofNat 64 (c.heldCopies.length * 2 ^ 16 + c.tx.depth * 2 ^ 12 + 16)

/-- The outermost `tbegin` opens the transaction. -/
def State.beginTx (s : State) (fallback : Word) : State :=
  let c := s.core
  let ts := if c.tsHeld && !c.tsStale s.time then c.csr.txts else timestamp s.time c.who
  let c1 := { c with
    tx := { depth := 1, train := c.regs.train, k := c.regs.k, m := c.regs.m, sv := c.regs.sv, fallback := fallback
            since := s.serial }
    csr := { c.csr with txts := ts, txstat := 0x1010 } }
  ({ s with core := c1 }.acquire c.who .pkg).retire

/-- No train position is pending and no k or m register is leased (R281). -/
def Core.quietScalars (c : Core) : Bool :=
  !c.regs.train.toList.any (fun p => p.tag.isSome)
    && !c.leases.any fun l => match l.reg with | .scalar _ => true | _ => false

/-- The outermost `tbegin` acquires, so that it waits for the earlier loads (R155). -/
def execTbegin (off : Int) (s : State) : Out :=
  s.notInHandler
    (let c := s.core
     if c.tx.depth = 0 then
       (if c.quietScalars && c.loadsBack then .next (s.beginTx (c.nextPc + BitVec.ofInt 64 (2 * off))) else s.stall)
     else if 7 ≤ c.tx.depth then .next (s.abortTx c.who 9 0 0)
     else .next { s with core := ({ c with tx := { c.tx with depth := c.tx.depth + 1 } } : Core).retire })

/-- The outermost `tend` holds the core until COMMIT_POINT (R287). -/
def execTend (s : State) : Out :=
  let c := s.core
  if c.tx.depth = 0 then .next s.retire
  else if 1 < c.tx.depth then .next { s with core := ({ c with tx := { c.tx with depth := c.tx.depth - 1 } } : Core).retire }
  else .next (s.hold .tend {})

def execTabort (code : Nat) (s : State) : Out :=
  .next (if s.core.tx.depth = 0 then s.retire else s.abortTx s.core.who 4 0 code)

def execTstat (s : State) : Out := .next (s.result s.core.txstatNow)

def execTdepth (s : State) : Out := .next (s.result (BitVec.ofNat 64 s.core.tx.depth))

/-! ## Commutative writes (R291, R292) -/

/-- A commutative write: an access of a word that pushes nothing. -/
def State.commutative (s : State) (i : Instr) (addr val : Src) : Out :=
  s.issue [addr, val] (namesOf [addr, val])
    (s.access i { a := s.core.value addr, b := s.core.value val } false none)

def execTcaddW (addr val : Src) (s : State) : Out := s.commutative (.tcaddW addr val) addr val
def execTcaddF (addr val : Src) (s : State) : Out := s.commutative (.tcaddF addr val) addr val
def execTcmaxW (addr val : Src) (s : State) : Out := s.commutative (.tcmaxW addr val) addr val
def execTcminW (addr val : Src) (s : State) : Out := s.commutative (.tcminW addr val) addr val
def execTcorD (addr val : Src) (s : State) : Out := s.commutative (.tcorD addr val) addr val

/-! ## Commit (R287) -/

/-- Bytes of one line are performed at the L2 of a die; on a poisoned line they are discarded with a notice (R193). -/
def State.commitBytes (s : State) (a : Agent) (die line : Nat) (cells : List Host.Cell) : State :=
  if s.poisoned (line * 128) then s.notice (s.getCore a) .poison 0 (BitVec.ofNat 64 (line * 128))
  else (s.l2Take die (line * 128) true).perform cells

/-- A speculative line becomes an ordinary dirty line: of the cluster's L1 where it stands there, or where the L1 has a
copy of it; else its bytes are performed at the L2 (R279, R287). -/
def State.commitLine (s : State) (a : Agent) (t : Tx) (versioned : List Nat) (line : Nat) : State :=
  let cells := t.spec.filter fun (c : Host.Cell) => c.1 / 128 == line
  match clusterAt a with
  | none => s.commitBytes a (dieOf a) line cells
  | some cid =>
    if ((s.cluster cid).find (line * 128)).isSome || (!(s.ways cid).isEmpty && !versioned.contains line) then
      cells.foldl (fun s (c : Host.Cell) => s.l1Store cid (t.scopeOf line) false c.1 [c.2]) s
    else s.commitBytes a (dieOf a) line cells

/-- Step 4: the stored bytes of the write set become ordinary ones, line by line; those in the L1 are performed at the
L2 by the release. -/
def State.commitStores (s : State) (a : Agent) (t : Tx) (versioned : List Nat) : State :=
  ((t.spec.map fun (c : Host.Cell) => c.1 / 128).dedup).foldl (fun s line => s.commitLine a t versioned line) s

/-- The bytes of a value at consecutive addresses. -/
def cellsOf (pa n v : Nat) : List Host.Cell := (List.range n).map fun i => (pa + i, (bytesOfNat n v).getD i 0)

/-- Step 5: a delta is applied at the L2 of its home die to the word as that L2 has it, once it holds the line (R291).
As with an atomic, the cluster keeps no L1 copy of the line (R158, R292). DEDUCED: log entry 43. -/
def State.commitDelta (s : State) (a : Agent) (d : Delta) : State :=
  let n := deltaBytes d.kind
  if s.poisoned d.pa then s.commitBytes a (homeDie d.pa) (d.pa / 128) []
  else
    let s0 := match clusterAt a with | some cid => s.leaveL1 cid d.pa | none => s
    let s1 := s0.l2Take (homeDie d.pa) d.pa true
    s1.perform (cellsOf d.pa n (deltaOp d.kind (s1.mem.readNat d.pa n) d.value.toNat))

/-- The transaction commits: one step for every agent (R286). -/
def State.commit (s : State) (a : Agent) : State :=
  let c := s.getCore a
  let t := c.tx
  let held := c.heldCopies
  let s1 := s.modCore a fun c => { c with
    tx := {}
    csr := { c.csr with txts := setFld c.csr.txts 63 63 0, txstat := BitVec.ofNat 64 (held.length * 2 ^ 16) } }
  let s2 := (s1.commitStores a t (s.versioned (dieOf a))).release a .pkg
  held.foldl (fun s op => s.modCore a fun c => c.releaseHeld op) (t.deltas.foldl (fun s d => s.commitDelta a d) s2)

/-- The commit may take its point: every transactional access is registered and has returned, the earlier plain ones,
which its release orders, are performed, and the held copies find free range locks (R154, R167, R287).
DEDUCED: log entry 43. -/
def Core.commitReady (c : Core) : Bool :=
  !c.entries.any Entry.tx && c.accessesDone false && c.lockRoom (c.heldCopies.flatMap EngOp.spans)

/-- COMMIT_POINT: no home has aborted the transaction. -/
def execCommitPoint (a : Agent) (s : State) : Out :=
  let c := s.getCore a
  match c.run with
  | .held .tend _ =>
    if c.txLive ∧ c.commitReady then .next ((s.commit a).modCore a Core.wake) else .next s
  | _ => .next s

/-- TRANSACTION_ABORT: the abort that a home decided takes effect between chains (R294). -/
def execTransactionAbort (a : Agent) (s : State) : Out :=
  let c := s.getCore a
  match c.tx.doom with
  | some (cause, other) => .next (if c.tx.depth = 0 then s else s.abortTx a cause other 0)
  | none => .next s

end Sys2Proof.Machine
end

