-- ==== Sys2Proof/Machine/Routing.lean ====
section
/-! DEFINITION. The routing engine (12_routing.md, R309 to R321): `route`, `rtbl`, `rmstat`, and the steps that complete
them. Heap selection is in VecUnit and Vector. -/

namespace Sys2Proof.Machine

/-! ## The route record (R310, R311) -/

def rtBlk (r : List Word) : Nat := fld (wordAt r 0) 23 0
def rtNb (r : List Word) : Nat := fld (wordAt r 0) 30 24
def rtTokBase (r : List Word) : Nat := fld (wordAt r 1) 31 0
def rtNtok (r : List Word) : Nat := fld (wordAt r 1) 44 32
def rtSlot (r : List Word) : Nat := fld (wordAt r 2) 3 0
def rtOut (r : List Word) : Nat := fld (wordAt r 3) 51 0
def rtCnt (r : List Word) : Nat := fld (wordAt r 4) 51 0
def rtCap (r : List Word) : Nat := fld (wordAt r 5) 15 0
def rtNdest (r : List Word) : Nat := fld (wordAt r 5) 22 16
def rtSv0 (r : List Word) : Nat := fld (wordAt r 5) 27 23
def rtNsv (r : List Word) : Nat := fld (wordAt r 5) 33 28
def rtEidx (r : List Word) : Nat := fld (wordAt r 5) 43 34
def rtEsc (r : List Word) : Bool := (wordAt r 5).getLsbD 44
def rtScope (r : List Word) : Scope := scopeOf (fld (wordAt r 5) 46 45)

/-- The fields of a route record are in range (R310). -/
def routeOk (r : List Word) : Bool :=
  fld (wordAt r 0) 23 21 == 0 && fld (wordAt r 0) 63 31 == 0 && 1 ≤ rtNb r && rtNb r ≤ 64
    && fld (wordAt r 1) 63 45 == 0 && 1 ≤ rtNtok r && rtNtok r ≤ 4096 && rtNtok r ≤ 64 * rtNb r
    && fld (wordAt r 2) 63 4 == 0 && fld (wordAt r 3) 63 52 == 0 && fld (wordAt r 4) 63 52 == 0
    && rtOut r % 8 == 0 && rtCnt r % 8 == 0
    && fld (wordAt r 5) 63 47 == 0 && 1 ≤ rtNdest r && rtNdest r ≤ 64 && rtSv0 r + rtNsv r ≤ 32 && rtNsv r ≤ rtNdest r
    && wordAt r 6 == 0 && wordAt r 7 == 0

/-- A sorted block of K entries per heap at an offset. -/
def Core.sortedBlock (c : Core) (o : Nat) : Bool :=
  let h := c.scratch.word o
  headerOk h && fld h 15 8 == 1

/-- The checks of a route's record and blocks (R311): the record and K. -/
def Core.routeCheck (c : Core) (rec_ : Word) : Res (List Word × Nat) :=
  (c.recordCheck rec_ 64 false).andThen fun o =>
  let r := c.scratch.words o 8
  if !routeOk r then .bad fmtFlt
  else
    let b := rtBlk r
    let no (code : Code) : Res (List Word × Nat) := .bad { code := code }
    if b % 16 ≠ 0 then no .align
    else if c.top < b + 16 ∨ b < 0x800 then no .carve
    else if !c.sortedBlock b then .bad fmtFlt
    else
      let k := fld (c.scratch.word b) 7 0
      let size := 16 + 512 * k
      if c.top < b + rtNb r * size then no .carve
      else if (List.range (rtNb r)).any fun i =>
          !c.sortedBlock (b + i * size) || fld (c.scratch.word (b + i * size)) 7 0 != k then .bad fmtFlt
      else .ok (r, k)

/-- The spans of a route. -/
def routeSpans (r : List Word) (k : Nat) : List Span :=
  [{ dst := false, glob := false, base := rtBlk r, len := rtNb r * (16 + 512 * k) },
   { dst := true, glob := true, base := rtOut r, len := rtNtok r * k * 8 },
   { dst := true, glob := true, base := rtCnt r, len := rtNdest r * 8 + ceilDiv (rtNtok r) 64 * 8 }]

/-- The launch whose table slots a core's operations use (R316). -/
def Core.launchId (c : Core) : Nat := match c.task with | some t => t.launch | none => 0

/-- The entries of the active table of a slot; none while it is empty (R316). -/
def State.activeTable (s : State) (c : Core) (slot : Nat) : List Word :=
  match (s.die (dieOf c.who)).tables.find? fun t => t.launch == c.launchId && t.slot == slot && t.active with
  | some t => t.words
  | none => []

/-- An operation enters the queue of the die's routing engine (R309). -/
def State.routeEnter (s : State) (i : Instr) (ops recs : List Word) (sc : Scope) (spans : List Span) : State :=
  let c := s.core
  let op : EngOp := { id := 0, tag := s.serial, instr := i, addr := c.pc, ops := ops, recs := recs, scope := sc }
  let d := s.die (dieOf c.who)
  let s1 := s.setDie { d with routes := d.routes ++ [{ who := c.who, op := op }] }
  { s1 with serial := s1.serial + 1, core := c.addLocks s.serial spans }

def execRoute (rec_ : Src) (s : State) : Out :=
  let c := s.core
  s.notInTx (s.engineIssue [rec_] (namesOf [rec_])
    (s.check (c.routeCheck (c.value rec_)) fun (r, k) =>
      if !c.lockRoom (routeSpans r k) then s.stallLocks false
      else .next (s.routeEnter (.route rec_) [c.value rec_, BitVec.ofNat 64 k] (r ++ s.activeTable c (rtSlot r)) (rtScope r)
        (routeSpans r k)).retire))

/-! ## What a route does (R312 to R315) -/

/-- The course of a route: pairs placed as destination and doubleword, pairs used by expert, dropped tokens, counts. -/
structure Routed where
  placed : List (Nat × Nat) := []
  used : List (Nat × Nat) := []
  drops : List Nat := []
  oor : Nat := 0
  cut : Nat := 0
  /-- tokens with no real entry -/
  empty : Nat := 0
deriving DecidableEq, Repr

/-- One pair: token t, rank j, expert e (R312). -/
def Routed.pair (x : Routed) (r table : List Word) (t j e : Nat) : Routed :=
  let outside : Routed := { x with drops := x.drops ++ [t], oor := x.oor + 1 }
  if table.length ≤ e then outside
  else
    let w := wordAt table e
    let n := fld w 1 0 + 1
    let dd := w.toNat / 2 ^ (8 + 8 * (t % n)) % 256
    if rtNdest r ≤ dd then outside
    else
      let used := ((x.used.find? fun p => p.1 == e).map Prod.snd).getD 0
      if rtCap r ≠ 0 ∧ used = rtCap r then { x with drops := x.drops ++ [t], cut := x.cut + 1 }
      else
        let tok := (rtTokBase r + t) % 2 ^ 32
        { x with placed := x.placed ++ [(dd, tok + e % 65536 * 2 ^ 32 + j * 2 ^ 48)]
                 used := upsert Prod.fst (e, used + 1) x.used }

/-- The heap of token t. -/
def tokenHeap (m : Memory) (r : List Word) (k t : Nat) : List HeapEntry :=
  readHeap m (rtBlk r + t / 64 * (16 + 512 * k) + 16 + 8 * k * (t % 64)) k

/-- All pairs of all tokens, in order; a token with no real entry is dropped. -/
def routed (m : Memory) (r table : List Word) (k : Nat) : Routed :=
  (List.range (rtNtok r)).foldl (fun x t =>
    let real := (tokenHeap m r k t).zipIdx.filter fun p => p.1.2 != noId
    let x1 := real.foldl (fun x p => x.pair r table t p.2 p.1.2.toNat) x
    if real.isEmpty then { x1 with drops := x1.drops ++ [t], empty := x1.empty + 1 } else x1) {}

/-- The pairs of destination d. -/
def Routed.count (x : Routed) (d : Nat) : Nat := (x.placed.filter fun p => p.1 == d).length

/-- The bytes of the lists (R313). -/
def Routed.lists (x : Routed) (ndest : Nat) : List Byte :=
  (List.range ndest).flatMap fun d => (x.placed.filter fun p => p.1 == d).flatMap fun p => bytesOfNat 8 p.2

/-- The bytes of the count table and drop map (R313). -/
def Routed.table (x : Routed) (ndest ntok : Nat) : List Byte :=
  ((List.range ndest).flatMap fun d =>
    let off := ((List.range d).map x.count).foldl (· + ·) 0
    bytesOfNat 8 (x.count d + off * 2 ^ 32))
  ++ (List.range (ceilDiv ntok 64)).flatMap fun i =>
    bytesOfNat 8 ((x.drops.dedup.filter fun t => t / 64 == i).foldl (fun v t => v + 2 ^ (t % 64)) 0)

/-- Each byte of a write that a fault cut off is written or not, a free choice (R240, R315). -/
def State.maybeWrite (s : State) (a : Agent) (sc : Scope) (va : Nat) (bs : List Byte) : State :=
  let s1 := (List.range bs.length).foldl (fun (u : State) i =>
    if Config.freeBool (s.free + i) then (u.engWrite a (u.getCore a).asid sc (va + i) [bs.getD i 0]).1 else u) s
  s1.useFree bs.length

/-- Write several byte spans for an engine; after the first fault the other bytes are written or not, and where memory
is not ready the engine waits (R415). -/
def State.writeSpans (s : State) (a : Agent) (sc : Scope) : List (Nat × List Byte) → Res (State × Option Flt)
  | [] => .ok (s, none)
  | (va, bs) :: rest =>
    match s.engWrite a (s.getCore a).asid sc va bs with
    | (s1, some (.bad f)) => .ok (((va, bs) :: rest).foldl (fun u p => u.maybeWrite a sc p.1 p.2) s1, some f)
    | (_, some .wait) => .wait
    | (s1, _) => s1.writeSpans a sc rest

/-- Record a status doubleword for `rmstat`; an older one that no `rmstat` may still want goes. -/
def Core.recordStat (c : Core) (tag k : Nat) (v : Word) : Core :=
  let wanted := c.entries.any fun e => match e.instr with | .rmstat _ => true | _ => false
  let old := if wanted then c.rmstats else c.rmstats.filter fun p => p.1 % 8 != k || tag < p.1 / 8
  { c with rmstats := old ++ [(8 * tag + k, v)] }

/-- Remove the head of a die's routing queue. -/
def State.routeDone (s : State) (die : Nat) : State :=
  let d := s.die die
  s.setDie { d with routes := d.routes.drop 1 }

/-- An arrival on an own escapement that an operation of a scope signals, from an engine of a row of R10 (R101, R164).
-/
def Core.engineArrive (c : Core) (row e time : Nat) (sc : Scope) : Core :=
  (c.noteScope e sc).arrive e time (placeEngine row) 1

/-- The notice of an operation's fault, if it met one (R389). -/
def State.noticeMaybe (s : State) (a : Agent) (f : Option Flt) : State :=
  match f with | some f => s.noticeFlt (s.getCore a) f 0 | none => s

/-- A route completes: shape variables unless it met a fault, status, arrival (R314, R315). -/
def State.routeEnds (s : State) (die : Nat) (a : Agent) (op : EngOp) (r : List Word) (out : Routed) (fault : Bool) :
    State :=
  let code := if fault then 3 else if out.cut ≠ 0 then 4 else 0
  let st := code + (if out.oor ≠ 0 then 8 else 0) + if out.empty ≠ 0 then 16 else 0
  (s.modCore a fun c =>
    let c1 := if fault then c
      else (List.range (rtNsv r)).foldl (fun (c : Core) d =>
        c.setSv ⟨(rtSv0 r + d) % 32, Nat.mod_lt _ (by decide)⟩ (BitVec.ofNat 64 (out.count d))) c
    let c2 := ((((c1.freeLocks op.tag).recordStat op.tag 0
      (BitVec.ofNat 64 (out.placed.length + out.cut * 2 ^ 32))).recordStat op.tag 1
      (BitVec.ofNat 64 (out.empty + out.oor * 2 ^ 32))).recordStat op.tag 2 (BitVec.ofNat 64 st))
    if rtEsc r then c2.engineArrive 8 (rtEidx r) s.time op.scope else c2).routeDone die

/-- The head of a die's routing queue has written all that it writes, with a fault or without. -/
def State.routeWrote (s : State) (die : Nat) (fault : Bool) : State :=
  let d := s.die die
  match d.routes with
  | [] => s
  | x :: rest => s.setDie { d with routes := { x with op := { x.op with wrote := true, status := if fault then 3 else 0 } } :: rest }

/-- ROUTE_COMPLETION: the route at the head of a die's routing engine runs, and completes once its writes are performed
at its scope (R156, R163, R314, R315). -/
def execRouteCompletion (die : Nat) (s : State) : Out :=
  match (s.die die).routes with
  | [] => .next s
  | x :: _ =>
    match x.op.instr with
    | .route _ =>
      let a := x.who
      let op := x.op
      let r := op.recs.take 8
      let k := (op.ops.getD 1 0).toNat
      let out := routed (s.getCore a).scratch r (op.recs.drop 8) k
      if op.wrote then .next (if s.scopeDone true op.scope then s.routeEnds die a op r out (op.status == 3) else s)
      else match s.writeSpans a op.scope
        [(rtOut r, out.lists (rtNdest r)), (rtCnt r, out.table (rtNdest r) (rtNtok r))] with
      | .ok (s1, f) =>
        let s2 := s1.noticeMaybe a f
        .next (if s2.scopeDone true op.scope then s2.routeEnds die a op r out f.isSome else s2.routeWrote die f.isSome)
      | _ => .next s
    | _ => .next s

/-! ## Replica tables (R316 to R318) -/

def tbImg (r : List Word) : Nat := fld (wordAt r 0) 51 0
def tbSlot (r : List Word) : Nat := fld (wordAt r 1) 3 0
def tbLayer (r : List Word) : BitVec 16 := BitVec.ofNat 16 (fld (wordAt r 1) 19 4)
def tbNexp (r : List Word) : Nat := fld (wordAt r 1) 30 20
def tbNow (r : List Word) : Bool := (wordAt r 1).getLsbD 31

/-- The fields of an `rtbl` record are in range (R317). -/
def tableRecOk (r : List Word) : Bool :=
  fld (wordAt r 0) 63 52 == 0 && tbImg r % 8 == 0 && fld (wordAt r 1) 63 32 == 0 && 1 ≤ tbNexp r && tbNexp r ≤ 1024

/-- An entry of a table image meets R317. -/
def tableEntryOk (w : Word) : Bool :=
  fld w 7 2 == 0 && fld w 63 40 == 0 && (List.range 4).all fun i => i ≤ fld w 1 0 || w.toNat / 2 ^ (8 + 8 * i) % 256 == 0

def execRtbl (rec_ : Src) (s : State) : Out :=
  let c := s.core
  s.notInTx (s.engineIssue [rec_] (namesOf [rec_])
    (s.check (c.recordCheck (c.value rec_) 16 false) fun o =>
      let r := c.scratch.words o 2
      let queued : Bool := match c.task with | some t => !t.gang | none => false
      if !tableRecOk r ∨ (queued ∧ !tbNow r) then .next (s.trap fmtFlt)
      else
        let spans : List Span := [{ dst := false, glob := true, base := tbImg r, len := 8 * tbNexp r }]
        if !c.lockRoom spans then s.stallLocks false
        else .next (s.routeEnter (.rtbl rec_) [c.value rec_] r .die spans).retire))

/-- Stage a table, or make it active at once (R317, R318). -/
def Die.stageTable (d : Die) (t : Table) : Die :=
  { d with tables := (d.tables.filter fun x =>
      !(x.launch == t.launch && x.slot == t.slot && (!x.active || t.active))) ++ [t] }

/-- The image of an `rtbl` as read: its entries, or the status code and fault that it ends with (R317). -/
def State.tableImage (s : State) (a : Agent) (r : List Word) : Res (State × Except (Nat × Flt) (List Word)) :=
  match s.engRead a (s.getCore a).asid (tbImg r) (8 * tbNexp r) with
  | .ok (s1, bs) => .ok (s1, if (wordsOf bs).all tableEntryOk then .ok (wordsOf bs) else .error (2, fmtFlt))
  | .bad f => .ok (s, .error (1, f))
  | .wait => .wait

/-- TABLE_STAGED: the `rtbl` at the head of a die's routing engine ends; it waits for memory that is not ready (R415).
-/
def execTableStaged (die : Nat) (s : State) : Out :=
  match (s.die die).routes with
  | [] => .next s
  | x :: _ =>
    match x.op.instr with
    | .rtbl _ =>
      let a := x.who
      let r := x.op.recs
      let ends (u : State) (code : Nat) : State :=
        (u.modCore a fun c => (c.freeLocks x.op.tag).recordStat x.op.tag 3
          (BitVec.ofNat 64 (code * 2 ^ 17 + tbSlot r * 2 ^ 19 + 2 ^ 63))).routeDone die
      match s.tableImage a r with
      | .ok (s1, .ok ws) =>
        .next (ends (s1.setDie ((s1.die die).stageTable
          { launch := (s.getCore a).launchId, slot := tbSlot r, active := tbNow r, layer := tbLayer r, words := ws })) 0)
      | .ok (s1, .error (code, f)) => .next (ends (s1.noticeMaybe a (some f)) code)
      | _ => .next s
    | _ => .next s

/-! ## Status (R320) -/

def execRmstat (rec_ : Src) (s : State) : Out :=
  let c := s.core
  s.notInTx (s.issue [rec_] (namesOf [rec_])
    (s.check (c.recordOut (c.value rec_) 32) fun _ =>
      if !c.entryRoom then s.stall
      else .next (s.enter { tag := 0, instr := .rmstat rec_, addr := 0, ops := { a := c.value rec_ }, tr := true }).retire))

/-- RMSTAT_COMPLETION: every routing, table and merge operation that an `rmstat` waits for has completed. -/
def execRmstatCompletion (a : Agent) (tag : Nat) (s : State) : Out :=
  match (s.getCore a).entry tag with
  | some e =>
    match e.instr with
    | .rmstat _ => s.entryStep a tag (s.runRmstat a e)
    | _ => .next s
  | none => .next s

end Sys2Proof.Machine
end

