-- ==== Sys2Proof/Machine/Merge.lean ====
section
/-! DEFINITION. The token merge engine (13_merge.md, R322 to R342): `mrg`, `umrg`, their completion, and the completion
of the operations of a channel. -/

namespace Sys2Proof.Machine

/-! ## The map stack (R322 to R324) -/

def Core.stackBase (c : Core) : Nat := fld c.csr.mstk 20 4 * 16
def Core.slotLive (c : Core) (s : Nat) : Bool := c.csr.mstk.getLsbD (24 + s)
def Core.slotLost (c : Core) (s : Nat) : Bool := c.csr.mstk.getLsbD (32 + s)
def Core.slotBusy (c : Core) (s : Nat) : Bool := c.csr.mstk.getLsbD (40 + s)

/-- The states of a slot. -/
inductive SlotState where
  | free | filling | live | lost
deriving DecidableEq, Repr

/-- Put a slot into a state. -/
def Core.setSlot (c : Core) (s : Nat) (x : SlotState) : Core :=
  let bit (w : Word) (i : Nat) (b : Bool) : Word := setFld w i i (if b then 1 else 0)
  { c with csr := { c.csr with
      mstk := bit (bit (bit c.csr.mstk (24 + s) (x == .live)) (32 + s) (x == .lost)) (40 + s) (x == .filling) } }

/-- The offsets of a slot's header and map. -/
def Core.slotHead (c : Core) (s : Nat) : Nat := c.stackBase + 16 * s
def Core.slotMap (c : Core) (s : Nat) : Nat := c.stackBase + 128 + 8192 * s

/-- N, NOUT and GEN of a slot's header. -/
def Core.headN (c : Core) (s : Nat) : Nat := c.scratch.readNat (c.slotHead s) 2
def Core.headNout (c : Core) (s : Nat) : Nat := c.scratch.readNat (c.slotHead s + 2) 2
def Core.headGen (c : Core) (s : Nat) : Nat := c.scratch.readNat (c.slotHead s + 4) 2

/-- The header's fields meet R322. DEDUCED: log entry 45. -/
def Core.headOk (c : Core) (s : Nat) : Bool :=
  let n := c.headN s
  let o := c.headNout s
  2 ≤ n && n ≤ 4096 && n - n / 2 ≤ o && o ≤ n && c.scratch.readNat (c.slotHead s + 6) 10 == 0

/-- A slot's spans of n map entries, protected while an operation fills it or reads it (R338). -/
def Core.guardSlot (c : Core) (tag s n : Nat) (fill : Bool) : Core :=
  let lock (low len : Nat) : Lock := { own := tag, dst := fill, glob := false, low := low, high := low + len }
  { c with slotLocks := c.slotLocks ++ [lock (c.slotHead s) 16, lock (c.slotMap s) (2 * n)] }

/-- End an operation's protection of slots. -/
def Core.unguard (c : Core) (tag : Nat) : Core := { c with slotLocks := c.slotLocks.filter fun l => l.own != tag }

/-! ## The merge record (R326, R327) -/

def mgX (r : List Word) : Nat := fld (wordAt r 0) 51 0
def mgKey (r : List Word) : Nat := fld (wordAt r 1) 51 0
def mgAux (r : List Word) : Nat := fld (wordAt r 2) 51 0
def mgOut (r : List Word) : Nat := fld (wordAt r 3) 51 0
def mgXs (r : List Word) : Nat := fld (wordAt r 4) 31 0
def mgKs (r : List Word) : Nat := fld (wordAt r 4) 63 32
def mgN (r : List Word) : Nat := fld (wordAt r 5) 12 0
def mgD (r : List Word) : Nat := fld (wordAt r 5) 23 13
def mgDk (r : List Word) : Nat := fld (wordAt r 5) 32 24
def mgR (r : List Word) : Nat := fld (wordAt r 5) 44 33
def mgSlot (r : List Word) : Nat := fld (wordAt r 6) 2 0
def mgSone (r : List Word) : Bool := (wordAt r 6).getLsbD 3
def mgPnone (r : List Word) : Bool := (wordAt r 6).getLsbD 4
def mgEidx (r : List Word) : Nat := fld (wordAt r 6) 14 5
def mgEsc (r : List Word) : Bool := (wordAt r 6).getLsbD 15
def mgScope (r : List Word) : Scope := scopeOf (fld (wordAt r 6) 17 16)

/-- The offsets SZO and LNO of the output region, and its length (R326). -/
def mgSzo (r : List Word) : Nat := 8 * ceilDiv (2 * mgD r * mgN r) 8
def mgLno (r : List Word) : Nat := mgSzo r + 4 * mgN r
def mgOutLen (r : List Word) : Nat := mgLno r + 4 * mgN r

/-- The regions X, KEY and AUX as base and length (R326, R327). Where one of SONE and PNONE is 1, AUX is the part of it
that is still read. DESIGN CHOICE: log entry 73. -/
def mgInputs (r : List Word) : List (Nat × Nat) :=
  let n := mgN r
  let sizes := 8 * ceilDiv n 2
  let mask := 8 * ceilDiv n 64
  let aux := match mgSone r, mgPnone r with
    | true, true => []
    | true, false => [(mgAux r + sizes, mask)]
    | false, true => [(mgAux r, 4 * n)]
    | false, false => [(mgAux r, sizes + mask)]
  [(mgX r, (n - 1) * mgXs r + 2 * mgD r), (mgKey r, (n - 1) * mgKs r + 2 * mgDk r)] ++ aux

/-- Two regions overlap. -/
def regionsMeet (a b : Nat × Nat) : Bool := a.1 < b.1 + b.2 && b.1 < a.1 + a.2

/-- The fields of a merge record are in range (R326, R327), but for the state of its slot. -/
def mergeRecOk (r : List Word) : Bool :=
  let n := mgN r
  (List.range 4).all (fun i => fld (wordAt r i) 63 52 == 0)
    && fld (wordAt r 5) 63 45 == 0 && 2 ≤ n && n ≤ 4096 && 1 ≤ mgD r && mgD r ≤ 1024 && 1 ≤ mgDk r && mgDk r ≤ 256
    && mgR r ≤ n / 2 && fld (wordAt r 6) 63 18 == 0 && wordAt r 7 == 0
    && mgX r % 2 == 0 && mgKey r % 2 == 0 && mgXs r % 2 == 0 && mgKs r % 2 == 0 && mgAux r % 8 == 0 && mgOut r % 8 == 0
    && 2 * mgD r ≤ mgXs r && 2 * mgDk r ≤ mgKs r
    && !(mgInputs r).any (regionsMeet (mgOut r, mgOutLen r))

/-- The slot's header and map lie in general scratch (R327). -/
def Core.slotFits (c : Core) (s n : Nat) : Bool :=
  0x4800 ≤ c.slotHead s && c.slotHead s + 16 ≤ c.top && 0x4800 ≤ c.slotMap s && c.slotMap s + 2 * n ≤ c.top

/-- The checks of R327 after LEASE: the record. -/
def Core.mrgCheck (c : Core) (rec_ : Word) : Res (List Word) :=
  (c.recordCheck rec_ 64 false).andThen fun o =>
  let r := c.scratch.words o 8
  if !mergeRecOk r ∨ c.slotLive (mgSlot r) ∨ c.slotBusy (mgSlot r) then .bad fmtFlt
  else if !c.slotFits (mgSlot r) (mgN r) then .bad { code := .carve }
  else .ok r

/-- The spans of an `mrg`. -/
def mgSpans (r : List Word) : List Span :=
  ((mgInputs r).map fun p => { dst := false, glob := true, base := p.1, len := p.2 })
    ++ [{ dst := true, glob := true, base := mgOut r, len := mgOutLen r }]

/-- The core starts a merge of a record with a generation: its slot fills, a3 is leased, its spans are registered, and
its matrix work enters stream 3 of the array (R257). A restore does the same for a saved one (R342). -/
def Core.mrgStart (c : Core) (op : EngOp) : Core :=
  let r := op.recs
  let c1 := ((c.addLocks op.tag (mgSpans r)).setSlot (mgSlot r) .filling).guardSlot op.tag (mgSlot r) (mgN r) true
  let e : Entry := { tag := op.tag, instr := op.instr, addr := op.addr, ops := {}, placed := op.tag }
  { (c1.lease (.acc 3) op.tag (some 3)) with
    merge := some op, streams := setAt c.streams 2 (c.streams.get 2 ++ [e]) }

def execMrg (rec_ : Src) (s : State) : Out :=
  let c := s.core
  s.notInTx (s.engineIssue [rec_] (namesOf [rec_] ++ [.acc 3])
    (s.check (c.mrgCheck (c.value rec_)) fun r =>
      if !c.lockRoom (mgSpans r) then s.stallLocks false
      else
        let gen := fld c.csr.mstk 63 48
        let c1 := { c with csr := { c.csr with mstk := setFld c.csr.mstk 63 48 ((gen + 1) % 65536) } }
        let op : EngOp := { id := 0, tag := s.serial, instr := .mrg rec_, addr := c.pc
                            ops := [c.value rec_, BitVec.ofNat 64 gen], recs := r, scope := mgScope r }
        .next ({ s with serial := s.serial + 1, core := c1.mrgStart op } : State).retire))

/-! ## Matching (R328, R329) -/

/-- A BF16 value of two bytes. -/
def numBf16 (x : Nat) : Num := Machine.bf16.decode x

/-- FP32 rounding of an exact value. -/
def round32 (x : Num) : Num := num32 (rne32 x).1

/-- A unit key (R328). -/
def unitKey (key : List Num) : List Num :=
  let n2 := key.foldl (fun s x => round32 (s.add (x.mul x))) (.fin false 0 0)
  let nrm := round32 n2.sqrt
  key.map fun x => if nrm.eq (.fin false 0 0) then .fin false 0 0
    else numBf16 (Machine.bf16.encode .rne (x.div nrm)).1

/-- The similarity of two unit keys: R76 from +0. -/
def similarity (u v : List Num) : Num :=
  num32 ((chunks 16 (u.length / 16 + 2) 0 u.length).foldl (fun acc p =>
    (accGroup acc (((u.drop p.1).take p.2).zip ((v.drop p.1).take p.2))).1) 0)

/-- An edge: source, target, score. -/
abbrev Edge := Nat × Nat × Num

/-- The target of a source: the highest score, the lowest target on a tie (R329). -/
def bestTarget (us : Array (List Num)) (a : Nat) (bs : List Nat) : Option Edge :=
  bs.foldl (fun best b =>
    let x := similarity (us.getD a []) (us.getD b [])
    match best with
    | none => some (a, b, x)
    | some (_, _, y) => if y.lt x then some (a, b, x) else best) none

/-- Insert an edge in descending order of scores; equal scores keep their order. -/
def insertEdge (e : Edge) : List Edge → List Edge
  | [] => [e]
  | f :: t => if f.2.2.lt e.2.2 then e :: f :: t else f :: insertEdge e t

/-- The edges in order, before the first R are chosen. -/
def edgesOf (keys : List (List Num)) (prot : List Bool) : List Edge :=
  let us := (keys.map unitKey).toArray
  let open_ (i : Nat) : Bool := !(prot.getD i false)
  let n := keys.length
  let as := (List.range n).filter fun i => i % 2 == 0 && open_ i
  let bs := (List.range n).filter fun i => i % 2 == 1 && open_ i
  (as.filterMap fun a => bestTarget us a bs).foldl (fun es e => insertEdge e es) []

/-! ## Averaging and outputs (R330, R331) -/

/-- A merged element and size: the target's first, then its sources in ascending order. -/
def average (parts : List (Num × Num)) : Nat :=
  match parts with
  | [] => 0
  | (s, x) :: rest =>
    let (num, den) := rest.foldl (fun p q => (round32 ((q.1.mul q.2).add p.1), round32 (p.2.add q.1)))
      (round32 (s.mul x), s)
    (Machine.bf16.encode .rne (num.div den)).1

/-- The size of a target. -/
def mergedSize (sizes : List Word32) : Word32 :=
  match sizes with
  | [] => 0
  | s :: rest => rest.foldl (fun d t => (addF32 d t).1) s

/-- What a merge computes: rows, sizes, the map, the number of rows, and its status. -/
structure Merged where
  rows : List Byte
  sizes : List Word32
  map : List Nat
  nout : Nat
  status : Nat

/-- The whole of a merge from its inputs: rows of D elements, keys, sizes and protection (R328 to R331). -/
def mergeTokens (rows : List (List Byte)) (keys : List (List Num)) (sizes : List Word32) (prot : List Bool) (r d : Nat) :
    Merged :=
  let n := rows.length
  let odd (k : List Num) : Bool := k.any fun x => match x with | .fin _ _ _ => false | _ => true
  let prot1 := (List.range n).map fun i => prot.getD i false || odd (keys.getD i [])
  let edges := edgesOf keys prot1
  let chosen := edges.take r
  let sources (b : Nat) : List Nat := (List.range n).filter fun a => chosen.any fun e => e.1 == a && e.2.1 == b
  let target (a : Nat) : Option Nat := (chosen.find? fun e => e.1 == a).map fun e => e.2.1
  let live := (List.range n).filter fun i => (target i).isNone
  let el (i j : Nat) : Num := numBf16 (natOfBytes (((rows.getD i []).drop (2 * j)).take 2))
  let size (i : Nat) : Word32 := sizes.getD i 0
  let row (b : Nat) : List Byte :=
    let ss := sources b
    if ss.isEmpty then rows.getD b []
    else (List.range d).flatMap fun j => bytesOfNat 2 (average ((b :: ss).map fun i => (num32 (size i), el i j)))
  let place (i : Nat) : Nat := live.idxOf ((target i).getD i)
  let part (i : Nat) : Bool := (target i).isSome || !(sources i).isEmpty
  { rows := live.flatMap row
    sizes := live.map fun b => mergedSize ((b :: sources b).map size)
    map := (List.range n).map fun i => place i + if part i then 32768 else 0
    nout := live.length
    status := (if edges.length < r then 4 else 0) + if keys.any odd then 16 else 0 }

/-- Rows of n bytes at a stride. -/
def State.readRows (s : State) (a : Agent) (base stride n : Nat) (rows : Nat) : Res (State × List (List Byte)) :=
  (List.range rows).foldl (fun acc i => acc.andThen fun (s, got) =>
    (s.engRead a (s.getCore a).asid (base + i * stride) n).andThen fun (s1, bs) => .ok (s1, got ++ [bs])) (.ok (s, []))

/-- Read the inputs of a merge and compute it. -/
def State.mergeRead (s : State) (a : Agent) (r : List Word) : Res (State × Merged) :=
  let n := mgN r
  let asid := (s.getCore a).asid
  (s.readRows a (mgX r) (mgXs r) (2 * mgD r) n).andThen fun (s1, rows) =>
  (s1.readRows a (mgKey r) (mgKs r) (2 * mgDk r) n).andThen fun (s2, keys) =>
  (if mgSone r then .ok (s2, []) else s2.engRead a asid (mgAux r) (4 * n)).andThen fun (s3, sz) =>
  (if mgPnone r then .ok (s3, []) else s3.engRead a asid (mgAux r + 8 * ceilDiv n 2) (8 * ceilDiv n 64)).andThen fun (s4, mask) =>
  let sizes := (List.range n).map fun i =>
    if mgSone r then (0x3F800000 : Word32) else BitVec.ofNat 32 (natOfBytes ((sz.drop (4 * i)).take 4))
  let prot := (List.range n).map fun i => (mask.getD (i / 8) 0).getLsbD (i % 8)
  let nums := keys.map fun k => (List.range (mgDk r)).map fun j => numBf16 (natOfBytes ((k.drop (2 * j)).take 2))
  .ok (s4, mergeTokens rows nums sizes prot (mgR r) (mgD r))

/-- How a merge ended: its status, its map where it ran to its end, and its fault. -/
structure MergeEnd where
  status : Nat
  map : Option Merged := none
  fault : Option Flt := none

/-- A merge runs: its outputs and its end (R332, R333); it waits for memory that is not ready (R415). INV stands in the
status where every key was read. DEDUCED: log entry 45. DESIGN CHOICE: log entry 69. -/
def State.mergeRun (s : State) (a : Agent) (r : List Word) (sc : Scope) : Res (State × MergeEnd) :=
  match s.mergeRead a r with
  | .ok (s1, m) =>
    let w32 (xs : List Word32) : List Byte := xs.flatMap fun x => bytesOfNat 4 x.toNat
    (s1.writeSpans a sc
      [(mgOut r, m.rows), (mgOut r + mgSzo r, w32 m.sizes)
       , (mgOut r + mgLno r, w32 (m.sizes.map fun x => (rne32 (num32 x).ln).1))]).andThen fun (s2, f) =>
    .ok (s2, match f with
      | none => { status := m.status, map := some m }
      | some f => { status := 3 + (if 16 ≤ m.status then 16 else 0), fault := some f })
  | .bad f =>
    let n := mgOutLen r
    let any := (List.range n).map fun i => Config.freeByte (s.free + i)
    .ok ((s.useFree n).maybeWrite a sc (mgOut r) any, { status := 3, fault := some f })
  | .wait => .wait

/-- Put a map and its header into their slot (R322). -/
def Core.putMap (c : Core) (slot gen : Nat) (m : Merged) : Core :=
  (c.storeLocal (c.slotMap slot) (m.map.flatMap (bytesOfNat 2))).storeLocal (c.slotHead slot)
    (bytesOfNat 2 m.map.length ++ bytesOfNat 2 m.nout ++ bytesOfNat 2 gen ++ bytesOfNat 10 0)

/-- A map slot whose contents a fault leaves unspecified (R333). -/
def Core.spoilMap (c : Core) (free slot n : Nat) : Core :=
  let any (k m : Nat) : List Byte := (List.range m).map fun i => Config.freeByte (free + k + i)
  (c.storeLocal (c.slotMap slot) (any 16 (2 * n))).storeLocal (c.slotHead slot) (any 0 16)

/-- A merge has written its outputs, and its map into the slot that it fills; after a fault the slot's contents are
unspecified, and the fault is told (R332, R333). The end of the merge stands in its operation: `part` is 1 with a map.
-/
def State.mergeWrote (s : State) (a : Agent) (op : EngOp) (x : MergeEnd) : State :=
  let r := op.recs
  let slot := mgSlot r
  let s1 := (s.noticeMaybe a x.fault).modCore a fun c => match x.map with
    | some m => c.putMap slot (op.ops.getD 1 0).toNat m
    | none => c.spoilMap s.free slot (mgN r)
  (s1.useFree (16 + 2 * mgN r)).modCore a fun c => { c with
    merge := some { op with wrote := true, status := x.status, part := if x.map.isSome then 1 else 0 } }

/-- A merge that has written completes, in the order of R332; after a fault its slot is free (R333). -/
def Core.mergeEnds (c : Core) (op : EngOp) (time : Nat) : Core :=
  let r := op.recs
  let c0 := c.setSlot (mgSlot r) (if op.part = 1 then .live else .free)
  let c1 := ((c0.setBank 3 zeroBank).endLease op.tag).freeLocks op.tag
  let c2 := { (c1.unguard op.tag).recordStat op.tag 4 (BitVec.ofNat 64 op.status) with merge := none }
  if mgEsc r then c2.engineArrive 4 (mgEidx r) time op.scope else c2

/-- The merge of a core completes once its writes are performed at its scope (R156, R163). -/
def State.mergeDone (s : State) (a : Agent) : State :=
  match (s.getCore a).merge with
  | some op => if op.wrote && s.scopeDone true op.scope then s.modCore a fun c => c.mergeEnds op s.time else s
  | none => s

/-- MRG_COMPLETION (R332, R333): the merge's matrix work has left stream 3 (R257). One that a stop has cancelled posts
nothing (R342). -/
def execMrgCompletion (a : Agent) (s : State) : Out :=
  match (s.getCore a).merge with
  | none => .next s
  | some op =>
    if op.cancelled then .next s
    else if op.wrote then .next (s.mergeDone a)
    else if s.issueHalted ∨ ((s.getCore a).streams.get 2).any fun e => e.tag == op.tag then .next s
    else match s.mergeRun a op.recs op.scope with
      | .ok (s1, x) => .next ((s1.mergeWrote a op x).mergeDone a)
      | _ => .next s

/-! ## umrg (R334 to R337) -/

def umRb (r : List Word) : Nat := fld (wordAt r 3) 13 0
def umNsl (r : List Word) : Nat := fld (wordAt r 3) 16 14
def umPop (r : List Word) : Bool := (wordAt r 3).getLsbD 17
def umEidx (r : List Word) : Nat := fld (wordAt r 3) 27 18
def umEsc (r : List Word) : Bool := (wordAt r 3).getLsbD 28
def umScope (r : List Word) : Scope := scopeOf (fld (wordAt r 3) 30 29)
def umIrq (r : List Word) : Bool := (wordAt r 3).getLsbD 31
def umSstr (r : List Word) : Nat := fld (wordAt r 2) 31 0
def umDstr (r : List Word) : Nat := fld (wordAt r 2) 63 32

/-- The listed slots, and the generation expected of entry k. -/
def umSlots (r : List Word) : List Nat := (List.range (umNsl r + 1)).map fun k => fld (wordAt r 4) (3 * k + 2) (3 * k)
def umGen (r : List Word) (k : Nat) : Nat := fld (wordAt r (5 + k / 4)) (16 * (k % 4) + 15) (16 * (k % 4))

/-- The fields of a `umrg` record (R334, R335). -/
def Core.umrgRecOk (c : Core) (r : List Word) : Bool :=
  let ss := umSlots r
  fld (wordAt r 3) 63 32 == 0 && 1 ≤ umRb r && umRb r ≤ 8192 && (wordAt r 4).toNat / 2 ^ (3 * (umNsl r + 1)) == 0
    && wordAt r 7 == 0 && decide ss.Nodup && ss.all fun s => c.slotLive s || c.slotLost s

/-- The spans of SRC and DST: rows of RB bytes at their strides. -/
def umSpan (base stride rb rows : Nat) : Nat × Nat := (base, (rows - 1) * stride + rb)

/-- The checks of R335 after LEASE: the record, N0 and NS. -/
def Core.umrgCheck (c : Core) (rec_ : Word) : Res (List Word × Nat × Nat) :=
  (c.recordCheck rec_ 64 false).andThen fun o =>
  let r := c.scratch.words o 8
  if !c.umrgRecOk r then .bad fmtFlt
  else
    let ss := umSlots r
    match ss.zipIdx.find? fun p => c.slotLost p.1 || c.headGen p.1 != umGen r p.2 with
    | some (s, k) => .bad (flt .maplost (s + 16 * k))
    | none =>
      if ss.any (fun s => !c.headOk s) ∨ (ss.zip (ss.drop 1)).any fun p => c.headN p.2 != c.headNout p.1 then .bad fmtFlt
      else
        let n0 := c.headN (ss.headD 0)
        let ns := c.headNout (ss.getLastD 0)
        if regionsMeet (umSpan (wordAt r 0).toNat (umSstr r) (umRb r) ns) (umSpan (wordAt r 1).toNat (umDstr r) (umRb r) n0)
        then .bad fmtFlt
        else if !c.vaOk (wordAt r 0) ∨ !c.vaOk (wordAt r 1) then .bad { code := .xlate }
        else .ok (r, n0, ns)

/-- The spans that a `umrg` registers. -/
def umSpans (r : List Word) (n0 ns : Nat) : List Span :=
  let (a, n) := umSpan (wordAt r 0).toNat (umSstr r) (umRb r) ns
  let (b, m) := umSpan (wordAt r 1).toNat (umDstr r) (umRb r) n0
  [{ dst := false, glob := true, base := a, len := n }, { dst := true, glob := true, base := b, len := m }]

def execUmrg (rec_ : Src) (s : State) : Out :=
  let c := s.core
  s.notInTx (s.engineIssue [rec_] (namesOf [rec_])
    (s.check (c.umrgCheck (c.value rec_)) fun (r, n0, ns) =>
      if !c.chanRoom then s.stallLocks (c.locksFree 2)
      else
        let op : EngOp := { id := c.csr.xnext, tag := s.serial, instr := .umrg rec_, addr := c.pc
                            ops := [c.value rec_, BitVec.ofNat 64 n0, BitVec.ofNat 64 ns], recs := r, scope := umScope r }
        let c1 := c.takeId.addLocks op.tag (umSpans r n0 ns)
        let c2 := (umSlots r).foldl (fun (c : Core) slot => c.guardSlot op.tag slot (c.headN slot) false) c1
        .next (({ s with serial := s.serial + 1, core := { c2 with chan := c2.chan ++ [op] } } : State).result
          (op.id.setWidth 64))))

/-- The output row of token i under the listed maps (R336). Bits 14:12 of a map entry are ignored.
DESIGN CHOICE: log entry 58. -/
def Core.composed (c : Core) (slots : List Nat) (i : Nat) : Nat :=
  slots.foldl (fun i s => c.scratch.readNat (c.slotMap s + 2 * i) 2 % 4096) i

/-- The rows after a fault: each byte is written or not (R240). -/
def State.umrgLater (s : State) (a : Agent) (op : EngOp) (ns : Nat) (rows : List Nat) : State :=
  rows.foldl (fun s i =>
    let r := op.recs
    let c := s.getCore a
    let from_ := c.composed (umSlots r) i
    if ns ≤ from_ then s
    else match s.engRead a c.asid ((wordAt r 0).toNat + from_ * umSstr r) (umRb r) with
    | .ok (s1, bs) => s1.maybeWrite a op.scope ((wordAt r 1).toNat + i * umDstr r) bs
    | _ => s) s

/-- What a `umrg` has moved: the rows done, OOR, and its fault. -/
structure Unmerged where
  done : Nat := 0
  oor : Bool := false
  fault : Option Flt := none

/-- Copy the rows of a list of tokens; a row out of range, which is not written, does not count as done. DESIGN CHOICE:
log entry 69. After a fault each later byte is written or not (R240), and where memory is not
ready the engine waits (R415). -/
def State.umrgRows (s : State) (a : Agent) (op : EngOp) (ns : Nat) (x : Unmerged) : List Nat → Res (State × Unmerged)
  | [] => .ok (s, x)
  | i :: rest =>
    let r := op.recs
    let c := s.getCore a
    let from_ := c.composed (umSlots r) i
    if ns ≤ from_ then s.umrgRows a op ns { x with oor := true } rest
    else
      match s.engRead a c.asid ((wordAt r 0).toNat + from_ * umSstr r) (umRb r) with
      | .ok (s1, bs) =>
        match s1.engWrite a c.asid op.scope ((wordAt r 1).toNat + i * umDstr r) bs with
        | (s2, some (.bad f)) => .ok (s2.umrgLater a op ns (i :: rest), { x with fault := some f })
        | (_, some .wait) => .wait
        | (s2, _) => s2.umrgRows a op ns { x with done := x.done + 1 } rest
      | .bad f => .ok (s.umrgLater a op ns rest, { x with fault := some f })
      | .wait => .wait

/-- A `umrg` whose writes are done completes with its status (R337). -/
def State.umrgDone (s : State) (a : Agent) (op : EngOp) : State :=
  let r := op.recs
  let n0 := (op.ops.getD 1 0).toNat
  let s1 := s.modCore a fun c =>
    let c1 := if umPop r then (umSlots r).foldl (fun (c : Core) slot => c.setSlot slot .free) c else c
    (c1.unguard op.tag).recordStat op.tag 4 (BitVec.ofNat 64 op.status)
  s1.completeId a op op.status op.part (umIrq r) fun s =>
    if umEsc r then s.modCore a fun c =>
      (c.noteScope (umEidx r) op.scope).bytesOn (umEidx r) s.time (-(n0 * umRb r : Nat))
    else s

/-- A `umrg` runs; it completes once its writes are performed at its scope (R156, R336, R337). -/
def State.umrgEnd (s : State) (a : Agent) (op : EngOp) : State :=
  match s.umrgRows a op (op.ops.getD 2 0).toNat {} (List.range (op.ops.getD 1 0).toNat) with
  | .ok (s1, x) =>
    let s2 := match x.fault with
      | some f => s1.noticeFlt (s1.getCore a) f (op.id.setWidth 64)
      | none => s1
    let op1 := { op with status := (if x.fault.isSome then 3 else 0) + (if x.oor then 8 else 0)
                         part := if x.fault.isSome then x.done else 0, wrote := true }
    if s2.scopeDone true op.scope then s2.umrgDone a op1 else s2.modCore a fun c => c.putOp op1
  | _ => s

/-- CHANNEL_OPERATION_COMPLETES: a copy, gather or unmerge runs and completes (R229, R239, R240, R337), or an `xput`
whose delivery has been acknowledged completes (R354). -/
def execChannelOperationCompletes (a : Agent) (id : Word32) (s : State) : Out :=
  match (s.getCore a).chanFind id with
  | none => .next s
  | some op =>
    if op.held ∨ op.done ∨ op.cancelled then .next s
    else if op.moved then
      match op.instr with
      | .xput _ _ =>
        .next (s.completeId a op op.status op.part ((op.recs.getD 2 0).getLsbD 13) fun s => s)
      | _ => .next s
    else if op.wrote then
      if s.scopeDone true op.scope then
        .next (match op.instr with | .umrg _ => s.umrgDone a op | _ => s.copyDone a op)
      else .next s
    else match op.instr with
    | .copy _ _ | .stage _ | .copyf _ _ _ _ => .next (s.copyEnd a op (s.copyRun a op))
    | .gath _ _ _ => .next (s.copyEnd a op (s.gathRun a op))
    | .umrg _ => .next (s.umrgEnd a op)
    | _ => .next s

end Sys2Proof.Machine
end

