-- ==== Sys2Proof/Machine/Exchange.lean ====
section
/-! DEFINITION. Windows, the chime, counted transfers and remote scratch (14_exchange.md, R344 to R356): the first half
of page 8, `chime`, and the steps of a superstep. -/

namespace Sys2Proof.Machine

/-! ## Stands (R344) -/

/-- The team of a core's task. -/
def State.teamFor (s : State) (c : Core) : Option Team := c.task.bind fun t => s.teamOf t.team

/-- The gang launch whose stand a core belongs to. -/
def State.stand (s : State) (c : Core) : Option Launch :=
  match c.task with
  | some t => if t.gang then s.launchOf t.launch else none
  | none => none

/-- The stand rank of a core. -/
def State.standRank (s : State) (c : Core) : Nat :=
  match c.task, s.teamFor c with
  | some t, some tm => tm.idx * tm.size + t.rank
  | _, _ => 0

/-- The member of a stand on this module at a stand rank. -/
def State.standMember (s : State) (launch rank : Nat) : Option Agent :=
  (s.teamsOf launch).findSome? fun t => if rank / t.size = t.idx then some (t.member (rank % t.size)) else none

/-- The members of a stand on this module. -/
def State.standMembers (s : State) (launch : Nat) : List Agent := (s.teamsOf launch).flatMap Team.members

/-- A chain of a stand's members: TEAM in the queued class and on a supervisor core (R350, R352, R430).
DEDUCED: log entry 34. -/
def State.inStand (s : State) (k : Launch → Out) : Out :=
  match s.stand s.core with
  | some l => if s.core.isSup then .next (s.trap { code := .team }) else k l
  | none => .next (s.trap { code := .team })

/-- MODBASE, and NMOD: the other modules of a stand. -/
def Launch.modBase (l : Launch) : Nat := fld (wordAt l.words 2) 8 0
def Launch.nmod (l : Launch) : Nat := fld (wordAt l.words 2) 17 9
/-- The stand spans modules. -/
def Launch.spans (l : Launch) : Bool := l.nmod != 0
/-- The scope of a stand's chime and retirement (R20, R113). -/
def Launch.scope (l : Launch) : Scope := if l.spans then .sys else .pkg
/-- The other modules of a stand. -/
def State.standModules (s : State) (l : Launch) : List Nat :=
  ((List.range (l.nmod + 1)).map fun i => l.modBase + i).filter fun m => m != s.self

/-! ## Windows (R345 to R347) -/

def Win.wid (w : Win) : Nat := fld w.entry 7 0
def Win.start (w : Win) : Nat := fld w.entry 23 8
def Win.len (w : Win) : Nat := fld w.entry 31 24
def Win.src (w : Win) : Nat := fld w.entry 43 32
def Win.dst (w : Win) : Nat := fld w.entry 55 44
/-- Its capacity C in bytes. -/
def Win.cap (w : Win) : Nat := 64 * (w.len - 1)

/-- Router steps and die edges between two clusters, along X and then Y. -/
def routeHops (a b : Nat) : Nat :=
  (max (meshX a) (meshX b) - min (meshX a) (meshX b)) + (max (meshY a) (meshY b) - min (meshY a) (meshY b))
def routeEdges (a b : Nat) : Nat :=
  (if meshX a / 8 = meshX b / 8 then 0 else 1)
    + (max (meshY a / 10) (meshY b / 10) - min (meshY a / 10) (meshY b / 10))

/-- H of a route between two cores (R346). -/
def latencyH (a b : Nat) : Nat := 4 + 2 * routeHops (clusterOf a) (clusterOf b) + 6 * routeEdges (clusterOf a) (clusterOf b)

/-- H of a window of a stand; 0 where its cores lie on another module. -/
def State.winH (s : State) (launch : Nat) (w : Win) : Nat :=
  match s.standMember launch w.src, s.standMember launch w.dst with
  | some a, some b => latencyH (coreId a) (coreId b)
  | _, _ => 0

/-- A window runs on this module. -/
def State.winHere (s : State) (launch : Nat) (w : Win) : Bool := (s.standMember launch w.src).isSome

/-- A window before its superstep. -/
def Win.fresh (w : Win) : Win := { entry := w.entry }

/-- Change a window of a launch. -/
def State.modWin (s : State) (launch i : Nat) (f : Win → Win) : State :=
  match s.launchOf launch with
  | some l => s.setLaunch { l with wins := l.wins.modify i f }
  | none => s

/-- A status word and a count as a header (R347). -/
def header (st count : Nat) : Word := BitVec.ofNat 64 (st * 2 ^ 32 + count)

/-- The window entry of a core with an id and a role. -/
def State.winOf (s : State) (l : Launch) (w : Nat) (send : Bool) : Option (Nat × Win) :=
  let r := s.standRank s.core
  match l.wins.findIdx? fun x => x.wid == w && (if send then x.src else x.dst) == r with
  | some i => (l.wins[i]?).map fun x => (i, x)
  | none => none

/-- The window has started: its cycle counted from the release is reached. -/
def Launch.reachedStart (l : Launch) (w : Win) (now : Nat) : Bool :=
  w.ended || match l.released with
    | some r => decide (r + w.start ≤ now)
    | none => false

/-- A new `xsend` or `xrecv` in its window: its entry, its span, and what the window holds. -/
def State.winEnter (s : State) (l : Launch) (i : Nat) (instr : Instr) (ops : Ops) (span : Span) (f : Nat → Win → Win) :
    State :=
  let tag := s.serial
  let s1 := s.enter { tag := 0, instr := instr, addr := 0, ops := ops, tr := true }
  ({ s1 with core := s1.core.addLocks tag [span] }.modWin l.id i (f tag)).retire

/-- An `xsend` once in a superstep; of no bytes it takes no entry of the table. DEDUCED: log entries 28, 29, 32.
DESIGN CHOICE: log entry 67. -/
def execXsend (src count : Src) (w : Nat) (s : State) : Out :=
  s.notInTx (s.inStand fun l => s.engineIssue [src, count] (namesOf [src, count])
    (match s.winOf l w true with
      | none => .next (s.trap fmtFlt)
      | some (i, x) =>
        let c := s.core
        let v := c.value src
        let n := (c.value count).toNat
        let m := min n x.cap
        let o := fld v 20 0
        if 2 ^ 32 ≤ n ∨ x.send.isSome then .next (s.trap fmtFlt)
        else if fld v 63 24 ≠ 0 ∨ c.top < o + m then .next (s.trap { code := .carve })
        else if c.rangeLocked false o m false then .next (s.trap { code := .rangelock, detail := v })
        else if l.reachedStart x s.time then .next (s.result 5)
        else if !c.entryRoom then s.stall
        else
          let span : Span := { dst := false, glob := false, base := o, len := m }
          if !c.lockRoom [span] then s.stallLocks false
          else .next (s.winEnter l i (.xsend src count w) { a := v, b := c.value count } span
            fun tag x => { x with send := some (o, m, n, tag) })))

/-- DEDUCED: log entries 28, 32. -/
def execXrecv (dst : Src) (w : Nat) (s : State) : Out :=
  s.notInTx (s.inStand fun l => s.engineIssue [dst] (namesOf [dst])
    (match s.winOf l w false with
      | none => .next (s.trap fmtFlt)
      | some (i, x) =>
        let c := s.core
        let v := c.value dst
        let o := fld v 20 0
        if x.recv.isSome then .next (s.trap fmtFlt)
        else if fld v 63 24 ≠ 0 ∨ o < 0x4800 ∨ c.top < o + x.cap then .next (s.trap { code := .carve })
        else if c.rangeLocked false o x.cap true then .next (s.trap { code := .rangelock, detail := v })
        else if l.reachedStart x s.time then .next (s.result (BitVec.ofNat 64 (2 ^ 40)))
        else if !c.entryRoom then s.stall
        else
          let span : Span := { dst := true, glob := false, base := o, len := x.cap }
          if !c.lockRoom [span] then s.stallLocks false
          else .next (s.winEnter l i (.xrecv dst w) { a := v } span fun tag x => { x with recv := some (o, tag) })))

/-- A window's entry has started: it stands in no frame from then on (R393). -/
def State.markStarted (s : State) (a : Agent) (tag : Nat) : State :=
  s.modCore a fun c => match c.entry tag with
    | some e => c.putEntry { e with started := true }
    | none => c

/-- The window w of a launch, where the cycle START + d of its superstep is reached. -/
def State.winDue (s : State) (launch w : Nat) (d : Win → Nat) : Option (Launch × Win) :=
  match s.launchOf launch with
  | none => none
  | some l =>
    match l.wins[w]?, l.released with
    | some x, some r => if s.winHere launch x && r + x.start + d x ≤ s.time + 1 then some (l, x) else none
    | _, _ => none

/-- WINDOW_START: the window takes what its source has queued (R347). -/
def execWindowStart (launch w : Nat) (s : State) : Out :=
  match s.winDue launch w fun _ => 0 with
  | none => .next s
  | some (_, x) =>
    if x.header.isSome then .next s
    else
      let h := match x.send with
        | none => header 5 0
        | some (_, m, n, _) => header (if x.cap < n then 4 else 0) m
      let s1 := s.modWin launch w fun x => { x with header := some h }
      let s2 := match x.send, s1.standMember launch x.src with
        | some (_, _, _, tag), some a => s1.markStarted a tag
        | _, _ => s1
      .next (match x.recv, s2.standMember launch x.dst with
        | some (_, tag), some a => s2.markStarted a tag
        | _, _ => s2)

/-- A value of an exchange entry lands, and its span is released first (R169, R350). -/
def State.landExchange (s : State) (a : Agent) (tag : Nat) (v : Word) : State :=
  s.modCore a fun c => match c.entry tag with
    | some e => (c.freeLocks tag).finish e v
    | none => c.freeLocks tag

/-- LAST_PAYLOAD_BEAT: the last beat leaves the source; the span of the `xsend` is released and its status lands
(R350). -/
def execLastPayloadBeat (launch w : Nat) (s : State) : Out :=
  match s.winDue launch w fun x => x.len - 1 with
  | none => .next s
  | some (_, x) =>
    if x.header.isNone ∨ x.sent then .next s
    else
      match x.send, s.standMember launch x.src with
      | some (o, m, n, tag), some a =>
        let bs := (s.getCore a).scratch.readBytes o m
        let s1 := s.modWin launch w fun x => { x with sent := true, data := bs }
        .next (s1.landExchange a tag (if x.cap < n then 4 else 0))
      | _, _ => .next (s.modWin launch w fun x => { x with sent := true })

/-- WINDOW_END: the payload stands at an armed destination and its header lands; an unarmed one is left alone (R347). -/
def execWindowEnd (launch w : Nat) (s : State) : Out :=
  match s.winDue launch w fun x => x.len + s.winH launch x with
  | none => .next s
  | some (_, x) =>
    if !x.sent ∨ x.ended then .next s
    else
      let s1 := s.modWin launch w fun x => { x with ended := true, data := [] }
      match x.recv, s1.standMember launch x.dst with
      | some (o, tag), some a =>
        .next ((s1.modCore a fun c => c.storeLocal o x.data).landExchange a tag (x.header.getD 0))
      | _, _ => .next s1

/-! ## The chime (R18 to R20, R110, R348, R352) -/

def execChime (s : State) : Out :=
  s.notInHandler (s.notInTx (s.inStand fun _ => .next (s.block (.chime none))))

def execChimex (layer : Src) (s : State) : Out :=
  s.notInHandler (s.notInTx (s.inStand fun _ => s.issue [layer] (namesOf [layer])
    (let v := s.core.value layer
     if fld v 63 16 ≠ 0 then .next (s.trap fmtFlt) else .next (s.block (.chime (some (v.setWidth 16)))))))

/-- An `xput` of a core is not complete (R18). -/
def Core.xputOpen (c : Core) : Bool :=
  c.chan.any fun o => match o.instr with | .xput _ _ => !o.done | _ => false

/-- The release of a core at a chime finds its accesses done: those of global memory are performed, those of its vector
queue have run, and its remote stores have landed (R20, R103, R156). -/
def Core.accessesLanded (c : Core) : Bool :=
  c.accessesDone false && c.localsDone
    && !c.entries.any fun e => match e.instr with | .rput _ _ _ => !e.started | _ => false

/-- A member has arrived at the chime, or has ended (R18, R113). -/
def Core.atChime (c : Core) : Bool :=
  (match c.run with
    | .blocked (.chime _) => true
    | .ended => true
    | _ => false) && !c.xputOpen && c.accessesLanded

/-- The layer that a blocked member gives; of an ended one nothing. -/
def Core.chimeLayer (c : Core) : List (Option (BitVec 16)) :=
  match c.run with
  | .blocked (.chime l) => [l]
  | _ => []

/-- This module is one of those that an admitted stand spans, and none of its teams lies here: its share is nothing, and
has arrived at every chime (R372, R418). -/
def State.emptyShare (s : State) (l : Launch) : Bool :=
  l.spans && l.admitted && (s.standMembers l.id).isEmpty && decide (l.modBase ≤ s.self ∧ s.self ≤ l.modBase + l.nmod)
    && !s.saved.any fun v => v.launch == l.id

/-- The share of a stand on this module has arrived. -/
def State.shareArrived (s : State) (l : Launch) : Bool :=
  let cs := (s.standMembers l.id).map s.getCore
  (!cs.isEmpty || (s.emptyShare l && l.released.isSome)) && cs.all Core.atChime && l.wins.all (fun w => w.ended || !s.winHere l.id w)

/-- Every member's release at its chime (R20). -/
def State.shareRelease (s : State) (l : Launch) : State :=
  (s.standMembers l.id).foldl (fun s a => s.release a l.scope) s

/-- The layers given on this module. -/
def State.shareLayers (s : State) (l : Launch) : List (Option (BitVec 16)) :=
  (s.standMembers l.id).flatMap fun a => (s.getCore a).chimeLayer

/-- The place of a chime among distinct ones: `chime`, then `chimex` by its layer. -/
def chimeKey : Option (BitVec 16) → Nat
  | none => 0
  | some v => v.toNat + 1

/-- The chimes of a list, each once. -/
def distinctChimes (xs : List (Option (BitVec 16))) : List (Option (BitVec 16)) :=
  xs.foldl (fun ys x => upsert chimeKey x ys) []

/-- What the other modules of a stand have told this one, its chime root. -/
def State.chimesOf (s : State) (launch : Nat) : List (Nat × List (Option (BitVec 16))) :=
  (s.ports.chimes.filter fun p => p.1 == launch).map fun p => (p.2.1, p.2.2)

/-- This module holds the chime root of a stand. -/
def State.isRoot (s : State) (l : Launch) : Bool := !l.spans || l.modBase == s.self

/-- Every module of a stand has told the root of its arrival. -/
def State.modulesArrived (s : State) (l : Launch) : Bool :=
  (s.standModules l).all fun m => (s.chimesOf l.id).any fun p => p.1 == m

/-- Staged tables that a layer reaches become active (R318). -/
def Die.activate (d : Die) (launch : Nat) (layer : BitVec 16) : Die :=
  let due (t : Table) : Bool := t.launch == launch && !t.active && decide ((layer - t.layer).toNat < 2 ^ 15)
  let kept := d.tables.filter fun t => !(t.launch == launch && t.active && d.tables.any fun u => due u && u.slot == t.slot)
  { d with tables := kept.map fun t => if due t then { t with active := true } else t }

/-- The chime of a stand opens on this module: the superstep rises, windows count afresh, tables become active, and
every blocked member goes on, all in one cycle (R18, R19, R20, R318). -/
def State.chimeOpen (s : State) (l : Launch) (layer : Option (BitVec 16)) : State :=
  let members := s.standMembers l.id
  let s2 := s.setLaunch { l with superstep := l.superstep + 1, released := some s.time, wins := l.wins.map Win.fresh
                                 chimeSent := false, told := none }
  let s3 := match layer with
    | some v => { s2 with dies := s2.dies.map fun (d : Die) => d.activate l.id v }
    | none => s2
  let s4 := s3.modPorts fun p => { p with chimes := p.chimes.filter fun q => q.1 != l.id }
  members.foldl (fun s a =>
    match (s.getCore a).run with
    | .blocked (.chime _) => (s.acquire a l.scope).modCore a Core.wake
    | _ => s) s4

/-- A core raises a fault at its own chain. -/
def State.faultHere (s : State) (a : Agent) (f : Flt) : State :=
  s.faultAt a (s.getCore a).pc f (s.getCore a).pc none []

/-- The chimes given agree. -/
def agree (layers : List (Option (BitVec 16))) : Bool := layers.all fun x => some x == layers.head?

/-- Every member of a stand on this module that has not ended raises TEAM, and its chime does not release (R352): the
arrivals told so far are over. -/
def State.chimeClash (s : State) (l : Launch) : State :=
  let s1 := (s.setLaunch { l with chimeSent := false, told := none }).modPorts fun p =>
    { p with chimes := p.chimes.filter fun q => q.1 != l.id }
  (s1.standMembers l.id).foldl (fun s a =>
    if (s.getCore a).chimeLayer.isEmpty then s else s.faultHere a { code := .team }) s1

/-- The share of a module that is not the chime root, once it has arrived: it tells the root so once, with the chimes
that its members give, and opens where the root's release has come (R26, R352, R418). -/
def State.shareStep (s : State) (l : Launch) : State :=
  match l.told with
  | some layer => s.chimeOpen l layer
  | none =>
    if l.chimeSent ∨ s.ports.linkup = 0 then s
    else (s.setLaunch { l with chimeSent := true }).send (.chimearr l.modBase l.id (distinctChimes (s.shareLayers l)))

/-- The chime root's word goes to every other module of a stand. -/
def State.tellChime (s : State) (l : Launch) (release : Option (Option (BitVec 16))) : State :=
  (s.standModules l).foldl (fun s m => s.send (.chimerel m l.id release)) s

/-- The chime root's step, once every share has arrived: the chimes given agree, or every member of every module raises
TEAM (R352). DEDUCED: log entry 59. -/
def State.rootStep (s : State) (l : Launch) : State :=
  let all := s.shareLayers l ++ (s.chimesOf l.id).flatMap Prod.snd
  match all with
  | [] => s
  | layer :: _ =>
    if agree all then (s.tellChime l (some layer)).chimeOpen l layer
    else (s.tellChime l none).chimeClash l

/-- CHIME_RELEASE: the last member has arrived. Its members' releases are performed first, and at system scope
acknowledged (R20, R156); on a module that is not the root its arrival is sent there once (R418).
DEDUCED: log entry 59. -/
def execChimeRelease (launch : Nat) (s : State) : Out :=
  match s.launchOf launch with
  | none => .next s
  | some l =>
    if !s.shareArrived l then .next s
    else
      let s1 := s.shareRelease l
      if !s1.releaseDone l.scope then .next s1
      else if !s1.isRoot l then .next (s1.shareStep l)
      else if s1.modulesArrived l then .next (s1.rootStep l)
      else .next s1

/-- A member of an admitted stand awaits the start release: it has its task and has issued nothing (R348). -/
def Core.awaitsStart (c : Core) : Bool := decide (c.run = .idle) && c.task.isSome

/-- The members of a stand issue their first chains, and its windows count from here (R348). -/
def State.openStart (s : State) (l : Launch) : State :=
  let s1 := s.setLaunch { l with released := some s.time, wins := l.wins.map Win.fresh, chimeSent := false, told := none }
  let s2 := s1.modPorts fun p => { p with chimes := p.chimes.filter fun q => q.1 != l.id }
  (s2.standMembers l.id).foldl (fun s a => s.modCore a fun c => if c.awaitsStart then { c with run := .running } else c) s2

/-- START_RELEASE: every member of a stand has completed the steps of its start. A stand that spans modules is started
by its chime root (R348). -/
def execStartRelease (launch : Nat) (s : State) : Out :=
  match s.launchOf launch with
  | none => .next s
  | some l =>
    let members := s.standMembers launch
    if l.released.isSome ∨ !l.admitted ∨ (members.isEmpty ∧ !s.emptyShare l) ∨ !members.all (fun a => (s.getCore a).awaitsStart) then .next s
    else if s.isRoot l then
      (if s.modulesArrived l then
        .next ((s.tellChime l (some none)).openStart l)
       else .next s)
    else if l.chimeSent ∨ s.ports.linkup = 0 then .next s
    else .next ((s.setLaunch { l with chimeSent := true }).send (.chimearr l.modBase launch [none]))

/-- CHIMEARR: another module's arrival at a chime whose root is here (R418). -/
def execChimearr (launch module : Nat) (given : List (Option (BitVec 16))) (s : State) : Out :=
  .next (s.modPorts fun p => { p with chimes := p.chimes ++ [(launch, module, given)] })

/-- CHIMEREL: the word of the root of a stand: the release with its layer id, before the first superstep the start
release, or that the chimes given differ (R348, R352, R418). A parked member holds a release up (R26).
DEDUCED: log entry 59. -/
def execChimerel (launch : Nat) (release : Option (Option (BitVec 16))) (s : State) : Out :=
  match s.launchOf launch with
  | none => .next s
  | some l =>
    if s.isRoot l ∨ !l.chimeSent then .next s
    else match release with
    | none => .next (s.chimeClash l)
    | some layer =>
      if l.released.isNone then .next (s.openStart l)
      else if s.shareArrived l then .next (s.chimeOpen l layer)
      else .next (s.setLaunch { l with told := some layer })

/-! ## Counted transfers (R353, R354) -/

def xpLa (r : List Word) : Nat := fld (wordAt r 0) 23 0
def xpCore (r : List Word) : Nat := fld (wordAt r 0) 35 24
def xpMod (r : List Word) : Nat := fld (wordAt r 0) 44 36
def xpCap (r : List Word) : Nat := fld (wordAt r 1) 31 0
def xpEidx (r : List Word) : Nat := fld (wordAt r 2) 9 0
def xpEsc (r : List Word) : Bool := (wordAt r 2).getLsbD 10
def xpScope (r : List Word) : Scope := scopeOf (fld (wordAt r 2) 12 11)

/-- The fields of an `xput` record are in range (R353). -/
def xputRecOk (r : List Word) : Bool :=
  fld (wordAt r 0) 63 45 == 0 && xpLa r % 8 == 0 && 0x4800 ≤ xpLa r % 2 ^ 21 && fld (wordAt r 1) 63 32 == 0 && 8 ≤ xpCap r
    && fld (wordAt r 2) 63 14 == 0 && wordAt r 3 == 0

/-- A local span of n bytes at a base whose start has been checked (R242). -/
def Core.spanCheck (c : Core) (x : Word) (n : Nat) (store : Bool) : Res Unit :=
  let o := fld x 20 0
  if fld x 63 24 ≠ 0 ∨ c.top < o + n then .bad { code := .carve, detail := x }
  else if c.rangeLocked false o n store then .bad { code := .rangelock, detail := x }
  else .ok ()

/-- The checks of `xput`: both local spans, the fields, and a destination on this module (R353): the record and COUNT.
DEDUCED: log entry 30. -/
def State.xputCheck (s : State) (src drec : Word) : Res (List Word × Nat) :=
  let c := s.core
  (c.recordCheck src 8 false).andThen fun o =>
  let count := (c.scratch.word o).toNat
  (if 2 ^ 24 < count then .ok () else c.spanCheck src (8 + count) false).andThen fun _ =>
  (c.recordCheck drec 32 false).andThen fun p =>
  let r := c.scratch.words p 4
  if !xputRecOk r ∨ 2 ^ 24 < count then .bad fmtFlt
  else if xpMod r = s.self ∧ !s.isPartner c (xpCore r) then .bad { code := .remote }
  else .ok (r, count)

/-- An operation that takes a transfer id and one entry of the table for each of its local source spans that holds bytes
(R167, R170, R227). DESIGN CHOICE: log entry 67. -/
def State.sendIssue (s : State) (i : Instr) (ops recs : List Word) (sc : Scope) (spans : List Span) : Out :=
  let c := s.core
  if !c.idFree ∨ !c.lockRoom spans then s.stallLocks (c.lockRoom spans)
  else
    let op : EngOp := { id := c.csr.xnext, tag := s.serial, instr := i, addr := c.pc, ops := ops, recs := recs, scope := sc }
    let c1 := c.takeId.addLocks op.tag spans
    .next (({ s with serial := s.serial + 1, core := { c1 with chan := c1.chan ++ [op] } } : State).result
      (op.id.setWidth 64))

def execXput (src drec : Src) (s : State) : Out :=
  let c := s.core
  s.notInTx (s.engineIssue [src, drec] (namesOf [src, drec])
    (s.check (s.xputCheck (c.value src) (c.value drec)) fun (r, count) =>
      s.sendIssue (.xput src drec) [c.value src, BitVec.ofNat 64 count] r (xpScope r)
        [{ dst := false, glob := false, base := fld (c.value src) 20 0, len := 8 + count }]))

/-- The bytes of a counted transfer as they arrive: the header and the payload (R353). -/
def xputBytes (count n : Nat) (payload : List Byte) : List Byte :=
  bytesOfNat 8 (count + if n < count then 2 ^ 63 else 0) ++ payload.take n

/-- The outcome of a delivery is noted for CHANNEL_OPERATION_COMPLETES; the locks of the operation end before anything
signals it (R169, R229). -/
def State.delivered (s : State) (a : Agent) (op : EngOp) (st part : Nat) : State :=
  s.modCore a fun c => (c.putOp { op with moved := true, status := st, part := part }).freeLocks op.tag

/-- REMOTE at the issuer's supervisor, for a refused transfer. -/
def State.refusedNotice (s : State) (a : Agent) (op : EngOp) : State :=
  s.notice (s.getCore a) .remote (wordAt op.recs 0) (op.id.setWidth 64)

/-- A core of another module is outside the stand of an `xput`: the issuer is in none, or its stand does not reach that
module, or no module has such a core (R354). -/
def State.outOfStand (s : State) (c : Core) (module core : Nat) : Bool :=
  match s.stand c with
  | none => true
  | some l => decide (module < l.modBase) || decide (l.modBase + l.nmod < module) || decide (2560 ≤ core)

/-- The bytes of an `xput` travel to another module as writes of one line each, by their place in the destination's
scratch (R416, R418). -/
def State.sendPut (s : State) (r : List Word) (bs : List Byte) : State :=
  let o := fld (wordAt r 0) 20 0
  (lineParts o bs.length).foldl (fun s p =>
    s.send (.put (xpMod r) (xpCore r) p.1 ((bs.drop (p.1 - o)).take p.2))) s

/-- An `xput` to another module: its bytes travel, and after them the update of the destination's escapement (R418). A
core outside the stand and a span beyond every carve are refused; whether another is, and how far a refused one came,
only the destination knows (R354). DEDUCED: log entry 30. -/
def State.putFar (s : State) (a : Agent) (op : EngOp) (count n : Nat) (bs : List Byte) : State :=
  let r := op.recs
  let s1 := (s.sendPut r bs).useFree 1
  if s.outOfStand (s.getCore a) (xpMod r) (xpCore r) then (s1.refusedNotice a op).delivered a op 3 0
  else if 47 * 0x4000 < fld (wordAt r 0) 20 0 + 8 + n ∨ Config.freeBool s.free then
    (s1.refusedNotice a op).delivered a op 3 (Config.farBytes s.free % (8 + n))
  else
    let s2 := s1.delivered a op (if n < count then 4 else 0) (if n < count then count - n else 0)
    if xpEsc r then s2.send (.count (xpMod r) (xpCore r) (xpEidx r) (8 + n)) else s2

/-- XPUT_DELIVERY: the bytes arrive at the destination, the operation's locks end, then the destination's escapement is
updated (R169, R229, R353, R354). -/
def execXputDelivery (a : Agent) (id : Word32) (s : State) : Out :=
  match (s.getCore a).chanFind id with
  | none => .next s
  | some op =>
    match op.instr with
    | .xput _ _ =>
      if op.moved ∨ op.done then .next s
      else
        let r := op.recs
        let count := (op.ops.getD 1 0).toNat
        let n := min count (xpCap r - 8)
        let bs := xputBytes count n ((s.getCore a).scratch.readBytes (fld (op.ops.getD 0 0) 20 0 + 8) count)
        let st := if n < count then 4 else 0
        let o := fld (wordAt r 0) 20 0
        if xpMod r = s.self then
          let d : Agent := .tile (xpCore r)
          if (s.getCore d).refuses o (8 + n) then .next ((s.refusedNotice a op).delivered a op 3 0)
          else
            let s1 := (s.modCore d fun c => c.storeLocal o bs).delivered a op st (if n < count then count - n else 0)
            .next (if xpEsc r then
              s1.modCore d fun c => (c.noteScope (xpEidx r) op.scope).bytesOn (xpEidx r) s.time (-(8 + n : Nat))
            else s1)
        else if s.ports.linkup = 0 then .next ((s.refusedNotice a op).delivered a op 3 0)
        else .next (s.putFar a op count n bs)
    | _ => .next s

/-! ## Remote scratch (R355, R356) -/

/-- The checks of a scratch handle. -/
def State.handleCheck (s : State) (sh : Word) (off : Int) : Res Unit :=
  if fld sh 63 36 ≠ 0 then .bad fmtFlt
  else if (sh + BitVec.ofInt 64 off).toNat % 8 ≠ 0 then .bad { code := .align }
  else if s.isPartner s.core (fld sh 35 24) then .ok ()
  else .bad { code := .remote }

def execRput (sh val : Src) (off : Int) (s : State) : Out :=
  let c := s.core
  s.notInTx (s.issue [sh, val] (namesOf [sh, val])
    (s.check (s.handleCheck (c.value sh) off) fun _ =>
      if !c.entryRoom then s.stall
      else .next (s.enter { tag := 0, instr := .rput sh val off, addr := 0
                            ops := { a := c.value sh, b := c.value val } }).retire))

def execRget (d : Dst) (sh : Src) (s : State) : Out :=
  let c := s.core
  s.notInTx (s.issue [sh] (nameDst d :: namesOf [sh])
    (s.check (s.handleCheck (c.value sh) 0) fun _ =>
      if !c.entryRoom then s.stall
      else .next (s.enterLeased { tag := 0, instr := .rget d sh, addr := 0
                                  ops := { a := BitVec.ofNat 64 d.code, b := c.value sh } } (some (nameDst d))).retire))

/-- RPUT_LANDING: a remote store lands at its target, or the refusal parks its sender (R355). -/
def execRputLanding (a : Agent) (tag : Nat) (s : State) : Out :=
  let c := s.getCore a
  match c.entry tag with
  | some e =>
    match e.instr with
    | .rput _ _ _ =>
      if e.started ∨ c.rputBefore tag (fld e.ops.a 35 24) then .next s else s.entryStep a tag (s.runRput a e)
    | _ => .next s
  | none => .next s

/-- RPUT_ACKNOWLEDGEMENT: the target's answer ends the sender's entry. -/
def execRputAcknowledgement (a : Agent) (tag : Nat) (s : State) : Out :=
  match (s.getCore a).entry tag with
  | some e =>
    match e.instr with
    | .rput _ _ _ => if e.started then .next (s.modCore a fun c => c.dropEntry tag) else .next s
    | _ => .next s
  | none => .next s

/-- RGET_REPLY: the bytes arrive and the lease ends (R355). -/
def execRgetReply (a : Agent) (tag : Nat) (s : State) : Out :=
  let c := s.getCore a
  match c.entry tag with
  | some e =>
    match e.instr with
    | .rget _ _ => if c.rputBefore tag (fld e.ops.b 35 24) then .next s else s.entryStep a tag (s.runRget a e)
    | _ => .next s
  | none => .next s

end Sys2Proof.Machine
end

