-- ==== Sys2Proof/Machine/Queues.lean ====
section
/-! DEFINITION. Hardware queues and tile walks (14_exchange.md, R357 to R362): the second half of page 8, and the steps
that deliver records and tiles. -/

namespace Sys2Proof.Machine

/-! ## Handles (R360) -/

def hdMod (h : Word) : Nat := fld h 40 32
def hdGen (h : Word) : Nat := fld h 30 15
def hdIdx (h : Word) : Nat := fld h 14 0
/-- A handle's zero bits. -/
def handleOk (h : Word) : Bool := fld h 63 41 == 0 && !h.getLsbD 31

/-- The record that `renq` and `launch` send, after their checks (R361). -/
def Core.renqCheck (c : Core) (handle rec_ : Word) : Res (List Word) :=
  (c.recordCheck rec_ 256 false).andThen fun o =>
  if handleOk handle then .ok (c.scratch.words o 32) else .bad fmtFlt

/-- The fields of a `wenq` record are in range (R361). -/
def wenqRecOk (r : List Word) : Bool :=
  fld (wordAt r 0) 63 24 == 0 && fld (wordAt r 1) 63 17 == 0 && fld (wordAt r 1) 16 0 ≤ 65536 && fld (wordAt r 2) 63 52 == 0
    && wordAt r 3 == 0

/-- The record that `wenq` sends, after its checks: its own span, the fields, and the payload's span. -/
def Core.wenqCheck (c : Core) (handle rec_ : Word) : Res (List Word) :=
  (c.recordCheck rec_ 96 false).andThen fun o =>
  let r := c.scratch.words o 12
  if !handleOk handle ∨ !wenqRecOk r then .bad fmtFlt
  else (c.spanCheck (wordAt r 0) (fld (wordAt r 1) 16 0) false).andThen fun _ => .ok r

/-- A 256 B record is sent to a queue; a `launch` also sends its shape variables (R361, R376). -/
def State.queueSend (s : State) (i : Instr) (handle rec_ : Src) (sv : List Word) : Out :=
  let c := s.core
  s.notInTx (s.engineIssue [handle, rec_] (namesOf [handle, rec_])
    (s.check (c.renqCheck (c.value handle) (c.value rec_)) fun r =>
      s.sendIssue i ([c.value handle, c.value rec_] ++ sv) r .sys
        [{ dst := false, glob := false, base := fld (c.value rec_) 20 0, len := 256 }]))

def execRenq (handle rec_ : Src) (s : State) : Out := s.queueSend (.renq handle rec_) handle rec_ []

def execWenq (target rec_ : Src) (s : State) : Out :=
  let c := s.core
  s.notInTx (s.engineIssue [target, rec_] (namesOf [target, rec_])
    (s.check (c.wenqCheck (c.value target) (c.value rec_)) fun r =>
      s.sendIssue (.wenq target rec_) [c.value target, c.value rec_] r .sys
        [{ dst := false, glob := false, base := fld (c.value rec_) 20 0, len := 96 },
         { dst := false, glob := false, base := fld (wordAt r 0) 20 0, len := fld (wordAt r 1) 16 0 }]))

/-! ## Delivery (R361) -/

/-- The payload of a `wenq` is a write by the space of the queue's owner at a place that its team holds, or held when it
was saved. -/
def State.queueAgent (s : State) (q : Queue) : Agent :=
  match (s.teams ++ s.saved.flatMap Saved.teams).find? fun t => t.id == q.team with
  | some t => t.member 0
  | none => .tile (coreAt 0 0 0)

/-- The core that a fault of a payload is told of: the owner team's first, as it is, or as it was saved. -/
def State.queueCore (s : State) (q : Queue) : Core :=
  let a := s.queueAgent q
  match s.saved.find? fun v => v.teams.any fun t => t.id == q.team with
  | some v => (v.cores.find? fun c => c.who == a).getD (s.getCore a)
  | none => s.getCore a

/-- The binding of a queue takes an operation: a `launch` only a dispatcher's, a `wenq` only a team's. -/
def takes (i : Instr) (q : Queue) : Bool :=
  match i with
  | .launch _ _ => !q.teamBound
  | .wenq _ _ => q.teamBound
  | _ => true

/-- A record as its queue keeps it: of a team-bound queue 64 bytes. -/
def Queue.keep (q : Queue) (bs : List Byte) (sv : List Word) : QRec :=
  { bytes := bs.take q.recBytes, sv := if sv.isEmpty then List.replicate 32 0 else sv }

/-- Add a record to a queue. -/
def State.enqueueRec (s : State) (q : Queue) (bs : List Byte) (sv : List Word) : State :=
  s.setQueue { q with recs := q.recs ++ [q.keep bs sv] }

/-- The record bytes that an operation carries, and its payload's address and length. -/
def EngOp.record (o : EngOp) : List Byte :=
  match o.instr with
  | .wenq _ _ => bytesOfWords64 (o.recs.drop 4)
  | _ => bytesOfWords64 o.recs

/-- A queue operation of the channel (R361, R376). -/
def EngOp.isQueue (o : EngOp) : Bool :=
  match o.instr with
  | .renq _ _ | .wenq _ _ | .launch _ _ => true
  | _ => false

/-- An earlier record of the core to the same queue has not been enqueued. -/
def Core.queueBefore (c : Core) (op : EngOp) : Bool :=
  (c.chan.takeWhile fun o => o.id != op.id).any fun o =>
    o.isQueue && !o.done && hdMod (wordAt o.ops 0) == hdMod (wordAt op.ops 0) && hdIdx (wordAt o.ops 0) == hdIdx (wordAt op.ops 0)

/-- A queue operation completes with a status. -/
def State.queueDone (s : State) (a : Agent) (op : EngOp) (st part : Nat) : State := s.completeId a op st part false fun s => s

/-- A queue as a handle meets it: none where generation or binding does not match. -/
def State.queueFor (s : State) (h : Word) (i : Instr) : Option Queue :=
  let q := s.queue (hdIdx h)
  if q.en && q.gen == hdGen h && takes i q then some q else none

/-- The end of a payload: written, or the bytes written before a fault. -/
abbrev PayloadEnd := Option (Nat × Flt)

/-- The payload of a `wenq` is written at the target, page by page: the bytes written before a fault, and the fault. It
waits for memory that is not ready (R415). DEDUCED: log entry 32. -/
def State.writePayload (s : State) (q : Queue) (va : Nat) (bs : List Byte) : Res (State × PayloadEnd) :=
  match s.engWrite (s.queueAgent q) (s.queueAsid q) .sys va bs with
  | (s1, some (.bad f)) => .ok (s1, some (f.detail.toNat - va, f))
  | (_, some .wait) => .wait
  | (s1, _) => .ok (s1, none)

/-- The fault of a payload is told to the target's supervisor (R361). -/
def State.payloadFault (s : State) (q : Queue) (f : Flt) (id : Word32) : State :=
  s.noticeFlt (s.queueCore q) f (id.setWidth 64)

/-- A record goes to another module's queue, with the payload of a `wenq`; where no link is up it fails (R419). -/
def State.sendRecord (s : State) (a : Agent) (op : EngOp) (payload : Option (Nat × List Byte)) : State :=
  let h := wordAt op.ops 0
  if s.ports.linkup = 0 then s.queueDone a op 3 0
  else (s.send (.qrec (hdMod h) op.id h op.record (op.ops.drop 2) payload)).modCore a fun c => c.putOp { op with moved := true }

/-- What a `wenq` carries before its record: the destination and the payload (R361). -/
def Core.payloadOf (c : Core) (op : EngOp) : Option (Nat × List Byte) :=
  match op.instr with
  | .wenq _ _ => some (fld (wordAt op.recs 2) 51 0,
      c.scratch.readBytes (fld (wordAt op.recs 0) 20 0) (fld (wordAt op.recs 1) 16 0))
  | _ => none

/-- A payload that an operation has still to write: status 128 marks one that is written. -/
def EngOp.owes (op : EngOp) (payload : Option (Nat × List Byte)) : Option (Nat × List Byte) :=
  if op.status = 128 then none else payload

/-- ENQUEUE: a record reaches its queue, on this module or by the fabric; a payload is performed at system scope first
(R361). One that awaits another module's answer fails where no link is up any more (R419). DEDUCED: log entries 25,
32. -/
def execEnqueue (a : Agent) (id : Word32) (s : State) : Out :=
  let c := s.getCore a
  match c.chanFind id with
  | none => .next s
  | some op =>
    if op.isQueue ∧ op.moved ∧ !op.done ∧ s.ports.linkup = 0 then .next (s.queueDone a op 3 0)
    else if !op.isQueue ∨ op.done ∨ op.moved ∨ c.queueBefore op then .next s
    else if hdMod (wordAt op.ops 0) ≠ s.self then .next (s.sendRecord a op (c.payloadOf op))
    else
      match s.queueFor (wordAt op.ops 0) op.instr with
      | none => .next (s.queueDone a op 2 0)
      | some q =>
        match op.owes (c.payloadOf op) with
        | some (va, bs) =>
          (match s.writePayload q va bs with
          | .ok (s1, some (n, f)) => .next ((s1.payloadFault q f id).queueDone a op 3 n)
          | .ok (s1, none) => .next (s1.modCore a fun c => c.putOp { op with status := 128 })
          | _ => .next s)
        | none =>
          if q.room ∧ s.releaseDone .sys then .next ((s.enqueueRec q op.record (op.ops.drop 2)).queueDone a op 0 0)
          else .next s

/-- The kind of an incoming record: of a `wenq` where it brings a payload, of a `launch` where it brings shape
variables. -/
def recordKind (sv : List Word) (payload : Option (Nat × List Byte)) : Instr :=
  match payload, sv with
  | some _, _ => .wenq (.t 0) (.t 0)
  | none, _ :: _ => .launch (.t 0) (.t 0)
  | none, [] => .renq (.t 0) (.t 0)

/-- QREC: a record from another module reaches its queue; its status goes back (R361, R418). A record that must wait,
for a free place or for memory, has not come yet (log entry 48). DEDUCED: log entry 32. -/
def execQrec (from_ : Nat) (handle : Word) (rec_ : FarRecord) (sv : List Word) (s : State) : Out :=
  match s.queueFor handle (recordKind sv rec_.payload) with
  | none => .next (s.send (.qack from_ rec_.id 1))
  | some q =>
    match (match rec_.payload with | some (va, bs) => s.writePayload q va bs | none => .ok (s, none)) with
    | .ok (s1, some (_, f)) => .next ((s1.payloadFault q f rec_.id).send (.qack from_ rec_.id 2))
    | .ok (s1, none) =>
      if q.room ∧ (rec_.payload.isNone ∨ s1.releaseDone .sys) then
        .next ((s1.enqueueRec q rec_.bytes sv).send (.qack from_ rec_.id 0))
      else .next (if rec_.payload.isNone then s else s1)
    | _ => .next s

/-- QACK: another module's answer to a record completes its id (R418). -/
def execQack (a : Agent) (id : Word32) (code : Fin 4) (s : State) : Out :=
  match (s.getCore a).chanFind id with
  | none => .next s
  | some op =>
    if !op.isQueue ∨ !op.moved ∨ op.done then .next s
    else match code with
    | 0 => .next (s.queueDone a op 0 0)
    | 1 => .next (s.queueDone a op 2 0)
    | _ => .next ((s.useFree 1).queueDone a op 3 (Config.farBytes s.free))

/-! ## Pops (R362) -/

/-- The queue bound to a core's team. DEDUCED: log entry 34. -/
def State.boundQueue (s : State) (c : Core) : Option Queue :=
  match c.task with
  | some t => s.queues.find? fun q => q.en && q.teamBound && q.team == t.team
  | none => none

/-- Take the oldest record of a queue for a core: the record bytes stand at dst, an acquire at system scope, and the pop
value. -/
def State.pop (s : State) (a : Agent) (q : Queue) (r : QRec) (rest : List QRec) (o : Nat) : State :=
  let s1 := ((s.setQueue { q with recs := rest }).modCore a fun c => c.storeLocal o r.bytes).acquire a .sys
  s1.modCore a fun c => c.push (BitVec.ofNat 64 (2 ^ 32 + rest.length))

/-- The checks of a pop: a bound queue, then the 64 bytes at dst. -/
def State.popCheck (s : State) (dst : Word) : Res (Queue × Nat) :=
  match s.boundQueue s.core with
  | none => .bad fmtFlt
  | some q => (s.core.recordOut dst 64).andThen fun o => .ok (q, o)

/-- DEDUCED: log entry 32. -/
def execQpop (dst : Src) (s : State) : Out :=
  let c := s.core
  s.notInHandler (s.notInTx (s.inTeam (s.engineIssue [dst] (namesOf [dst])
    (s.check (s.popCheck (c.value dst)) fun (q, o) =>
      match q.recs with
      | [] => .next (s.block (.qpop (c.value dst)))
      | r :: rest => .next (s.pop c.who q r rest o).retire))))

/-- DEDUCED: log entry 32. -/
def execQtry (dst : Src) (s : State) : Out :=
  let c := s.core
  s.notInTx (s.inTeam (s.engineIssue [dst] (namesOf [dst])
    (s.check (s.popCheck (c.value dst)) fun (q, o) =>
      match q.recs with
      | [] => .next (s.result 0)
      | r :: rest => .next (s.pop c.who q r rest o).retire)))

/-- A member of lower rank waits for a record of the same queue (R362). -/
def State.popBefore (s : State) (c : Core) : Bool :=
  match c.task with
  | none => false
  | some t => s.cores.any fun d => match d.run, d.task with
    | .blocked (.qpop _), some u => u.team == t.team && decide (u.rank < t.rank)
    | _, _ => false

/-- QPOP_WAKE: a record has arrived for a blocked `qpop` (R21, R362). -/
def execQpopWake (a : Agent) (s : State) : Out :=
  let c := s.getCore a
  match c.run with
  | .blocked (.qpop dst) =>
    match s.boundQueue c with
    | some q =>
      match q.recs with
      | [] => .next s
      | r :: rest => if s.popBefore c then .next s else .next ((s.pop a q r rest (fld dst 20 0)).modCore a Core.wake)
    | none => .next s
  | _ => .next s

/-! ## Tile walks (R357 to R359) -/

def wkLrec (r : List Word) : Word := BitVec.ofNat 64 (fld (wordAt r 0) 23 0)
def wkNt (r : List Word) : Nat := fld (wordAt r 1) 15 0
def wkSd (r : List Word) : Nat := fld (wordAt r 1) 18 16
def wkStore (r : List Word) : Bool := (wordAt r 1).getLsbD 19
def wkWid (r : List Word) : Nat := fld (wordAt r 1) 22 20
def wkX0 (r : List Word) : Nat := fld (wordAt r 2) 4 0
def wkY0 (r : List Word) : Nat := fld (wordAt r 2) 9 5
def wkW (r : List Word) : Nat := fld (wordAt r 2) 14 10
def wkH (r : List Word) : Nat := fld (wordAt r 2) 19 15
def wkRing (r : List Word) : Nat := fld (wordAt r 3) 20 0
def wkSlots (r : List Word) : Nat := fld (wordAt r 3) 27 24 + 1
def wkSb (r : List Word) : Nat := fld (wordAt r 3) 47 28
def wkEidx (r : List Word) : Nat := fld (wordAt r 3) 57 48
def wkEsc (r : List Word) : Bool := (wordAt r 3).getLsbD 58

/-- The bytes of a tile. -/
def tileBytes (lay : Layout) : Nat := Lay.count lay / Lay.kb lay * Lay.ub lay

/-- The cores of a walk's rectangle on a die. -/
def wkCores (die : Nat) (r : List Word) : List Nat :=
  (List.range (wkH r)).flatMap fun y => (List.range (wkW r)).map fun x => coreAt die (wkX0 r + x) (wkY0 r + y)

/-- A core of the team of a core's task. -/
def State.inOwnTeam (s : State) (c : Core) (id : Nat) : Bool :=
  match s.teamFor c with
  | some t => t.members.contains (.tile id)
  | none => false

/-- The fields of a walk's records meet R357. -/
def State.walkOk (s : State) (r : List Word) (lay : Layout) : Bool :=
  let c := s.core
  let cores := wkCores (dieOf c.who) r
  fld (wordAt r 0) 63 24 == 0 && fld (wordAt r 1) 63 23 == 0 && fld (wordAt r 2) 63 20 == 0 && fld (wordAt r 3) 63 59 == 0
    && 1 ≤ wkNt r && 1 ≤ wkW r && 1 ≤ wkH r && wkX0 r + wkW r ≤ 16 && wkY0 r + wkH r ≤ 20
    && cores.all (s.inOwnTeam c) && (!wkStore r || (wkW r == 1 && wkH r == 1))
    && fld (wordAt r 3) 23 0 % 16 == 0 && 0x4800 ≤ wkRing r && wkSb r % 16 == 0
    && (Lay.firstBad lay (wkStore r) (Lay.block lay)).isNone && Lay.space lay == 0 && Lay.eidx lay == 0 && !Lay.esc lay
    && !Lay.irq lay && Lay.fill lay == 0 && decide (wkSd r < Lay.rank lay) && decide (tileBytes lay ≤ wkSb r)
    && !c.walks.any (fun w => w.wid == wkWid r)
    && cores.all fun id => decide (wkRing r + wkSlots r * wkSb r ≤ (s.getCore (.tile id)).top)

/-- The checks of `walk` (R242, R357): its record, its layout record, and where the layout record's window stands.
DEDUCED: log entry 72. -/
def State.walkCheck (s : State) (rec_ : Word) : Res (List Word × Layout) :=
  let c := s.core
  (c.recordCheck rec_ 32 false).andThen fun o =>
  let r := c.scratch.words o 4
  (c.readRecord (wkLrec r)).andThen fun lay =>
  if s.walkOk r lay then (s.placeCheck lay).andThen fun _ => .ok (r, lay) else .bad fmtFlt

/-- The walks that run on the engines of a cluster's router. -/
def State.clusterWalks (s : State) (cid : Nat) : Nat :=
  (List.range 4).foldl (fun n q => n + (s.getCore (.tile (4 * cid + q))).walks.length) 0

/-- The cluster of an agent; of a supervisor core none. -/
def clusterOfAgent : Agent → Nat
  | .tile id => clusterOf id
  | .sup _ => 640

def execWalk (rec_ : Src) (s : State) : Out :=
  let c := s.core
  s.notInTx (s.inTeam (s.engineIssue [rec_] (namesOf [rec_])
    (s.check (s.walkCheck (c.value rec_)) fun (r, lay) =>
      if 4 ≤ s.clusterWalks (clusterOfAgent c.who) then s.stall
      else
        let credit := if wkStore r then 0 else wkSlots r
        let w : Walk := { wid := wkWid r, words := r, layout := lay, next := 0
                          credits := (wkCores (dieOf c.who) r).map fun id => (id, credit) }
        .next ({ s with core := { c with walks := c.walks ++ [w] } } : State).retire)))

/-- The walk that `permit` names, where its operands are in range (R359). -/
def State.permitWalk (s : State) (x n : Word) : Option (Agent × Walk × Nat) :=
  let owner : Agent := .tile (fld x 35 24)
  match (s.getCore owner).walks.find? fun w => w.wid == fld x 2 0 with
  | none => none
  | some w =>
    match s.core.who, n.toNat with
    | .tile me, k =>
      match w.credits.find? fun p => p.1 == me with
      | none => none
      | some (_, credit) =>
        if fld x 23 3 = 0 ∧ fld x 63 36 = 0 ∧ 1 ≤ k ∧ k ≤ 16 ∧ credit + k ≤ wkSlots w.words then some (owner, w, k) else none
    | .sup _, _ => none

/-- Put a walk back at its owner. -/
def Core.putWalk (c : Core) (w : Walk) : Core :=
  { c with walks := c.walks.map fun x => if x.wid == w.wid then w else x }

/-- `permit` (R359): a release at die scope, then the credit. -/
def execPermit (walk n : Src) (s : State) : Out :=
  let c := s.core
  s.notInTx (s.inTeam (s.issue [walk, n] (namesOf [walk, n])
    (match s.permitWalk (c.value walk) (c.value n) with
      | none => .next (s.trap fmtFlt)
      | some (owner, w, k) =>
        if !(c.engineReady && c.accessesDone false) then s.stall
        else
          let w1 := { w with credits := w.credits.map fun p => if p.1 == coreId c.who then (p.1, p.2 + k) else p }
          .next (((s.release c.who .die).modCore owner fun d => d.putWalk w1).retire))))

/-- The dense record of a slot: the tile's elements in a row of own scratch, in the record's format. -/
def slotLayout (lay : Layout) (o : Nat) (dst : Bool) : Layout :=
  let w1 := (if dst then 2 ^ 17 else 0) + 2 ^ 15 + 2 ^ 5 + (if Lay.mxi lay then 16 else 0) + Lay.fmtCode lay
  [BitVec.ofNat 64 o, BitVec.ofNat 64 w1, BitVec.ofNat 64 (Lay.count lay), 0, 0, 0, 1, 0, 0, 0, 0x10000, 0]

/-- The coordinates of element j of tile i. -/
def tileCoords (lay : Layout) (sd i j : Nat) : List Int :=
  (Lay.coords lay j).zipIdx.map fun p => if p.2 = sd then p.1 + (i * Lay.win lay sd : Nat) else p.1

/-- The pairs of tile i: each element of the window and its place in a slot. -/
def tilePairs (r : List Word) (lay : Layout) (i : Nat) : List (List Int × List Int) :=
  let at_ (j : Nat) : List Int := [(j : Nat), 0, 0, 0, 0]
  (List.range (Lay.count lay)).map fun j =>
    if wkStore r then (at_ j, tileCoords lay (wkSd r) i j) else (tileCoords lay (wkSd r) i j, at_ j)

/-- The scratch of a core is as it was: a slot's bytes pass through it on their way only. -/
def State.keepScratch (s : State) (a : Agent) (old : Core) : State := s.modCore a fun c => { c with scratch := old.scratch }

/-- The owner's engine reads tile i of a load once, as the bytes of a slot at an offset (R358). -/
def State.loadTile (s : State) (owner : Agent) (r : List Word) (lay : Layout) (i o : Nat) : Res (State × List Byte) :=
  match ({ s := s, gen := 1 } : Xfer).run owner lay (slotLayout lay o true) (Lay.scope lay) (tilePairs r lay i) with
  | (t, .ok _, _) => .ok (t.s.keepScratch owner (s.getCore owner), (t.s.getCore owner).scratch.readBytes o (tileBytes lay))
  | (_, .bad f, _) => .bad f
  | (_, .wait, _) => .wait

/-- The owner's engine writes tile i of a store from the slot bytes of its producer (R358): the state, and its fault. -/
def State.storeTile (s : State) (owner producer : Agent) (r : List Word) (lay : Layout) (i o : Nat) :
    Res (State × Option Flt) :=
  let bs := (s.getCore producer).scratch.readBytes o (tileBytes lay)
  let s1 := s.modCore owner fun c => { c with scratch := c.scratch.writeBytes o bs }
  let pairs := tilePairs r lay i
  let back (t : Xfer) : State := t.s.keepScratch owner (s.getCore owner)
  match ({ s := s1, gen := 1 } : Xfer).run owner (slotLayout lay o false) lay (Lay.scope lay) pairs with
  | (t, .ok _, _) => .ok (back t, none)
  | (t, .bad f, rest) => .ok (back (t.later owner (slotLayout lay o false) lay (Lay.scope lay) rest), some f)
  | (_, .wait, _) => .wait

/-- Tile i reaches its slot in every core of the rectangle, or the global memory: the state, and a fault that stops the
walk. -/
def State.moveTile (s : State) (owner : Agent) (r : List Word) (lay : Layout) (i o : Nat) (ids : List Nat) :
    Res (State × Option Flt) :=
  if wkStore r then s.storeTile owner (.tile (ids.headD 0)) r lay i o
  else match s.loadTile owner r lay i o with
    | .ok (s1, bs) => .ok (ids.foldl (fun s id => s.modCore (.tile id) fun c => c.storeLocal o bs) s1, none)
    | .bad f => .ok (s, some f)
    | .wait => .wait

/-- A walk is over, and its WID free (R358). -/
def Core.dropWalk (c : Core) (wid : Nat) : Core := { c with walks := c.walks.filter fun x => x.wid != wid }

/-- A tile moves: each core of the rectangle has one credit less (R358). -/
def Walk.spend (w : Walk) : Walk := { w with credits := w.credits.map fun p => (p.1, p.2 - 1) }

/-- Tile i of a walk stands: its arrivals are made, and the walk goes on with the next tile or is over (R358). -/
def State.tileArrives (s : State) (a : Agent) (w : Walk) : State :=
  let r := w.words
  let ids := w.credits.map Prod.fst
  let s1 := if wkEsc r then
      ids.foldl (fun s id => s.modCore (.tile id) fun c => c.engineArrive 5 (wkEidx r) s.time .die) s
    else s
  let w1 := { w with next := w.next + 1, wrote := false }
  s1.modCore a fun c => if w.next + 1 = wkNt r then c.dropWalk w.wid else c.putWalk w1

/-- TILE_DELIVERY: the next tile of a walk (R358); it waits for memory that is not ready (R415), and the arrival of a
store's tile for its writes to be performed at their scope (R163). Where a fault stops it, no arrival is made, and the
owner's supervisor is told. -/
def execTileDelivery (owner : Nat) (wid : Fin 8) (s : State) : Out :=
  let a : Agent := .tile owner
  match (s.getCore a).walks.find? fun w => w.wid == wid.val with
  | none => .next s
  | some w =>
    let r := w.words
    let done (s : State) : Bool := s.scopeDone (wkStore r) (Lay.scope w.layout)
    if w.wrote then (if done s then .next (s.tileArrives a w) else .next s)
    else if w.credits.any fun p => p.2 == 0 then .next s
    else
      let i := w.next
      match s.moveTile a r w.layout i (wkRing r + i % wkSlots r * wkSb r) (w.credits.map Prod.fst) with
      | .ok (s1, some f) =>
        .next ((s1.noticeOf (s1.getCore a) f (BitVec.ofNat 64 (w.wid + i * 65536))).modCore a fun c => c.dropWalk w.wid)
      | .ok (s1, none) =>
        if done s1 then .next (s1.tileArrives a w.spend)
        else .next (s1.modCore a fun c => c.putWalk { w.spend with wrote := true })
      | _ => .next s

end Sys2Proof.Machine
end

