-- ==== Sys2Proof/Machine/Shape.lean ====
section
/-! DEFINITION. Launch records and their checks (R363, R364), shape expressions (R367, R368), and placements (R14, R345,
R346, R370 to R372). -/

namespace Sys2Proof.Machine

/-! ## The launch record (R363) -/

def lrCode (r : List Word) : Word := BitVec.ofNat 64 (fld (wordAt r 0) 51 0)
def lrW (r : List Word) : Nat := fld (wordAt r 1) 4 0
def lrH (r : List Word) : Nat := fld (wordAt r 1) 9 5
def lrScr (r : List Word) : Nat := fld (wordAt r 1) 15 10
def lrCache (r : List Word) : Nat := fld (wordAt r 1) 21 16
def lrVg (r : List Word) : Nat := fld (wordAt r 1) 23 22
def lrVw (r : List Word) : Nat := fld (wordAt r 1) 27 24
def lrGang (r : List Word) : Bool := (wordAt r 1).getLsbD 28
def lrNt (r : List Word) : Nat := fld (wordAt r 1) 48 29
def lrModBase (r : List Word) : Nat := fld (wordAt r 2) 8 0
def lrNmod (r : List Word) : Nat := fld (wordAt r 2) 17 9
def lrGsv (r : List Word) : Nat := fld (wordAt r 2) 22 18
def lrGsve (r : List Word) : Bool := (wordAt r 2).getLsbD 23
def lrConst (r : List Word) : Nat := fld (wordAt r 3) 51 0
def lrSched (r : List Word) : Nat := fld (wordAt r 4) 51 0
def lrNsch (r : List Word) : Nat := fld (wordAt r 4) 60 52
def lrXsch (r : List Word) : Nat := fld (wordAt r 5) 51 0
def lrNxw (r : List Word) : Nat := fld (wordAt r 5) 60 52
def lrProbe (r : List Word) : Nat := fld (wordAt r 6) 51 0
def lrPstr (r : List Word) : Nat := fld (wordAt r 7) 31 0
def lrPen (r : List Word) : Bool := (wordAt r 7).getLsbD 32
def lrStat (r : List Word) : Nat := fld (wordAt r 8) 51 0
def lrSv (r : List Word) : Bool := (wordAt r 8).getLsbD 63
def lrDone (r : List Word) : Nat := fld (wordAt r 9) 14 0
def lrDv (r : List Word) : Bool := (wordAt r 9).getLsbD 15
def lrSucc (r : List Word) (i : Nat) : Word := wordAt r (14 + i)

/-- Operation k of the shape expressions. -/
def lrExpr (r : List Word) (k : Nat) : Nat := fld (wordAt r (22 + k / 2)) (32 * (k % 2) + 31) (32 * (k % 2))

/-- No reserved bit is set and every field but the rectangle's lies in its range (R364, code 2). -/
def recordOk (r : List Word) : Bool :=
  let w (i hi lo : Nat) : Bool := fld (wordAt r i) hi lo == 0
  w 0 63 52 && w 0 0 0 && w 1 63 49 && w 2 63 24 && w 3 63 52 && w 4 63 61 && w 5 63 61 && w 6 63 52 && w 7 63 33
    && w 8 62 52 && w 8 2 0 && w 9 63 16 && (List.range 8).all (fun i => w (14 + i) 62 52) && w 30 63 0 && w 31 63 0
    && 2 ≤ lrScr r && lrScr r ≤ 47 && 1 + lrScr r + lrCache r ≤ 48
    && lrNsch r ≤ 256 && lrNxw r ≤ 256 && (lrGsve r || 1 ≤ lrNt r) && (lrGang r || lrNmod r == 0)

/-- The rectangle of a team lies within one die (R14, R364, code 1). -/
def rectFits (r : List Word) : Bool :=
  decide (1 ≤ lrW r) && decide (lrW r ≤ 16) && decide (1 ≤ lrH r) && decide (lrH r ≤ 20) && decide (lrW r * lrH r ≤ 64)

/-- How many teams of a shape the core grid of one die holds. -/
def perDie (w h : Nat) : Nat := 16 / w * (20 / h)

/-- A stand of n teams fits: on the modules it spans, and on one die where its queue is bound to a die (R364, R369). -/
def standFits (r : List Word) (home n : Nat) : Bool :=
  !lrGang r || (decide (n ≤ 8 * (lrNmod r + 1) * perDie (lrW r) (lrH r))
    && (home == 15 || (lrNmod r == 0 && decide (n ≤ perDie (lrW r) (lrH r)))))

/-- The code that the record of a queue's dispatcher fails with when it is taken; 0 of none (R364).
DEDUCED: log entry 33. -/
def recordCode (r : List Word) (home : Nat) : Nat :=
  if !recordOk r then 2
  else if !rectFits r ∨ (!lrGsve r ∧ !standFits r home (lrNt r)) then 1
  else 0

/-! ## Shape expressions (R367) -/

/-- An exact result in the signed 64-bit range. -/
def inRange (v : Int) : Option Word := if -(2 ^ 63) ≤ v ∧ v < 2 ^ 63 then some (BitVec.ofInt 64 v) else none

/-- The result of an operation on its operands; none where it fails. -/
def shapeOp (op aField : Nat) (a b : Int) : Option Word :=
  match op with
  | 1 => if aField = 0 then inRange b else none
  | 2 => inRange (a + b)
  | 3 => inRange (a - b)
  | 4 => inRange (a * b)
  | 5 => if b = 0 then none else inRange (-((-a).fdiv b))
  | 6 => inRange (min a b)
  | 7 => inRange (max a b)
  | 8 => if 0 ≤ b ∧ b ≤ 63 then inRange (a * 2 ^ b.toNat) else none
  | 9 => if 0 ≤ b ∧ b ≤ 63 then inRange (a.fdiv (2 ^ b.toNat)) else none
  | 10 => if b ≤ 0 then none else inRange (-((-a).fdiv b) * b)
  | _ => none

/-- The second operand of an operation word; none where BK = 0 and bits 31:20 are not zero. -/
def shapeB (o : Nat) (sv : List Word) : Option Int :=
  if o / 16 % 2 = 1 then some (signedOf 17 (o / 2 ^ 15))
  else if o / 2 ^ 20 ≠ 0 then none
  else some ((sv.getD (o / 2 ^ 15 % 32) 0).toInt)

/-- What an evaluation gives: the shape variables and those written, or the number of the operation that failed. -/
inductive Shaped where
  | ok (sv : List Word) (written : List Nat)
  | bad (op : Nat)
deriving DecidableEq, Repr

/-- Evaluate the operations of a list in order, from operation k (R367). -/
def evalShape (k : Nat) (sv : List Word) (written : List Nat) : List Nat → Shaped
  | [] => .ok sv written
  | o :: rest =>
    match shapeB o sv with
    | none => .bad k
    | some b =>
      if o % 16 = 0 then
        match rest.findIdx? fun x => x != 0 with
        | some j => .bad (k + 1 + j)
        | none => .ok sv written
      else
        let a := o / 2 ^ 10 % 32
        let d := o / 2 ^ 5 % 32
        match shapeOp (o % 16) a (sv.getD a 0).toInt b with
        | some v => evalShape (k + 1) (sv.set d v) (d :: written) rest
        | none => .bad k

/-- The 16 operations of a record over its input values (R368). -/
def shapeOf (r : List Word) (sv : List Word) : Shaped := evalShape 0 sv [] ((List.range 16).map (lrExpr r))

/-- NT after evaluation; none where GSVE gives one outside its range. -/
def teamCount (r : List Word) (sv : List Word) : Option Nat :=
  if lrGsve r then
    let v := (sv.getD (lrGsv r) 0).toInt
    if 0 ≤ v ∧ v < 2 ^ 20 then some v.toNat else none
  else some (lrNt r)

/-! ## Schedules (R245, R345, R364) -/

/-- The first entry of a copy schedule that breaks the order of stages. -/
def schedBad : Nat → Nat → List Word → Option Nat
  | _, _, [] => none
  | k, prev, w :: rest => if fld w 7 0 < prev then some k else schedBad (k + 1) (fld w 7 0) rest

/-- The module of a stand rank, by the index of its team (R372). -/
def moduleOf (r : List Word) (nt size rank : Nat) : Nat := lrModBase r + rank / size * (lrNmod r + 1) / nt

/-- An entry of an exchange schedule meets R345 beside those before it. -/
def xwinOk (r : List Word) (nt : Nat) (before : List Word) (e : Word) : Bool :=
  let w : Win := { entry := e }
  let size := lrW r * lrH r
  fld e 63 56 == 0 && 2 ≤ w.len
    && !before.any (fun f => fld f 7 0 == w.wid && (fld f 43 32 == w.src || fld f 55 44 == w.dst))
    && decide (w.src < nt * size) && decide (w.dst < nt * size)
    && moduleOf r nt size w.src == moduleOf r nt size w.dst

/-- The first entry of an exchange schedule that R345 refuses. -/
def xschedBad (r : List Word) (nt : Nat) (es : List Word) : Option Nat :=
  (List.range es.length).find? fun k => !xwinOk r nt (es.take k) (es.getD k 0)

/-! ## Rectangles (R14, R370) -/

/-- Two rectangles of a grid overlap. -/
def rectsMeet (x1 y1 w1 h1 x2 y2 w2 h2 : Nat) : Bool :=
  decide (x1 < x2 + w2) && decide (x2 < x1 + w1) && decide (y1 < y2 + h2) && decide (y2 < y1 + h1)

/-- A die to which work may be dispatched (R415, R421). -/
def State.dieUsable (s : State) (die : Nat) : Bool :=
  s.ports.ready.getLsbD die && !s.ports.failed.getLsbD die && s.ports.pst == 0

/-- A commanded gate of a cluster: its own bit or its die's (R421). -/
def State.gateAsked (s : State) (cid : Nat) : Bool :=
  let die := dieOfCluster cid
  let i := indexInDie cid
  (s.ports.gateCmd.toList.getD (3 * die + i / 64) 0).getLsbD (i % 64)
    || (s.ports.gateCmd.toList.getD (3 * die + 1) 0).getLsbD 63 || s.clusterGated cid

/-- The reservations that a team of a level may not use (R372). -/
def State.reservations (s : State) (self prio : Nat) : List (Nat × Nat × Nat × Nat × Nat) :=
  (s.launches.filter fun l => l.id != self && prio ≤ l.prio).flatMap fun l =>
    l.place.map fun p => (p.1, p.2.1, p.2.2, lrW l.words, lrH l.words)

/-- A rectangle on the core grid of a die, on clusters that are not gated. -/
def State.rectUsable (s : State) (die gx gy w h : Nat) : Bool :=
  decide (die < 8) && decide (gx + w ≤ 16) && decide (gy + h ≤ 20) && s.dieUsable die
    && (List.range w).all fun x => (List.range h).all fun y => !s.gateAsked (clusterOf (coreAt die (gx + x) (gy + y)))

/-- A rectangle of free cores for a launch of a level. DEDUCED: log entry 23. -/
def State.rectFree (s : State) (self prio die gx gy w h : Nat) : Bool :=
  s.rectUsable die gx gy w h
    && s.teams.all (fun t => t.die != die || !rectsMeet gx gy w h t.gx t.gy t.w t.h)
    && (s.reservations self prio).all fun p => p.1 != die || !rectsMeet gx gy w h p.2.1 p.2.2.1 p.2.2.2.1 p.2.2.2.2

/-- The grid positions of a die. -/
def gridPlaces : List (Nat × Nat) := (List.range 20).flatMap fun y => (List.range 16).map fun x => (x, y)

/-- A team of a launch fits free cores of a die. -/
def State.fits (s : State) (l : Launch) (die : Nat) : Bool :=
  gridPlaces.any fun p => s.rectFree l.id l.prio die p.1 p.2 (lrW l.words) (lrH l.words)

/-! ## Windows of a placement (R346) -/

/-- The coordinates from u to v. -/
def path (u v : Nat) : List Nat :=
  if u ≤ v then (List.range (v - u + 1)).map fun i => u + i else (List.range (u - v + 1)).map fun i => u - i

/-- The ports and links that a window occupies between two cores: along X, then along Y. -/
def winPlaces (a b : Nat) : List (Nat × Nat × Nat) :=
  let p := clusterOf a
  let q := clusterOf b
  let xs := (path (meshX p) (meshX q)).map fun x => 16 * meshY p + x
  let ys := (path (meshY p) (meshY q)).map fun y => 16 * y + meshX q
  let steps (cs : List Nat) : List (Nat × Nat × Nat) := (cs.zip (cs.drop 1)).map fun e => (2, e.1, e.2)
  [(0, a, 0), (1, b, 0)] ++ steps xs ++ steps ys

/-- A window at its place: its ports and links, and its first and last cycle. -/
structure PlacedWin where
  uses : List (Nat × Nat × Nat)
  from_ : Nat
  to_ : Nat

/-- A window between two cores. -/
def placeWin (w : Win) (a b : Nat) : PlacedWin :=
  { uses := winPlaces a b, from_ := w.start, to_ := w.start + w.len + latencyH a b - 1 }

/-- Two windows of one stand conflict. -/
def PlacedWin.clash (x y : PlacedWin) : Bool :=
  decide (x.from_ ≤ y.to_) && decide (y.from_ ≤ x.to_) && x.uses.any fun u => y.uses.contains u

/-- No two windows of a list conflict. -/
def noClash : List PlacedWin → Bool
  | [] => true
  | x :: rest => !rest.any x.clash && noClash rest

/-- The indices of a stand's teams on a module (R372). -/
def teamsOn (r : List Word) (nt module : Nat) : List Nat :=
  (List.range nt).filter fun n => lrModBase r + n * (lrNmod r + 1) / nt == module || lrNmod r == 0

/-- The indices of a stand's teams on this module. -/
def State.localTeams (s : State) (r : List Word) (nt : Nat) : List Nat := teamsOn r nt s.self

/-- The modules that a stand spans. -/
def modulesOf (r : List Word) (self : Nat) : List Nat :=
  if lrNmod r = 0 then [self] else (List.range (lrNmod r + 1)).map fun i => lrModBase r + i

/-- The core of a stand rank under a placement of the teams of a list of indices. -/
def rankCore (r : List Word) (idxs : List Nat) (place : List (Nat × Nat × Nat)) (rank : Nat) : Option Nat :=
  let size := lrW r * lrH r
  match (idxs.zip place).find? fun p => p.1 == rank / size with
  | some (_, die, gx, gy) => some (coreAt die (gx + rank % size % lrW r) (gy + rank % size / lrW r))
  | none => none

/-- The windows of a schedule under a placement; those of other modules left out. -/
def placedWins (r : List Word) (es : List Word) (idxs : List Nat) (place : List (Nat × Nat × Nat)) : List PlacedWin :=
  es.filterMap fun e =>
    let w : Win := { entry := e }
    match rankCore r idxs place w.src, rankCore r idxs place w.dst with
    | some a, some b => some (placeWin w a b)
    | _, _ => none

/-- The ports and links of the resident stands other than one (R346). -/
def State.otherPlaces (s : State) (self : Nat) : List (Nat × Nat × Nat) :=
  (s.launches.filter fun l => l.id != self && l.admitted).flatMap fun l =>
    l.wins.flatMap fun w => match s.standMember l.id w.src, s.standMember l.id w.dst with
      | some a, some b => winPlaces (coreId a) (coreId b)
      | _, _ => []

/-- A placement's windows are free of conflict, with each other and with other resident stands. -/
def State.winsFree (s : State) (self : Nat) (ps : List PlacedWin) : Bool :=
  noClash ps && (ps.isEmpty || !(s.otherPlaces self).any fun u => ps.any fun p => p.uses.contains u)

/-- A rectangle overlaps none of those placed already. -/
def apart (w h : Nat) (p : Nat × Nat × Nat) (ps : List (Nat × Nat × Nat)) : Bool :=
  ps.all fun q => q.1 != p.1 || !rectsMeet p.2.1 p.2.2 w h q.2.1 q.2.2 w h

/-- The places on the dies of a queue: one die, or all eight. -/
def placesOf (home : Nat) : List (Nat × Nat × Nat) :=
  ((List.range 8).filter fun d => home == 15 || home == d).flatMap fun d => gridPlaces.map fun p => (d, p.1, p.2)

/-- A placement of n more teams exists whose rectangles are good and whose windows pass. -/
def searchPlace (w h : Nat) (home : Nat) (good : Nat × Nat × Nat → Bool) (pass : List (Nat × Nat × Nat) → Bool) :
    Nat → List (Nat × Nat × Nat) → Bool
  | 0, done => pass done
  | n + 1, done => (placesOf home).any fun p =>
      good p && apart w h p done && searchPlace w h home good pass n (done ++ [p])

/-- The stand of a record can be admitted now (R372). -/
def State.canAdmit (s : State) (l : Launch) : Bool :=
  let r := l.words
  let idxs := s.localTeams r l.nt
  searchPlace (lrW r) (lrH r) (s.queue l.queue).home
    (fun p => s.rectFree l.id l.prio p.1 p.2.1 p.2.2 (lrW r) (lrH r))
    (fun ps => s.winsFree l.id (placedWins r (l.wins.map Win.entry) idxs ps)) idxs.length []

/-- Some placement, with no other stand resident, keeps the windows of a record free of conflict on every module that it
spans (R345, R372). Which dies of another module have failed is not known here. -/
def State.somePlace (s : State) (r : List Word) (nt : Nat) (es : List Word) (home : Nat) : Bool :=
  es.isEmpty || (modulesOf r s.self).all fun m =>
    let idxs := teamsOn r nt m
    searchPlace (lrW r) (lrH r) home
      (fun p => decide (p.2.1 + lrW r ≤ 16) && decide (p.2.2 + lrH r ≤ 20) && !(m == s.self && s.ports.failed.getLsbD p.1))
      (fun ps => noClash (placedWins r es idxs ps)) idxs.length []

/-- A placement as given is one for the stand of a launch: one good place for each of its teams here, apart, and its
windows free of conflict. -/
def State.placeOk (s : State) (l : Launch) (place : List (Nat × Nat × Nat)) : Bool :=
  let r := l.words
  let idxs := s.localTeams r l.nt
  let home := (s.queue l.queue).home
  decide (place.length = idxs.length)
    && place.all (fun p => (home == 15 || home == p.1) && s.rectFree l.id l.prio p.1 p.2.1 p.2.2 (lrW r) (lrH r))
    && (List.range place.length).all (fun i => apart (lrW r) (lrH r) (place.getD i (0, 0, 0)) (place.take i))
    && s.winsFree l.id (placedWins r (l.wins.map Win.entry) idxs place)

/-- A placement that a reservation may fix: as above, but its cores may be in use (R372). -/
def State.reserveOk (s : State) (l : Launch) (place : List (Nat × Nat × Nat)) : Bool :=
  let r := l.words
  let idxs := s.localTeams r l.nt
  let home := (s.queue l.queue).home
  decide (place.length = idxs.length)
    && place.all (fun p => (home == 15 || home == p.1) && s.rectUsable p.1 p.2.1 p.2.2 (lrW r) (lrH r))
    && (List.range place.length).all (fun i => apart (lrW r) (lrH r) (place.getD i (0, 0, 0)) (place.take i))
    && noClash (placedWins r (l.wins.map Win.entry) idxs place)

end Sys2Proof.Machine
end

