-- ==== Sys2Proof/Machine/Launch.lean ====
section
/-! DEFINITION. The dispatch engine (15_dispatch.md): `succ`, `carve`, `launch` and `sig`, taking a launch, its readiness,
dispatch, admission, team start, retirement, renegotiation of a carve, and the hand-over to a successor. -/

namespace Sys2Proof.Machine

/-! ## Instructions (R376 to R378, R380) -/

def execLaunch (handle rec_ : Src) (s : State) : Out :=
  s.queueSend (.launch handle rec_) handle rec_ s.core.regs.sv.toList

/-- `sig` holds the core until its release is done, then steps the counter (R377). -/
def execSig (ctr : Src) (s : State) : Out :=
  s.notInTx (s.issue [ctr] (namesOf [ctr])
    (let v := s.core.value ctr
     if fld v 63 15 ≠ 0 then .next (s.trap fmtFlt)
     else if !s.core.entryRoom then s.stall
     else .next (s.hold (.sig ctr) { a := v })))

/-- A carve word in its range (R378). -/
def carveOk (v : Word) : Bool :=
  fld v 63 12 == 0 && 2 ≤ fld v 5 0 && fld v 5 0 ≤ 47 && 1 + fld v 5 0 + fld v 11 6 ≤ 48

/-- DEDUCED: log entry 34. -/
def execCarve (word : Src) (s : State) : Out :=
  s.notInHandler (s.notInTx (s.inTeam (s.issue [word] (namesOf [word])
    (let v := s.core.value word
     if !carveOk v then .next (s.trap fmtFlt)
     else if !s.core.entryRoom then s.stall
     else .next (s.hold (.carve word) { a := v })))))

/-- The record of the kernel that a core's team runs. -/
def State.kernelRec (s : State) (c : Core) : List Word :=
  match s.teamFor c with
  | some t => t.words
  | none => []

/-- `succ` waits for the other members after its checks (R380). DEDUCED: log entry 34. -/
def execSucc (i : Fin 8) (ma mb : Src) (s : State) : Out :=
  s.notInHandler
    (if 0 < s.core.tx.depth then .next (s.abortTx s.core.who 8 0 0)
     else s.inTeam (s.issue [ma, mb] (namesOf [ma, mb])
      (let a := s.core.value ma
       let b := s.core.value mb
       if fld a 63 34 ≠ 0 ∨ fld b 63 47 ≠ 0 ∨ (lrSucc (s.kernelRec s.core) i.val).getLsbD 63 = false then
         .next (s.trap fmtFlt)
       else if !s.core.entryRoom then s.stall
       else .next (s.hold (.succ i ma mb) { a := BitVec.ofNat 64 i.val, b := a, c := b }))))

/-- RELEASE_COMPLETION: a release that holds its core is done: a releasing store is performed (R156, R178), or a counter
steps (R377). -/
def execReleaseCompletion (a : Agent) (s : State) : Out :=
  let c := s.getCore a
  match c.run with
  | .held (.sig _) ops =>
    if !c.accessesDone false then .next s
    else
      let s1 := s.release a .pkg
      let n := fld ops.a 14 0
      .next ((s1.stepCounterOf n).modCore a Core.wake)
  | .held (.stg w rel sc addr val off) _ =>
    match c.entries.find? fun e => e.instr == .stg w rel sc addr val off && e.ownEvent && !e.ready with
    | some e =>
      if c.behind e.tag then .next s
      else
        let s1 := s.release a sc
        if !s1.releaseDone sc then .next s1
        else match s1.perform1 a false e with
          | .ok s2 => .next (s2.modCore a Core.wake)
          | .wait => .next s1
          | .bad f => .next (s1.trapEntry a e.tag f)
    | none => .next s
  | _ => .next s

/-! ## Completion of launches (R364, R366) -/

/-- The notice of a status word that could not be written (R366, R389). -/
def State.statusNotice (s : State) (f : Flt) (addr : Nat) : State :=
  s.post 0 { row := 0, w0 := BitVec.ofNat 64 ((if f.mal then 2048 else 0) + kindNotice * 256 + f.code.num), w1 := BitVec.ofNat 64 addr, w2 := 0
             w3 := BitVec.ofNat 64 (0xFFF * 2 ^ 32) }

/-- The status word of a launch is written (R366): where the write faults its notice goes out, and where memory is not
ready it waits (R415). -/
def State.writeStatus (s : State) (l : Launch) (words : List Word) (code : Nat) : Res State :=
  let die := (s.queue l.queue).die
  if !lrSv words then .ok s
  else
    let s0 := s.walkedDie die l.asid (lrStat words)
    match s0.dieWrite die (if lrNmod words = 0 then some die else none) l.asid (lrStat words) (bytesOfNat 8 code) with
    | .bad f => .ok (s0.statusNotice f (lrStat words))
    | x => x

/-- A launch completes with a status word, under the record whose kernel ended (R366, R385). The counter of a stand that
spans modules steps once the peers have acknowledged the status word (R156). DEDUCED: log entry 33. -/
def State.completeLaunch (s : State) (l : Launch) (words : List Word) (code : Nat) : Res State :=
  (s.writeStatus l words code).andThen fun s1 =>
  let s2 := if !lrDv words then s1
    else if lrSv words && lrNmod words != 0 then s1.oweStep (lrDone words) else s1.stepCounterOf (lrDone words)
  .ok { s2 with
    launches := s2.launches.filter fun x => x.id != l.id
    dies := s2.dies.map fun (d : Die) => { d with tables := d.tables.filter fun t => t.launch != l.id } }

/-- The launch has nothing left to start, to retire or to wait for. -/
def Launch.allDone (l : Launch) : Bool := l.todo.isEmpty && decide (l.retired = l.nt) && l.children == 0

/-- A launch of a chain of kernels ends; the chain completes with its root (R385). DEDUCED: log entry 33. -/
def State.endLaunch (s : State) (id : Nat) (words : List Word) : Res State :=
  match s.launchOf id with
  | none => .ok s
  | some l =>
    if !l.allDone then .ok s
    else match l.root with
    | none => s.completeLaunch l words l.code
    | some r =>
      let s1 := { s with launches := s.launches.filter fun x => x.id != id }
      match s1.launchOf r with
      | none => .ok s1
      | some root =>
        let root1 := { root with children := root.children - 1, code := if l.code = 0 then root.code else l.code }
        let s2 := s1.setLaunch root1
        if root1.allDone then s2.completeLaunch root1 words root1.code else .ok s2

/-- A launch fails before any team starts (R364). -/
def State.failLaunch (s : State) (l : Launch) (code : Nat) : Res State :=
  (s.setLaunch { l with code := code, nt := 0, todo := [], retired := 0, ready := true, place := [] }).endLaunch l.id l.words

/-- A step that may have to wait for memory (R415): it then has no effect yet. -/
def State.orStay (s : State) (r : Res State) : State := match r with | .ok s1 => s1 | _ => s

/-! ## Taking a record and readiness (R364, R365, R368) -/

/-- Its dispatcher may act on a queue: its die, or package command processing, is ready (R415). -/
def State.dispatcherReady (s : State) (q : Queue) : Bool :=
  if q.home = 15 then s.ports.ready.getLsbD 24 else decide (q.home < 8) && s.dieUsable q.home

/-- LAUNCH_RECORD_TAKEN: a dispatcher takes the oldest record of its queue and checks it (R364). A record whose read
from the ring faulted has no bytes: its launch fails, and no status word can be written. DEDUCED: log entry 31. DESIGN
CHOICE: log entry 4. -/
def execLaunchRecordTaken (queue : Nat) (s : State) : Out :=
  let q := s.queue queue
  if !q.en ∨ q.teamBound ∨ !s.dispatcherReady q then .next s
  else match q.recs with
  | [] => .next s
  | r :: rest =>
    let s1 := s.setQueue { q with recs := rest }
    if r.bytes.isEmpty then .next s1
    else
      let words := wordsOf r.bytes
      let l0 : Launch := { id := s.launchIds, queue := queue, prio := q.prio, asid := q.asid, words := words, sv := r.sv
                           met := (List.range 4).map fun k =>
                             let w := wordAt words (10 + k)
                             !w.getLsbD 63 || tokenMet w (s.counter (fld w 62 48)) }
      let s2 := { s1 with launchIds := s.launchIds + 1 }.setLaunch l0
      .next (match recordCode words q.home with
        | 0 => s2
        | code => s.orStay (s2.failLaunch l0 code))

/-- What a launch reads when its dependences are met: constants, copy schedule, exchange schedule (R364). -/
def State.readBlocks (s : State) (die asid : Nat) (r : List Word) : Res (State × List Word × List Word × List Word) :=
  (if lrConst r = 0 then .ok (s, []) else s.dieRead die asid (lrConst r) 1984).andThen fun (s1, cs) =>
  (s1.dieRead die asid (lrSched r) (8 * lrNsch r)).andThen fun (s2, sch) =>
  (s2.dieRead die asid (lrXsch r) (8 * lrNxw r)).andThen fun (s3, xs) =>
  .ok (s3, wordsOf cs, wordsOf sch, wordsOf xs)

/-- What the checks at readiness give: the evaluated variables and those written, NT, and the three blocks; or the
status word of the failure. -/
inductive Prepared where
  | ok (s : State) (sv : List Word) (written : List Nat) (nt : Nat) (consts sched xsch : List Word)
  | bad (s : State) (code : Nat)
  | wait

/-- Evaluate and check a record over its input values (R364, R368). A launch of no team, of those that start from a
queue, is over at once. -/
def State.prepare (s : State) (queued : Bool) (die home asid : Nat) (r : List Word) (sv : List Word) : Prepared :=
  match shapeOf r sv with
  | .bad k => .bad s (3 + 256 * k)
  | .ok sv1 written =>
    match teamCount r sv1 with
    | none => .bad s 3
    | some nt =>
      if queued && nt == 0 then .ok s sv1 written 0 [] [] []
      else match s.readBlocks die asid r with
      | .wait => .wait
      | .bad _ => .bad s 5
      | .ok (s1, cs, sch, xs) =>
        if sch.any fun w => fld w 63 56 != 0 then .bad s1 2
        else match schedBad 0 0 sch, xschedBad r nt xs with
          | some k, _ => .bad s1 (4 + 256 * k)
          | none, some k => .bad s1 (4 + 256 * k)
          | none, none =>
            if !standFits r home nt then .bad s1 1
            else if lrGang r ∧ !s1.somePlace r nt xs home then .bad s1 4
            else .ok s1 sv1 written nt cs sch xs

/-- DEPENDENCES_MET: every token of a launch is met; it becomes ready, or fails (R365, R368). DEDUCED: log entry 33. -/
def execDependencesMet (launch : Nat) (s : State) : Out :=
  match s.launchOf launch with
  | none => .next s
  | some l =>
    if l.ready ∨ !l.met.all id then .next s
    else
      let q := s.queue l.queue
      match s.prepare true q.die q.home l.asid l.words l.sv with
      | .wait => .next s
      | .bad s1 code => .next (s.orStay (s1.failLaunch l code))
      | .ok s1 sv _ nt cs sch xs =>
        let l1 := { l with ready := true, sv := sv, nt := nt, todo := List.range nt, consts := cs, sched := sch
                           wins := if lrGang l.words then xs.map fun e => { entry := e } else [] }
        .next (s.orStay ((s1.setLaunch l1).endLaunch launch l1.words))

/-! ## Team start (R96, R373) -/

/-- The identity words c248 to c255 (R96). -/
def identityWords (t : Team) (rank : Nat) (ctx superstep : Word) (flags : Nat) : List Word :=
  let id := coreAt t.die (t.gx + rank % t.w) (t.gy + rank / t.w)
  let ci := indexInDie (clusterOf id)
  [BitVec.ofNat 64 rank, BitVec.ofNat 64 t.id,
   BitVec.ofNat 64 (rank % t.w + rank / t.w * 2 ^ 16 + t.idx % 2 ^ 16 * 2 ^ 32), BitVec.ofNat 64 t.idx,
   BitVec.ofNat 64 (t.die + ci * 8 + id % 4 * 2 ^ 10 + id * 2 ^ 12), ctx, superstep, BitVec.ofNat 64 flags]

/-- The constant window of a core. -/
def constWindow (consts : List Word) (ids : List Word) : List Byte :=
  bytesOfWords64 ((List.range 248).map fun i => consts.getD i 0) ++ bytesOfWords64 ids

/-- Free bytes in local memory from general scratch up to a top, in canonical form (R81). -/
def freeScratch (free top : Nat) : Memory :=
  (List.range (top - 0x4800)).filterMap fun i =>
    if Config.freeByte (free + i) = 0 then none else some (0x4800 + i, Config.freeByte (free + i))

/-- CARVEW of S scratch granules: the others but the register granule are cache (R97). -/
def carveWord (scr : Nat) : Word := BitVec.ofNat 64 (scr + (47 - scr) * 64)

/-- The cache granules of a core above a number leave its cluster's L1: their lines are written back and invalidated
(R98). -/
def State.dropWays (s : State) (a : Agent) (keep : Nat) : State :=
  match a with
  | .sup _ => s
  | .tile id =>
    let cid := clusterOf id
    let out (l : Line) : Bool := l.way / 48 == id % 4 && decide (keep ≤ l.way % 48)
    ((s.cluster cid).lines.filter out).foldl (fun s l =>
      let s1 := s.writeBack cid none l
      s1.setCluster ((s1.cluster cid).drop l.line)) s

/-- A core as a team starts on it. -/
def startCore (a : Agent) (task : Task) (words consts sv ids : List Word) (free : Nat) : Core :=
  let c := Core.reset a
  { c with
    task := some task
    pc := lrCode words, nextPc := lrCode words
    regs := { c.regs with sv := Vector.ofFn fun i => sv.getD i.val 0 }
    csr := { c.csr with carvew := carveWord (lrScr words), vshare := BitVec.ofNat 64 (lrVw words)
                        xstage := BitVec.ofNat 64 (lrNsch words * 2 ^ 16) }
    scratch := Memory.writeBytes (freeScratch free (lrScr words * 0x4000)) 0 (constWindow consts ids) }

/-- The steps of a team's start on each of its cores (R373); `run` is how they begin. MSTK.LOST of an inherit-void
successor holds the maps that were live (R341). DESIGN CHOICE: log entry 4. -/
def State.startTeam (s : State) (l : Launch) (t : Team) (run : Run) : State :=
  let ctx := BitVec.ofNat 32 s.ctxIds
  let s1 := { s with ctxIds := s.ctxIds + 1 }
  (List.range t.size).foldl (fun s rank =>
    let a := t.member rank
    let lost := ((l.lostMaps.find? fun p => p.1 == 64 * t.idx + rank).map Prod.snd).getD 0
    let flags := (if l.atHead then 1 else 0) + if lost = 0 then 0 else 4
    let super := if lrGang l.words then l.superstep else 0
    let ids := identityWords t rank (ctx.setWidth 64) super flags
    let task : Task := { launch := l.id, team := t.id, rank := rank, gang := lrGang l.words, ctx := ctx, asid := l.asid }
    let c := startCore a task t.words l.consts l.sv ids s.free
    let c1 := { c with run := run, csr := { c.csr with mstk := BitVec.ofNat 64 (lost * 2 ^ 32) } }
    (((s.useFree (lrScr t.words * 0x4000)).dropWays a c1.cacheGr).seat c1).acquire a .pkg) s1

/-- A new team of a launch at a place. DESIGN CHOICE: log entry 4. -/
def State.newTeam (s : State) (l : Launch) (idx die gx gy : Nat) : State × Team :=
  let t : Team := { id := s.teamIds, launch := l.id, idx := idx, die := die, gx := gx, gy := gy, w := lrW l.words
                    h := lrH l.words, words := l.words, sched := l.sched }
  (({ s with teamIds := s.teamIds + 1 } : State).setTeam t, t)

/-! ## Dispatch and admission (R370, R372) -/

/-- A candidate: a team of a queued launch by its index, or a gang launch as one unit. -/
structure Cand where
  launch : Launch
  team : Option Nat

/-- The key of a candidate's bypass count. -/
def Cand.key (c : Cand) : Nat := match c.team with | some n => n | none => 2 ^ 32

/-- The order of launches: a successor at the head of its level first, then by age. -/
def insertLaunch (l : Launch) : List Launch → List Launch
  | [] => [l]
  | x :: t =>
    if (l.atHead && !x.atHead) || (l.atHead == x.atHead && decide (l.id < x.id)) then l :: x :: t
    else x :: insertLaunch l t

/-- The queue of a launch feeds a die's dispatcher. -/
def State.feeds (s : State) (l : Launch) (die : Nat) : Bool :=
  let h := (s.queue l.queue).home
  h == 15 || h == die

/-- A gang may take the reservation of its level: it holds it, or no one does and it is the oldest gang of the level
that cannot be admitted (R372). -/
def State.mayReserve (s : State) (l : Launch) : Bool :=
  l.place.isEmpty && !s.launches.any fun x => x.id != l.id && x.prio == l.prio
    && (!x.place.isEmpty || (x.ready && lrGang x.words && !x.admitted && decide (x.id < l.id) && !s.canAdmit x))

/-- A stand or team that was saved waits to return at this level or above (R24). DEDUCED: log entry 23. -/
def State.returning (s : State) (prio : Nat) : Bool :=
  s.saved.any fun v => v.asked && match s.launchOf v.launch with
    | some l => prio ≤ l.prio && lrGang l.words
    | none => false

/-- A ready gang takes part as a unit, whether or not it can be admitted (R372). -/
def Launch.gangCand (l : Launch) : Bool := l.ready && lrGang l.words && !l.admitted && l.nt != 0

/-- A picked gang goes on: it can be admitted, or it takes the reservation. The share of a stand that spans modules is
reserved first, and admitted with the other modules' (R372). -/
def State.gangAble (s : State) (l : Launch) : Bool :=
  !s.returning l.prio && ((!l.spans && s.canAdmit l) || s.mayReserve l)

/-- No team of a stand that spans modules lies on this one, which has nothing to reserve or to place (R372). -/
def State.shareless (s : State) (l : Launch) : Bool := l.spans && (s.localTeams l.words l.nt).isEmpty

/-- The candidates of a die's dispatcher, oldest first (R370). -/
def State.cands (s : State) (die : Nat) : List Cand :=
  ((s.launches.filter fun l => s.feeds l die).foldl (fun ls l => insertLaunch l ls) []).flatMap fun l =>
    if l.gangCand then (if s.shareless l then [] else [{ launch := l, team := none }])
    else if l.ready && !lrGang l.words && !l.todo.isEmpty && s.fits l die then l.todo.map fun n => { launch := l, team := some n }
    else []

/-- The next queue of a level in weighted round-robin among those with candidates: queue and turns taken. -/
def nextQueue (cur : Option (Nat × Nat)) (weight : Nat → Nat) (qs : List Nat) : Nat × Nat :=
  match cur with
  | some (q, used) =>
    if qs.contains q ∧ used < weight q then (q, used + 1)
    else match qs.find? fun x => decide (q < x) with
      | some x => (x, 1)
      | none => (qs.headD 0, 1)
  | none => (qs.headD 0, 1)

/-- The address of a candidate's probe line, where it has one in the address space (R141, R370); of a gang as one unit,
that of its team 0. DEDUCED: log entry 23. -/
def Cand.probe (c : Cand) : Option Nat :=
  let r := c.launch.words
  let va := lrProbe r + c.team.getD 0 * lrPstr r
  if lrPen r && decide (va < 2 ^ 52) then some va else none

/-- The state in which the walks of a dispatcher's probes have read their entries (R370, R398). -/
def State.probed (s : State) (die : Nat) : State :=
  (s.cands die).foldl (fun s c => match c.probe with
    | some va => s.walkedDie die c.launch.asid va
    | none => s) s

/-- The probe line of a candidate is present in a die's L2, whatever its page permits (R370). -/
def State.probeHit (s : State) (die : Nat) (c : Cand) : Bool :=
  match c.probe with
  | none => false
  | some va =>
    let asid := c.launch.asid
    match (match (s.die die).tlb.find? fun t => t.covers asid va with
        | some t => Res.ok t
        | none => s.walk die asid va) with
    | .ok t => s.l2.any fun e => e.die == die && e.line == t.phys va / 128
    | _ => false

/-- The times that a candidate has been passed over. -/
def Cand.bypassed (c : Cand) : Nat := ((c.launch.bypassed.find? fun p => p.1 == c.key).map Prod.snd).getD 0

/-- Two candidates are the same one. -/
def Cand.same (c d : Cand) : Bool := c.launch.id == d.launch.id && c.key == d.key

/-- A picked candidate can start now; a team among the candidates fits, a gang may not (R372). -/
def State.candAble (s : State) (c : Cand) : Bool := c.team.isSome || s.gangAble c.launch

/-- The pick among the candidates of one queue, oldest first, and those passed over so far, once for each time. A gang
that can neither be admitted nor take the reservation is picked in vain, and the pick is made again among the rest
(R370, R372). -/
def State.pickFrom (s : State) (die byp : Nat) : Nat → List Cand → List Cand → Option Cand × List Cand
  | 0, passed, _ => (none, passed)
  | n + 1, passed, cand =>
    match cand with
    | [] => (none, passed)
    | o :: _ =>
      let i := if byp ≤ o.bypassed + (passed.filter o.same).length then 0
        else (cand.findIdx? fun c => s.probeHit die c).getD 0
      let passed1 := passed ++ cand.take i
      match cand[i]? with
      | none => (none, passed1)
      | some h => if s.candAble h then (some h, passed1) else s.pickFrom die byp n passed1 (cand.eraseIdx i)

/-- The pick of a level: queue after queue in weighted round-robin, until one gives a candidate that can start. The last
result is the queue whose turn was taken last, with its turns (R370). -/
def State.pickQueue (s : State) (die : Nat) (cand : List Cand) :
    Nat → Option (Nat × Nat) → List Cand → List Nat → Option Cand × List Cand × Option (Nat × Nat)
  | 0, cur, passed, _ => (none, passed, cur)
  | n + 1, cur, passed, qs =>
    if qs.isEmpty then (none, passed, cur)
    else
      let (q, used) := nextQueue cur (fun q => (s.queue q).weight) qs
      let mine := cand.filter fun c => c.launch.queue == q
      match s.pickFrom die (s.queue q).byp mine.length passed mine with
      | (some h, p) => (some h, p, some (q, used))
      | (none, p) => s.pickQueue die cand n (some (q, used)) p (qs.filter fun x => x != q)

/-- What a dispatcher picks: a candidate, those passed over, once for each time, and the turns taken, as level, queue
and turns. -/
abbrev Pick := Cand × List Cand × List (Nat × Nat × Nat)

/-- The pick of the highest level that has a candidate which can start (R370, R372). -/
def State.pickLevel (s : State) (die : Nat) : Nat → List Cand → List (Nat × Nat × Nat) → List Cand → Option Pick
  | 0, _, _, _ => none
  | n + 1, passed, rounds, all =>
    if all.isEmpty then none
    else
      let lvl := all.foldl (fun n c => max n c.launch.prio) 0
      let cl := all.filter fun c => c.launch.prio == lvl
      match cl.find? fun c => c.launch.atHead && s.candAble c with
      | some h => some (h, passed, rounds ++ [(lvl, h.launch.queue, 1)])
      | none =>
        let qs := cl.foldl (fun ks c => upsert id c.launch.queue ks) []
        let cur := ((s.die die).rounds.find? fun p => p.1 == lvl).map fun p => p.2
        let (h, p, cur1) := s.pickQueue die cl qs.length cur passed qs
        let rounds1 := rounds ++ (cur1.map fun x => (lvl, x)).toList
        match h with
        | some c => some (c, p, rounds1)
        | none => s.pickLevel die n p rounds1 (all.filter fun c => c.launch.prio < lvl)

/-- What a dispatcher picks (R370). DEDUCED: log entry 23. -/
def State.pick (s : State) (die : Nat) : Option Pick :=
  let all := s.cands die
  s.pickLevel die all.length [] [] all

/-- A pick is carried out in the books: the rounds, and the bypass counts (R370). -/
def State.notePick (s : State) (die : Nat) (rounds : List (Nat × Nat × Nat)) (passed : List Cand) : State :=
  let d := s.die die
  let s1 := s.setDie { d with rounds := rounds.foldl (fun rs r => upsert Prod.fst r rs) d.rounds }
  passed.foldl (fun s c =>
    match s.launchOf c.launch.id with
    | some l =>
      let n := ((l.bypassed.find? fun p => p.1 == c.key).map Prod.snd).getD 0
      s.setLaunch { l with bypassed := upsert Prod.fst (c.key, n + 1) l.bypassed }
    | none => s) s1

/-- DISPATCH: the team that a die's dispatcher picks, once its probes have walked, starts on free cores of the die
(R370, R373). DEDUCED: log entry 50. -/
def execDispatch (launch team die gx gy : Nat) (s : State) : Out :=
  let s := s.probed die
  match s.pick die with
  | none => .next s
  | some (c, passed, rounds) =>
    let l := c.launch
    if l.id ≠ launch ∨ c.team ≠ some team ∨ !s.rectFree l.id l.prio die gx gy (lrW l.words) (lrH l.words) then .next s
    else
      let l1 := { l with todo := l.todo.filter fun n => n != team }
      let (s1, t) := ((s.setLaunch l1).notePick die rounds passed).newTeam l1 team die gx gy
      .next (s1.startTeam l1 t .running)

/-- The launch has been picked by some dispatcher that its queue feeds: the die, and the pick. -/
def State.pickedGang (s : State) (launch : Nat) : Option (Nat × List Cand × List (Nat × Nat × Nat)) :=
  (List.range 8).findSome? fun die =>
    match s.pick die with
    | some (c, passed, rounds) =>
      if c.launch.id = launch ∧ c.team = none ∧ s.feeds c.launch die then some (die, passed, rounds) else none
    | none => none

/-- The teams of a gang launch start at a placement, and their members await the start release. -/
def State.letIn (s : State) (l : Launch) (place : List (Nat × Nat × Nat)) : State :=
  let l1 := { l with place := [], admitted := true, todo := [] }
  ((s.localTeams l.words l.nt).zip place).foldl (fun s p =>
    let (s1, t) := s.newTeam l1 p.1 p.2.1 p.2.2.1 p.2.2.2
    s1.startTeam l1 t .idle) (s.setLaunch l1)

/-- ADMISSION: a gang launch that is picked is admitted whole at a placement, and its members await the start release;
where it cannot be admitted now, the placement becomes its level's reservation (R15, R372). A launch that spans modules
reserves its share; its ADMISSION at that reservation is the word that every module it names has reserved its own. One
that has no team here is admitted at that word, and its ADMISSION afterwards is the word that the stand has retired.
DEDUCED: log entries 23, 24, 50. -/
def execAdmission (launch : Nat) (place : List (Nat × Nat × Nat)) (s : State) : Out :=
  match s.launchOf launch with
  | none => .next s
  | some l =>
    let held := { l with place := [] }
    if lrGang l.words ∧ s.shareless l then
      (if l.admitted then .next (s.orStay ((s.setLaunch { l with retired := l.nt }).endLaunch launch l.words))
       else if l.gangCand ∧ !s.returning l.prio then .next (s.letIn l []) else .next s)
    else if l.spans ∧ !l.place.isEmpty then
      (if l.ready ∧ !l.admitted ∧ !s.returning l.prio ∧ l.place = place ∧ s.placeOk held place then .next (s.letIn l place) else .next s)
    else
    let s := (List.range 8).foldl State.probed s
    match s.pickedGang launch with
    | none => .next s
    | some (die, passed, rounds) =>
      if !l.spans ∧ s.placeOk held place then .next ((s.notePick die rounds passed).letIn l place)
      else if (l.spans ∨ !s.canAdmit held) ∧ s.mayReserve l ∧ s.reserveOk l place then
        .next ((s.setLaunch { l with place := place }).notePick die rounds passed)
      else .next s

/-! ## Retirement (R113, R366) -/

/-- Every engine operation that a core issued has completed, and nothing of it is on its way. -/
def State.coreQuiet (s : State) (a : Agent) : Bool :=
  let c := s.getCore a
  c.chan.all (fun o => o.done) && c.streams.toList.all List.isEmpty && c.merge.isNone && c.walks.isEmpty
    && c.entries.isEmpty && (s.die (dieOf a)).routes.all (fun o => o.who != a)
    && s.arrivals.all fun r => r.from_ != agentKey a && r.core != agentKey a

/-- A member has ended and is quiet. -/
def State.memberDone (s : State) (a : Agent) : Bool := decide ((s.getCore a).run = .ended) && s.coreQuiet a

/-- The windows of a launch's superstep that run here have ended. -/
def State.windowsEnded (s : State) (l : Launch) : Bool := l.wins.all fun w => w.ended || !s.winHere l.id w

/-- Package command processing writes bytes of a save area as an engine's write: at the L2 of a die, or line by line at
the home of another module's memory (R163, R403, R416); those of a poisoned line are lost (R193). -/
def State.areaPut (s : State) (die pa : Nat) (bs : List Byte) : State :=
  (lineParts pa bs.length).foldl (fun s p =>
    let part := (bs.drop (p.1 - pa)).take p.2
    match if s.foreign p.1 then s.farWrite 0 p.1 part else s.l2Write die 0xFFF 0 p.1 part with
    | .ok s1 => s1
    | _ => s) s

/-- Package command processing reads a save area: each line at the L2 of a die, or asked of the home of another module's
memory (R403, R416). The bytes are then those of memory. -/
def State.areaTake (s : State) (die pa n : Nat) : State :=
  (lineParts pa n).foldl (fun s p =>
    match if s.foreign p.1 then s.farRead 0 p.1 p.2 else s.l2Read die 0xFFF none 0 p.1 p.2 with
    | .ok (s1, _) => s1
    | _ => s) s

/-- The state of a save area is written: STATE and DISC (R403). DEDUCED: log entry 19. -/
def State.saveHeader (s : State) (v : Save) (st : Nat) : State :=
  s.areaPut v.die v.area (bytesOfNat 8 (st + (if v.disc then 4 else 0)) ++ bytesOfNat 8 v.team)

/-- Saves asked for a team that is gone are refused (R403). -/
def State.refuseSaves (s : State) (team : Nat) : State :=
  let mine := s.saves.filter fun v => v.team == team
  let s1 := mine.foldl (fun s v => s.saveHeader v 3) s
  { s1 with saves := s1.saves.filter fun v => v.team != team }

/-- A team's cores are free again: their cache granules leave the L1s, and nothing is on its way to them. -/
def State.freeTeam (s : State) (t : Team) : State :=
  let s1 := t.members.foldl (fun s a => (s.dropWays a 0).seat (Core.reset a)) s
  { s1.refuseSaves t.id with
    teams := s1.teams.filter fun x => x.id != t.id
    tileLines := s1.tileLines.filter fun (l : TileLine) => l.team != t.id
    arrivals := s1.arrivals.filter fun r => !t.members.contains (agentOf r.core)
    dies := s1.dies.map fun (d : Die) => { d with routes := d.routes.filter fun o => !t.members.contains o.who } }

/-- The retirement release of a team (R113). -/
def State.releaseTeam (s : State) (t : Team) (sc : Scope) : State := t.members.foldl (fun s a => s.release a sc) s

/-- Teams of one launch retire together, and their launch with them where nothing of it is left (R366). -/
def State.retireTeams (s : State) (l : Launch) (ts : List Team) (words : List Word) : Res State :=
  let s1 := ts.foldl State.freeTeam s
  match s1.launchOf l.id with
  | none => .ok s1
  | some l1 => (s1.setLaunch { l1 with retired := if lrGang l1.words then l1.nt else l1.retired + ts.length }).endLaunch l.id words

/-- The retirement release of teams of a launch, and once it is done what follows it (R113, R366): the state, and
whether it has gone that far. -/
def State.afterRelease (s : State) (l : Launch) (ts : List Team) (k : State → Res State) : State × Bool :=
  let s1 := ts.foldl (fun s x => s.releaseTeam x l.scope) s
  if !s1.releaseDone l.scope then (s1, false)
  else match k s1 with
    | .ok s2 => (s2, true)
    | _ => (s1, false)

/-- TEAM_RETIREMENT: every member has ended and all its operations have completed; a stand ends as a whole (R113). Of
one that spans modules the event is the word that its members on the others have ended too. DEDUCED: log entry 24. -/
def execTeamRetirement (team : Nat) (s : State) : Out :=
  match s.teamOf team with
  | none => .next s
  | some t =>
    match s.launchOf t.launch with
    | none => .next s
    | some l =>
      let ts := if lrGang l.words then s.teamsOf l.id else [t]
      if ts.all (fun x => x.members.all s.memberDone) ∧ s.windowsEnded l then
        .next (s.afterRelease l ts fun s1 => s1.retireTeams l ts t.words).1
      else .next s

/-- Mode abort ends a team, or a whole stand: its contexts are discarded and the launch completes as ABORTED (R26,
R366): the state, and whether it has gone that far. -/
def State.abortTeam (s : State) (team : Nat) : State × Bool :=
  match s.teamOf team with
  | none => (s, true)
  | some t =>
    match s.launchOf t.launch with
    | none => (s, true)
    | some l =>
      let ts := if lrGang l.words then s.teamsOf l.id else [t]
      s.afterRelease l ts fun s1 => (s1.setLaunch { l with code := 6 }).retireTeams l ts t.words

/-! ## The carve (R98, R378, R379) -/

/-- Map slots whose header or map a test on granules meets become lost; true where one does (R340, R341). -/
def Core.loseSlots (c : Core) (leaves : Nat → Bool) : Core × Bool :=
  let hit (s : Nat) : Bool :=
    c.slotLive s && ((granulesOf (c.slotHead s) 16).any leaves || (granulesOf (c.slotMap s) (2 * c.headN s)).any leaves)
  ((List.range 8).foldl (fun d s => if hit s then d.setSlot s .lost else d) c, (List.range 8).any hit)

/-- A core's granules move to a carve of S scratch granules (R98); with the S it has, none moves (R379). -/
def State.moveCarve (s : State) (a : Agent) (scr : Nat) : State :=
  if scr = (s.getCore a).scr then s
  else
    let s1 := s.dropWays a (47 - scr)
    let c1 := ((s1.getCore a).loseSlots fun g => decide (scr ≤ g)).1
    s1.seat { c1 with
      scratch := c1.scratch.filter fun (p : Host.Cell) => p.1 < scr * 0x4000
      granules := []
      csr := { c1.csr with carvew := carveWord scr } }

/-- Every merge of a core is over. -/
def Core.mergesDone (c : Core) : Bool :=
  c.merge.isNone && c.chan.all fun o => match o.instr with | .umrg _ => o.done | _ => true

/-- The operand of a member's `carve`. -/
def Core.carveAsked (c : Core) : Option Word :=
  match c.run with
  | .held (.carve _) ops => some ops.a
  | _ => none

/-- No lock covers a granule that leaves scratch. -/
def Core.topFree (c : Core) (scr : Nat) : Bool := !c.locks.any fun l => !l.glob && decide (scr * 0x4000 < l.high)

/-- CARVE_RENEGOTIATION: every member has issued its `carve`; the granules of all move in one step, or words that differ
raise TEAM on every member (R378). -/
def execCarveRenegotiation (team : Nat) (s : State) : Out :=
  match s.teamOf team with
  | none => .next s
  | some t =>
    let asks := t.members.filterMap fun a => (s.getCore a).carveAsked
    if asks.length ≠ t.size then .next s
    else match asks with
    | [] => .next s
    | v :: rest =>
      if !rest.all (fun w => w == v) then
        .next (t.members.foldl (fun s a =>
          (s.modCore a fun c => { c with run := .running }).faultHere a { code := .team }) s)
      else
        let scr := fld v 5 0
        let ok (a : Agent) : Bool :=
          let c := s.getCore a
          c.vqueue.isEmpty && (v.toNat == fld c.csr.carvew 11 0 || (c.mergesDone && c.topFree scr)) && c.accessesDone false
        if t.members.all ok then
          let s1 := t.members.foldl (fun s a => (s.release a .die).moveCarve a scr) s
          .next (t.members.foldl (fun s a => (s.acquire a .die).modCore a Core.wake) s1)
        else .next s

/-! ## Successors (R381 to R385) -/

/-- The masks of a member's `succ`. -/
def Core.succAsked (c : Core) : Option (Nat × Word × Word) :=
  match c.run with
  | .held (.succ _ _ _) ops => some (ops.a.toNat, ops.b, ops.c)
  | _ => none

/-- The accumulator bank that a matrix operation or command uses. -/
def bankUsed : Instr → Option Acc
  | .mma a _ _ | .mmat a _ _ | .mred _ a _ | .mzero a | .mld a _ | .mst _ _ a _ | .amov _ a _ => some a
  | _ => none

/-- The mask inherits bank a, or the entry uses none. -/
def keepsBank (ma : Word) (i : Instr) : Bool := match bankUsed i with | some a => ma.getLsbD (29 + a.val) | none => true

/-- A scratch granule passes to a successor of S granules (R380, R382). -/
def keepsGranule (c : Core) (mb : Word) (scr g : Nat) : Bool :=
  decide (g < 47) && mb.getLsbD g && decide (g < scr) && decide (g < c.scr)

/-- An operation of the channel writes into another core's scratch: the core, and the span (R232, R353). -/
def EngOp.remoteSpan (o : EngOp) (self : Nat) : Option (Nat × Nat × Nat) :=
  match o.instr with
  | .xput _ _ =>
    let r := o.recs
    if xpMod r = self then some (xpCore r, fld (wordAt r 0) 20 0, 8 + min (o.ops.getD 1 0).toNat (xpCap r - 8)) else none
  | .copy _ _ | .copyf _ _ _ _ | .stage _ | .gath _ _ _ =>
    if Lay.space o.dst = 2 then some (Lay.core o.dst, Lay.span o.dst) else none
  | _ => none

/-- An operation of some core that has not completed writes into a granule of a core's scratch that a test picks. -/
def State.reachesInto (s : State) (a : Agent) (gone : Nat → Bool) : Bool :=
  s.cores.any fun c => c.chan.any fun o =>
    !o.done && !o.cancelled && match o.remoteSpan s.self with
      | some (core, lo, n) => Agent.tile core == a && (granulesOf lo n).any gone
      | none => false

/-- The waits of a hand-over on one core are over: those of its own operations, and of every operation that writes into
a granule to be scrubbed (R383). DEDUCED: log entry 33. -/
def State.handReady (s : State) (a : Agent) (ma mb : Word) (scr : Nat) : Bool :=
  let c := s.getCore a
  c.entries.all (fun e => unitOf e.instr == 2) && c.mergesDone && c.walks.isEmpty
    && (s.die (dieOf a)).routes.all (fun o => o.who != a)
    && c.locks.all (fun l => l.glob || (granulesOf l.low (l.high - l.low)).all (keepsGranule c mb scr))
    && !s.reachesInto a (fun g => !keepsGranule c mb scr g)
    && c.stream0.all (fun e => !e.started || keepsBank ma e.instr)
    && c.streams.toList.all fun es => es.all fun e => !e.started || keepsBank ma e.instr

/-- Matrix operations that have not started on banks not inherited are discarded (R275). -/
def State.discardOps (s : State) (a : Agent) (ma : Word) : State :=
  let c := s.getCore a
  let bad (e : Entry) : Bool := unitOf e.instr == 2 && !keepsBank ma e.instr
  let gone := ((c.entries ++ c.streams.toList.flatten).filter bad).map Entry.tag
  let cmds := c.chan.filter fun o => match o.instr with
    | .copyf _ _ _ _ => !o.done && !ma.getLsbD (29 + fld (o.ops.getD 5 0) 1 0)
    | _ => false
  let plain (o : EngOp) : EngOp :=
    match o.instr with
    | .copyf x y _ _ => if cmds.any fun p => p.id == o.id then { o with instr := .copy x y } else o
    | _ => o
  let tags := gone ++ cmds.map EngOp.tag
  let c1 := { c with
    entries := c.entries.filter fun e => !gone.contains e.tag
    streams := c.streams.map fun es => es.filter fun e => !gone.contains e.tag
    leases := c.leases.filter fun l => !tags.contains l.own
    locks := c.locks.filter fun l => !gone.contains l.own
    chan := c.chan.map plain }
  (cmds.filter fun o => o.moved).foldl (fun s o => s.completeCopy a (plain o) o.status o.part) (s.setCore c1)

/-- The registers that pass to a successor; of the vector groups those up to the lower VG of the two kernels (R374, R380
to R383). -/
def Regs.inherit (r : Regs) (ma : Word) (vg : Nat) (sv : Vector Word 32) : Regs :=
  { k := Vector.ofFn fun i => if ma.getLsbD i.val then r.k.get i else 0
    m := Vector.ofFn fun i => if ma.getLsbD (16 + i.val / 8) then r.m.get i else 0
    v := Vector.ofFn fun i => if ma.getLsbD (24 + i.val / 8) ∧ i.val / 8 ≤ vg then r.v.get i else 0
    f := Vector.ofFn fun i => if i.val = 0 then BitVec.allOnes 256 else if ma.getLsbD 28 then r.f.get i else 0
    acc := Vector.ofFn fun i => if ma.getLsbD (29 + i.val) then r.acc.get i else zeroBank
    sv := sv }

/-- A core as its successor finds it (R383); MSTK with its lost slots comes from the core given, and `vg0` is the VG of
its predecessor. -/
def Core.handOver (c : Core) (vg0 : Nat) (words consts ids : List Word) (ma mb : Word) (sv : Vector Word 32) : Core :=
  let scr := lrScr words
  let keep := keepsGranule c mb scr
  let fresh := Core.reset c.who
  let arith := ma.getLsbD 33
  let csr : Csrs :=
    { fresh.csr with
      carvew := carveWord scr, vshare := BitVec.ofNat 64 (lrVw words), xstage := BitVec.ofNat 64 (lrNsch words * 2 ^ 16)
      mstk := c.csr.mstk, xnext := c.csr.xnext, xdone := c.csr.xdone, xstat := c.csr.xstat, xpart := c.csr.xpart
      rlstat := c.csr.rlstat
      vcfg := if arith then c.csr.vcfg else 0
      awin := if arith then c.csr.awin else Vector.replicate 7 0
      nflags := if arith then c.csr.nflags else 0
      srseed := if arith then c.csr.srseed else 0 }
  let old := c.scratch.filter fun (p : Host.Cell) => 0x800 ≤ p.1 && keep (p.1 / 0x4000)
  { fresh with
    run := .running, pc := lrCode words, nextPc := lrCode words, task := c.task
    regs := c.regs.inherit ma (min vg0 (lrVg words)) sv
    csr := csr
    gens := if arith then c.gens else fresh.gens
    scratch := Memory.writeBytes old 0 (constWindow consts ids)
    leases := c.leases, locks := c.locks, entries := c.entries, streams := c.streams
    teamCount := c.teamCount
    mredBanks := c.mredBanks.filter fun b => (c.entries ++ c.streams.toList.flatten).any fun e =>
      isTeamOp e.instr && e.seq == b.1
    chan := c.chan, idScopes := c.idScopes, flagged := c.flagged
    granules := c.granules.filter fun g => keep g.g
    escScopes := c.escScopes.filter fun p => keep (escOff p.1 / 0x4000) }

/-- The bits of c255 that a hand-over sets on a core, for the granules that the core has (R382, R341). DEDUCED: log
entry 33. -/
def handFlags (c : Core) (ma mb : Word) (scr vg : Nat) (lost : Bool) : Nat :=
  (if (List.range c.scr).any fun g => mb.getLsbD g && decide (scr ≤ g) then 2 else 0) + (if lost then 4 else 0)
    + (if (List.range 4).any fun g => ma.getLsbD (24 + g) && decide (vg < g) then 8 else 0)

/-- The slot of each member is handed over (R383). -/
def State.handCore (s : State) (l : Launch) (vg0 : Nat) (t : Team) (rank : Nat) (sv1 : List Word) (written : List Nat) : State :=
  let a := t.member rank
  match (s.getCore a).succAsked with
  | none => s
  | some (_, ma, mb) =>
    let scr := lrScr t.words
    let s1 := ((s.release a .cl).discardOps a ma).dropWays a (47 - scr)
    let c := s1.getCore a
    let (c1, lost) := c.loseSlots fun g => !keepsGranule c mb scr g
    let ctx : Word := match c.task with | some k => k.ctx.setWidth 64 | none => 0
    let super := if lrGang l.words then l.superstep else 0
    let ids := identityWords t rank ctx super (handFlags c ma mb scr (lrVg t.words) lost)
    let sv : Vector Word 32 := Vector.ofFn fun i => if written.contains i.val then sv1.getD i.val 0 else c.regs.sv.get i
    s1.seat (c1.handOver vg0 t.words l.consts ids ma mb sv)

/-- The members of a hand-over park with TEAM: each one's `succ` or `end` stands in its queue, and its resume address is
the chain after it (R381). DEDUCED: log entry 33. -/
def State.succMismatch (s : State) (members : List Agent) : State :=
  members.foldl (fun s a =>
    let s1 := s.modCore a fun c => if c.run = .ended then { c with run := .held .endTask {} } else c
    let c := s1.getCore a
    s1.faultAt a c.pc { code := .team } c.nextPc none [s1.serial]) s

/-- A chain of kernels ends with a status at its hand-over: the team's engines are done with all of each slot, its
release is performed, and its slots are scrubbed and freed (R321, R366, R382). The record is that of the kernel that
gave `succ`, which handed over to none. DEDUCED: log entry 33. -/
def State.chainFails (s : State) (l : Launch) (ts : List Team) (words : List Word) (code : Nat) : State :=
  if !(ts.flatMap Team.members).all fun a => s.handReady a 0 0 0 then s
  else
    (s.afterRelease l ts fun s1 => (s1.setLaunch { l with code := if l.code = 0 then code else l.code }).retireTeams l ts words).1

/-- The successor of another shape or class is queued as a launch at the head of its level (R382).
DEDUCED: log entry 33. DESIGN CHOICE: log entry 4. -/
def State.queueSuccessor (s : State) (l : Launch) (ts : List Team) (words : List Word) (sv : List Word) : State :=
  let root := l.root.getD l.id
  let lost := ts.flatMap fun t => (List.range t.size).map fun rank =>
    (64 * t.idx + rank, fld (s.getCore (t.member rank)).csr.mstk 31 24)
  let l1 : Launch := { id := s.launchIds, queue := l.queue, prio := l.prio, asid := l.asid, words := words, sv := sv
                       met := List.replicate 4 true, atHead := true, root := some root, superstep := l.superstep
                       lostMaps := lost.filter fun p => p.2 != 0 }
  let s1 := ({ s with launchIds := s.launchIds + 1 } : State).setLaunch l1
  match s1.launchOf root with
  | some r => s1.setLaunch { r with children := r.children + 1 }
  | none => s1

/-- The slot of a kernel whose successor is queued is given up, once its engines are done and its release is
performed. -/
def State.requeue (s : State) (l : Launch) (ts : List Team) (words : List Word) (sv : List Word) : State :=
  if !(ts.flatMap Team.members).all fun a => s.handReady a 0 0 0 then s
  else
    (s.afterRelease l ts fun s1 =>
      let s2 := s1.queueSuccessor l ts words sv
      match s2.launchOf l.id with
      | some l2 => s2.retireTeams l2 ts words
      | none => .ok s2).1

/-- The windows of a successor's schedule, which run from the next chime release on. DEDUCED: log entry 33. -/
def standWins (es : List Word) : List Win := es.map fun e => { entry := e, header := some 0, sent := true, ended := true }

/-- Every window of a new schedule has its place where the stand stands. -/
def State.winsHold (s : State) (l : Launch) (r : List Word) (es : List Word) (ts : List Team) : Bool :=
  s.winsFree l.id (placedWins r es (ts.map Team.idx) (ts.map fun t => (t.die, t.gx, t.gy)))

/-- The members of a team go on counting their team instructions from one common number, so that those of the successor
are matched afresh, with each other alone (R265). -/
def State.countAfresh (s : State) (t : Team) : State :=
  let n := t.members.foldl (fun n a => max n (s.getCore a).teamCount) 0
  t.members.foldl (fun s a => s.modCore a fun c => { c with teamCount := n }) s

/-- The hand-over of teams whose members all gave the same `succ` (R382, R383). -/
def State.handTeams (s : State) (l : Launch) (ts : List Team) (i : Nat) : State :=
  match ts with
  | [] => s
  | t0 :: _ =>
    let q := s.queue l.queue
    let asks (a : Agent) : Word × Word := match (s.getCore a).succAsked with | some (_, ma, mb) => (ma, mb) | none => (0, 0)
    match s.dieRead t0.die l.asid (fld (lrSucc t0.words i) 51 0) 256 with
    | .wait => s
    | .bad _ => s.chainFails l ts t0.words 5
    | .ok (s1, bs) =>
      let r := wordsOf bs
      match recordCode r q.home with
      | 0 =>
        let members := ts.flatMap Team.members
        let sv0 := (s1.getCore (t0.member 0)).regs.sv.toList
        let nt := match shapeOf r sv0 with | .ok sv _ => teamCount r sv | .bad _ => some l.nt
        let void := decide (lrW r ≠ t0.w) || decide (lrH r ≠ t0.h) || lrGang r != lrGang l.words
          || (lrGang r && decide (nt ≠ some l.nt))
        if void then s1.requeue l ts r sv0
        else if !members.all fun a => s1.handReady a (asks a).1 (asks a).2 (lrScr r) then s1
        else match s1.prepare false t0.die 15 l.asid r sv0 with
        | .wait => s1
        | .bad s2 code => s2.chainFails l ts t0.words code
        | .ok s2 sv1 written _ cs sch xs =>
          if lrGang r ∧ !s2.winsHold l r xs ts then s2.chainFails l ts t0.words 4
          else
            let l1 := { l with consts := cs, wins := if lrGang r then standWins xs else l.wins
                               words := if lrGang r then r else l.words }
            let s3 := s2.setLaunch (if lrGang r then l1 else l)
            ts.foldl (fun s t =>
              let t1 := { t with words := r, sched := sch }
              ((List.range t.size).foldl (fun s rank => s.handCore l1 (lrVg t.words) t1 rank sv1 written)
                (s.setTeam t1)).countAfresh t1) s3
      | code => s1.chainFails l ts t0.words code

/-- HAND_OVER: every member has given `succ` or `end`; they differ and all park, or the slot passes to the successor
(R381 to R383). Of a stand that spans modules the event is the word that the members on the others have given theirs;
whether those agree, and where every member here gave `end` whether one of them gave `succ`, only the other modules
know. DEDUCED: log entry 24. -/
def execHandOver (team : Nat) (s : State) : Out :=
  match s.teamOf team with
  | none => .next s
  | some t =>
    match s.launchOf t.launch with
    | none => .next s
    | some l =>
      let ts := if lrGang l.words then s.teamsOf l.id else [t]
      let members := ts.flatMap Team.members
      let gave (a : Agent) : Bool :=
        let c := s.getCore a
        c.succAsked.isSome || decide (c.run = .ended)
      let is := members.filterMap fun a => ((s.getCore a).succAsked).map fun x => x.1
      match is with
      | [] =>
        if l.spans ∧ !members.isEmpty ∧ members.all gave then
          (if Config.freeBool s.free then .next ((s.useFree 1).succMismatch members) else .next (s.useFree 1))
        else .next s
      | i :: rest =>
        if !members.all gave then .next s
        else if is.length ≠ members.length ∨ !rest.all (fun j => j == i) then .next (s.succMismatch members)
        else if l.spans ∧ Config.freeBool s.free then .next ((s.useFree 1).succMismatch members)
        else if !s.windowsEnded l ∨ !members.all (fun a => (s.getCore a).accessesDone true) then .next s
        else .next (s.handTeams l ts i)

end Sys2Proof.Machine
end

