-- ==== Sys2Proof/Machine/Scalar.lean ====
section
/-! DEFINITION. Page 0 and page 1 scalar instructions (05_core_ops.md, R116 to R137) and `nop` (R114). -/

namespace Sys2Proof.Machine

/-- A truth value as a result. -/
def truth (b : Bool) : Word := if b then 1 else 0

/-- The count of a shift: bits 5:0 (R119). -/
def shiftCount (y : Word) : Nat := y.toNat % 64

/-- Rotation to the left (R126). -/
def funnelLeft (x y : Word) (n : Nat) : Word := if n = 0 then x else (x <<< n) ||| (y >>> (64 - n))

/-- The funnel shift to the right (R126). -/
def funnelRight (x y : Word) (n : Nat) : Word := if n = 0 then y else (x <<< (64 - n)) ||| (y >>> n)

/-- Truncated division and its remainder, with the cases of R128. -/
def divS (x y : Word) : Word := if y = 0 then BitVec.allOnes 64 else BitVec.ofInt 64 (x.toInt.tdiv y.toInt)
def divU (x y : Word) : Word := if y = 0 then BitVec.allOnes 64 else BitVec.ofNat 64 (x.toNat / y.toNat)
def remS (x y : Word) : Word := if y = 0 then x else BitVec.ofInt 64 (x.toInt.tmod y.toInt)
def remU (x y : Word) : Word := if y = 0 then x else BitVec.ofNat 64 (x.toNat % y.toNat)

/-- The zero bits below the lowest set bit of a pattern (R121). -/
def ctzN : Nat → Nat → Nat
  | 0, _ => 0
  | n + 1, x => if x % 2 = 1 then 0 else 1 + ctzN n (x / 2)

/-- The byte swap (R126). -/
def swapBytes (x : Word) : Word :=
  BitVec.ofNat 64 (natOfBytes (bytesOfNat 8 x.toNat).reverse)

/-- A field of ones of a length at a position. -/
def onesAt (pos len : Nat) : Word := BitVec.ofNat 64 ((2 ^ len - 1) * 2 ^ pos)

/-- The field extract of R130. -/
def extractField (x pos len : Word) : Word :=
  BitVec.ofNat 64 (x.toNat / 2 ^ (pos.toNat % 64) % 2 ^ min (len.toNat % 128) 64)

/-- The field deposit of R130. -/
def depositField (x v : Word) (pos len : Nat) : Word :=
  (x &&& ~~~(onesAt pos len)) ||| (BitVec.ofNat 64 (v.toNat * 2 ^ pos) &&& onesAt pos len)

/-- Sign extension from bit n - 1 (R131). -/
def signFrom (x : Word) (n : Nat) : Word := BitVec.ofInt 64 (signedOf n (x.toNat % 2 ^ n))

/-! ## Page 0 -/

def execNop (s : State) : Out := .next s.retire

def execPick (x : Src) (s : State) : Out := s.compute [x] fun c => c.value x

/-- `put` (R123): the only write of k0 to k14 and m0 to m63 from a train value. -/
def execPut (d : Dst) (x : Src) (s : State) : Out :=
  s.issue [x] (nameDst d :: namesOf [x]) (.next { s with core := (s.core.setDst d (s.core.value x)).retire })

def execAdd (x y : Src) (s : State) : Out := s.compute [x, y] fun c => c.value x + c.value y
def execSub (x y : Src) (s : State) : Out := s.compute [x, y] fun c => c.value x - c.value y
def execAddi (x : Src) (imm : Int) (s : State) : Out := s.compute [x] fun c => c.value x + BitVec.ofInt 64 imm
def execMul (x y : Src) (s : State) : Out := s.compute [x, y] fun c => c.value x * c.value y
def execAnd (x y : Src) (s : State) : Out := s.compute [x, y] fun c => c.value x &&& c.value y
def execOr (x y : Src) (s : State) : Out := s.compute [x, y] fun c => c.value x ||| c.value y
def execXor (x y : Src) (s : State) : Out := s.compute [x, y] fun c => c.value x ^^^ c.value y
def execAndi (x : Src) (imm : Nat) (s : State) : Out := s.compute [x] fun c => c.value x &&& BitVec.ofNat 64 imm
def execShl (x y : Src) (s : State) : Out := s.compute [x, y] fun c => c.value x <<< shiftCount (c.value y)
def execShr (x y : Src) (s : State) : Out := s.compute [x, y] fun c => c.value x >>> shiftCount (c.value y)
def execSra (x y : Src) (s : State) : Out :=
  s.compute [x, y] fun c => BitVec.sshiftRight (c.value x) (shiftCount (c.value y))
def execShli (x : Src) (n : Nat) (s : State) : Out := s.compute [x] fun c => c.value x <<< n
def execShri (x : Src) (n : Nat) (s : State) : Out := s.compute [x] fun c => c.value x >>> n
def execSrai (x : Src) (n : Nat) (s : State) : Out := s.compute [x] fun c => BitVec.sshiftRight (c.value x) n
def execCeq (x y : Src) (s : State) : Out := s.compute [x, y] fun c => truth (c.value x == c.value y)
def execClt (x y : Src) (s : State) : Out := s.compute [x, y] fun c => truth ((c.value x).slt (c.value y))
def execCltu (x y : Src) (s : State) : Out := s.compute [x, y] fun c => truth ((c.value x).ult (c.value y))
def execClti (x : Src) (imm : Int) (s : State) : Out := s.compute [x] fun c => truth (decide ((c.value x).toInt < imm))
def execMin (x y : Src) (s : State) : Out :=
  s.compute [x, y] fun c => if (c.value y).slt (c.value x) then c.value y else c.value x
def execMax (x y : Src) (s : State) : Out :=
  s.compute [x, y] fun c => if (c.value x).slt (c.value y) then c.value y else c.value x
def execMinu (x y : Src) (s : State) : Out :=
  s.compute [x, y] fun c => if (c.value y).ult (c.value x) then c.value y else c.value x
def execMaxu (x y : Src) (s : State) : Out :=
  s.compute [x, y] fun c => if (c.value x).ult (c.value y) then c.value y else c.value x
def execPopc (x : Src) (s : State) : Out := s.compute [x] fun c => BitVec.ofNat 64 (popN 64 (c.value x).toNat)
def execClz (x : Src) (s : State) : Out := s.compute [x] fun c => BitVec.ofNat 64 (clzN 64 (c.value x).toNat)
def execCtz (x : Src) (s : State) : Out := s.compute [x] fun c => BitVec.ofNat 64 (ctzN 64 (c.value x).toNat)
def execLi (imm : Int) (s : State) : Out := s.compute [] fun _ => BitVec.ofInt 64 imm
def execLdc (n : Fin 256) (s : State) : Out := s.compute [.c n] fun c => c.constWord n.val

/-! ## Local loads and stores (R135 to R137, R206) -/

/-- A producer whose value is known at issue and lands 4 ck later (R83). -/
def State.pushIn4 (s : State) (i : Instr) (ops : Ops) (v : Word) : Out :=
  if !s.core.entryRoom then s.stall
  else .next (s.enter
    { tag := 0, instr := i, addr := 0, ops := ops, tr := true, ready := true, result := v, due := some (s.time + 4) }).retire

/-- The value that a local load reads (R135, R137). -/
def Core.localValue (c : Core) (w : Width) (o : Nat) : Word := extend w (c.scratch.readNat o (widthBytes w))

def execLld (w : Width) (addr : Src) (off : Int) (s : State) : Out :=
  let c := s.core
  s.issue [addr] (namesOf [addr])
    (s.check (c.localCheck (c.value addr) off (widthBytes w) false) fun o =>
      if c.vectorHolds o (widthBytes w) then s.stall
      else s.pushIn4 (.lld w addr off) { a := c.value addr, b := BitVec.ofNat 64 w.code } (c.localValue w o))

/-- A local store of n bytes. -/
def State.localStore (s : State) (addr val : Src) (off : Int) (n : Nat) : Out :=
  let c := s.core
  s.issue [addr, val] (namesOf [addr, val])
    (s.check (c.localCheck (c.value addr) off n true) fun o =>
      if c.vectorHolds o n then s.stall
      else .next { s with core := (c.storeLocal o (bytesOfNat n (c.value val).toNat)).retire })

def execLstB (addr val : Src) (off : Int) (s : State) : Out := s.localStore addr val off 1
def execLstH (addr val : Src) (off : Int) (s : State) : Out := s.localStore addr val off 2
def execLstW (addr val : Src) (off : Int) (s : State) : Out := s.localStore addr val off 4
def execLstD (addr val : Src) (off : Int) (s : State) : Out := s.localStore addr val off 8

/-! ## Page 1 -/

def execSel (x y z : Src) (s : State) : Out :=
  s.compute [x, y, z] fun c => if c.value z ≠ 0 then c.value x else c.value y
def execBmux (x y z : Src) (lo hi : Fin 16) (s : State) : Out :=
  s.compute [x, y, z] fun c =>
    BitVec.ofNat 64 (bmuxN 64 lo.val hi.val (c.value x).toNat (c.value y).toNat (c.value z).toNat)
def execFshl (x y n : Src) (s : State) : Out :=
  s.compute [x, y, n] fun c => funnelLeft (c.value x) (c.value y) (shiftCount (c.value n))
def execFshr (x y n : Src) (s : State) : Out :=
  s.compute [x, y, n] fun c => funnelRight (c.value x) (c.value y) (shiftCount (c.value n))
def execMulh (x y : Src) (s : State) : Out :=
  s.compute [x, y] fun c => BitVec.ofInt 64 ((c.value x).toInt * (c.value y).toInt / 2 ^ 64)
def execMulhu (x y : Src) (s : State) : Out :=
  s.compute [x, y] fun c => BitVec.ofNat 64 ((c.value x).toNat * (c.value y).toNat / 2 ^ 64)
def execDiv (x y : Src) (s : State) : Out := s.compute [x, y] fun c => divS (c.value x) (c.value y)
def execDivu (x y : Src) (s : State) : Out := s.compute [x, y] fun c => divU (c.value x) (c.value y)
def execRem (x y : Src) (s : State) : Out := s.compute [x, y] fun c => remS (c.value x) (c.value y)
def execRemu (x y : Src) (s : State) : Out := s.compute [x, y] fun c => remU (c.value x) (c.value y)
def execMadd (x y z : Src) (s : State) : Out := s.compute [x, y, z] fun c => c.value x * c.value y + c.value z
def execLea (x y : Src) (sh : Fin 64) (s : State) : Out := s.compute [x, y] fun c => c.value x + (c.value y <<< sh.val)
def execBext (x pos len : Src) (s : State) : Out :=
  s.compute [x, pos, len] fun c => extractField (c.value x) (c.value pos) (c.value len)
def execBdep (x val : Src) (pos : Fin 64) (len : Nat) (s : State) : Out :=
  s.compute [x, val] fun c => depositField (c.value x) (c.value val) pos.val len
def execSext (x : Src) (bits : Nat) (s : State) : Out := s.compute [x] fun c => signFrom (c.value x) bits
def execZext (x : Src) (bits : Nat) (s : State) : Out :=
  s.compute [x] fun c => BitVec.ofNat 64 ((c.value x).toNat % 2 ^ bits)
def execRotl (x n : Src) (s : State) : Out :=
  s.compute [x, n] fun c => funnelLeft (c.value x) (c.value x) (shiftCount (c.value n))
def execBswap (x : Src) (s : State) : Out := s.compute [x] fun c => swapBytes (c.value x)
def execClamp (x lo hi : Src) (s : State) : Out :=
  s.compute [x, lo, hi] fun c =>
    let low := if (c.value x).slt (c.value lo) then c.value lo else c.value x
    if (c.value hi).slt low then c.value hi else low
def execRdsv (i : Fin 32) (s : State) : Out := s.compute [] fun c => c.regs.sv.get i
def execWrsv (i : Fin 32) (x : Src) (s : State) : Out :=
  s.issue [x] (namesOf [x]) (.next { s with core := (s.core.setSv i (s.core.value x)).retire })
def execRdtime (s : State) : Out := s.compute [] fun _ => BitVec.ofNat 64 s.time

end Sys2Proof.Machine
end

