-- ==== Sys2Proof/Machine/Frame.lean ====
section
/-! DEFINITION. The trap frame item by item (R394), and the end of a park: re-injection of the replay queue under each
mode (R395). -/

namespace Sys2Proof.Machine

/-! ## Items of the frame (R394) -/

/-- The train position that an entry fills: in the train of the code that runs, else in the main train, whose
interrupted code issued it (R86, R87). DEDUCED: log entry 60. -/
def Core.ageOf (c : Core) (tag : Nat) : Option Nat :=
  let age (t : Train) : Option Nat := t.toList.findIdx? fun p => p.tag == some tag
  (age c.train).or (age c.regs.train)

/-- The units of R394 in an entry's CTRL item: an instruction of the sequencer is unit 0. -/
def Core.ctrlWord (c : Core) (e : Entry) : Word :=
  let age := c.ageOf e.tag
  BitVec.ofNat 64 (unitOf e.instr * 2 ^ 59 + age.getD 0 * 2 ^ 55 + (if age.isSome then 2 ^ 54 else 0)
    + (if e.flt then 2 ^ 53 else 0) + (if e.v then 2 ^ 52 else 0) + fld e.addr 51 0)

/-- HDR: the code, the number of entries, DEC and MAL. -/
def Core.hdrWord (c : Core) : Word :=
  BitVec.ofNat 64 (c.frame.code.num + c.frameEntries.length * 2 ^ 8 + (if c.frame.dec then 2 ^ 13 else 0)
    + if c.frame.mal then 2 ^ 14 else 0)

/-- PEND: bit n where train position n awaits a value. -/
def Core.pendWord (c : Core) : Word :=
  BitVec.ofNat 64 (((List.range 16).filter fun n => (c.train.toList.getD n {}).tag.isSome).foldl (fun x n => x + 2 ^ n) 0)

/-- Item i of the frame of a parked core; inside a user-level handler PEND and the train are the handler's.
DEDUCED: log entries 36, 60. -/
def Core.frameItem (c : Core) (i : Nat) : Word :=
  if i = 0 then c.hdrWord
  else if i = 1 then c.frame.resume
  else if i = 2 then c.frame.detail
  else if i = 3 then c.frame.next
  else if i = 4 then c.frame.aux
  else if i = 5 then c.pendWord
  else if 16 ≤ i ∧ i < 32 then
    let p := c.train.toList.getD (i - 16) {}
    if p.tag.isSome then 0 else p.value
  else if i < 64 then 0
  else match c.frameEntries[(i - 64) / 8]? with
  | none => 0
  | some e =>
    match (i - 64) % 8 with
    | 0 => c.ctrlWord e
    | 1 => e.ops.a
    | 2 => e.ops.b
    | 3 => e.ops.c
    | 4 => e.result
    | 5 => e.cfg0
    | 6 => e.cfg1
    | _ => 0

/-- Write a train position; a pending position goes on awaiting its entry. -/
def Core.putPos (c : Core) (n : Nat) (v : Word) : Core :=
  c.setTrain (Vector.ofFn fun i => if i.val = n then { (c.train.get i) with value := v } else c.train.get i)

/-- An item of an entry is written under R394. -/
def Entry.putItem (e : Entry) (k : Nat) (v : Word) : Entry :=
  match k with
  | 0 => { e with v := v.getLsbD 52 }
  | 1 => { e with ops := { e.ops with a := v } }
  | 2 => { e with ops := { e.ops with b := v } }
  | 3 => { e with ops := { e.ops with c := v } }
  | 4 => { e with result := v }
  | _ => e

/-- Write item i of the frame of a parked core. RESUME keeps no bit 0: the program counter is always even (R29).
DESIGN CHOICE: log entry 61. -/
def Core.putItem (c : Core) (i : Nat) (v : Word) : Core :=
  if i = 1 then { c with frame := { c.frame with resume := v &&& ~~~1 } }
  else if 16 ≤ i ∧ i < 32 then c.putPos (i - 16) v
  else if i < 64 then c
  else match c.frameEntries[(i - 64) / 8]? with
  | none => c
  | some e => c.putEntry (e.putItem ((i - 64) % 8) v)

/-! ## Checks of a re-injected chain -/

/-- The issue checks of a vector entry with its captured configuration (R197, R225, R226, R305). -/
def Core.vectorRecheck (c : Core) (e : Entry) : Res Unit :=
  let t := cfgType e.cfg0
  match e.instr with
  | .vld _ _ => c.vlocalCheck t e.cfg1 e.ops.b false
  | .vst _ _ => c.vlocalCheck t e.cfg1 e.ops.b true
  | .vldg _ _ => c.vglobalCheck t e.ops.b false
  | .vstg _ _ => c.vglobalCheck t e.ops.b true
  | .vgath _ _ _ | .vscat _ _ _ => vgatherCheck t e.ops.b
  | .hsift _ _ _ => heapOperands e.ops.a 30 e.ops.c
  | .vhsift _ _ _ => heapOperands e.ops.a 24 e.ops.c
  | .hsort _ => heapOperands e.ops.a 25 0
  | _ => .ok ()

/-- The checks of an entry of the focal core, run afresh over its operands OPA to OPC and its captured configuration.
The lease that the entry itself holds is no fault. DEDUCED: log entry 12. -/
def State.recheck (s : State) (e : Entry) : Res Unit :=
  let c := s.core
  match accessOf e.instr e.ops with
  | some x => (c.accessCheck x).andThen fun _ => s.hitCheck x
  | none =>
    match e.instr with
    | .flush _ _ _ _ => Res.unless (flushLenOk e.ops.b) fmtFlt
    | .mma _ _ _ => s.productCheck c false e.cfg0 e.ops.b e.ops.c
    | .mmat _ _ _ => s.productCheck c true e.cfg0 e.ops.b e.ops.c
    | .mld _ _ => c.mldCheck e.ops.b
    | .mst f _ _ _ => c.mstCheck f e.ops.b
    | .rput _ _ off => s.handleCheck e.ops.a off
    | .rget _ _ => s.handleCheck e.ops.b 0
    | .lld w _ off => (c.localCheck e.ops.a off (widthBytes w) false).andThen fun _ => .ok ()
    | .etest _ => (s.ownEsc e.ops.a).andThen fun _ => .ok ()
    | .rmstat _ => (c.recordOut e.ops.a 32).andThen fun _ => .ok ()
    | .sig _ => Res.unless (fld e.ops.a 63 15 == 0) fmtFlt
    | .carve _ => Res.unless (carveOk e.ops.a) fmtFlt
    | .succ _ _ _ =>
      Res.unless (fld e.ops.b 63 34 == 0 && fld e.ops.c 63 47 == 0 && decide (e.ops.a.toNat < 8)
        && (lrSucc (s.kernelRec c) e.ops.a.toNat).getLsbD 63) fmtFlt
    | _ => c.vectorRecheck e

/-! ## Re-injection (R395) -/

/-- An entry whose locks stand until its window ends. -/
def windowEntry : Instr → Bool
  | .xsend _ _ _ | .xrecv _ _ => true
  | _ => false

/-- An entry that goes on from its checks: those that hold their core hold it again, a matrix operation registers its
spans again, a local load reads again (R138), every other one stands in the queue of its unit. DEDUCED: log entry 11. -/
def State.reenter (s : State) (e : Entry) (resume : Word) : State :=
  let e1 := { e with flt := false, v := true, ready := false, met := false, stuck := false, started := false, result := 0, due := none }
  let hold (keep : Bool) : State :=
    let c := if keep then s.core.putEntry e1 else s.core.dropEntry e.tag
    { s with core := { c with run := .held e.instr e.ops, pc := e.addr, nextPc := resume } }
  let again (v : Word) : State :=
    { s with core := s.core.putEntry { e1 with ready := true, result := v, due := some (s.time + 4) } }
  match e.instr with
  | .lld w _ off =>
    (match s.core.localCheck e.ops.a off (widthBytes w) false with
    | .ok o => again (s.core.localValue w o)
    | _ => s)
  | .etest _ =>
    (match s.ownEsc e.ops.a with
    | .ok n => again (s.core.escValue n)
    | _ => s)
  | .fence _ _ _ | .sig _ | .carve _ | .succ _ _ _ => hold false
  | .stg _ rel _ _ _ _ => if rel then hold true else { s with core := s.core.putEntry e1 }
  | .endTask => { s with core := { s.core.dropEntry e.tag with run := .ended, pc := e.addr, nextPc := resume } }
  | i =>
    if unitOf i = 2 then
      let spans := if deferredSpans false e1 then [] else s.matSpans s.core e1 (cwK e1.cfg0)
      { s with core := (s.core.putEntry e1).addLocks e.tag spans }
    else { s with core := s.core.putEntry e1 }

/-- A window's entry is issued again with its captured operands (R350, R351): it meets its window afresh, or finds it
over and completes at once. DEDUCED: log entries 21, 28. -/
def State.rewindow (s : State) (e : Entry) : Res State :=
  let c := s.core
  let late (v : Word) : Res State := .ok { s with core := (c.freeLocks e.tag).finish e v }
  let over_ (w : Nat) (send : Bool) (k : Launch → Nat → Win → Res State) : Res State :=
    match s.stand c with
    | none => .bad { code := .team }
    | some l => match s.winOf l w send with
      | none => .bad fmtFlt
      | some (i, x) => k l i x
  let put (l : Launch) (i : Nat) (p : Span) (f : Win → Win) : Res State :=
    .ok ({ s with core := (c.putEntry { e with flt := false, v := true, started := false }).addLocks e.tag [p] }.modWin
      l.id i f)
  match e.instr with
  | .xsend _ _ w => over_ w true fun l i x =>
    let n := e.ops.b.toNat
    let m := min n x.cap
    let o := fld e.ops.a 20 0
    if 2 ^ 32 ≤ n then .bad fmtFlt
    else if fld e.ops.a 63 24 ≠ 0 ∨ c.top < o + m then .bad { code := .carve }
    else if c.rangeLocked false o m false then .bad { code := .rangelock, detail := e.ops.a }
    else if l.reachedStart x s.time then late 5
    else put l i { dst := false, glob := false, base := o, len := m } fun x => { x with send := some (o, m, n, e.tag) }
  | .xrecv _ w => over_ w false fun l i x =>
    let o := fld e.ops.a 20 0
    if fld e.ops.a 63 24 ≠ 0 ∨ o < 0x4800 ∨ c.top < o + x.cap then .bad { code := .carve }
    else if c.rangeLocked false o x.cap true then .bad { code := .rangelock, detail := e.ops.a }
    else if l.reachedStart x s.time then late (BitVec.ofNat 64 (2 ^ 40))
    else put l i { dst := true, glob := false, base := o, len := x.cap } fun x => { x with recv := some (o, e.tag) }
  | _ => .ok s

/-- One entry is re-injected on the focal core; the fault of its checks, where they find one. A team instruction whose
rendezvous has formed stays as it is in its stream, which runs on while the core is parked (R275).
DEDUCED: log entry 12. -/
def State.reinject (s : State) (e : Entry) (resume : Word) : State × Option Flt :=
  let s0 := { s with core := s.core.freeLocks e.tag }
  if e.met && !e.stuck then (s, none)
  else if windowEntry e.instr then
    match s0.rewindow e with
    | .ok s1 => (s1, none)
    | .wait => (s0, none)
    | .bad f => (s0, some f)
  else match s0.recheck e with
  | .bad f => (s0, some f)
  | _ => (s0.reenter e resume, none)

/-- One entry is completed with RESULT; what a window has taken from it stays taken. DEDUCED: log entry 12. -/
def Core.completeWith (c : Core) (e : Entry) : Core :=
  (if windowEntry e.instr then c else c.freeLocks e.tag).finish e e.result

/-- n free bytes as a number. -/
def freeNat (free n : Nat) : Nat := natOfBytes ((List.range n).map fun i => Config.freeByte (free + i))

/-- The vector or mask register or the bank that an entry completed by hand writes: how the 64 bits of RESULT fill it
the spec does not state, so its contents are free. DEDUCED: log entry 12. -/
def Core.openDst (c : Core) (free : Nat) (i : Instr) : Core :=
  let vec (d : VReg) : Core := c.setV d (BitVec.ofNat 2048 (freeNat free 256))
  let mask (d : MReg) : Core := c.setF d (BitVec.ofNat 256 (freeNat free 32))
  let bank (a : Acc) : Core := c.setBank a (Vector.ofFn fun r => Vector.ofFn fun k =>
    BitVec.ofNat 32 (freeNat (free + 4 * (80 * r.val + k.val)) 4))
  match i with
  | .vadd d _ _ | .vsub d _ _ | .vmul d _ _ | .vmulh d _ _ | .vfma d _ _ | .vdiv d _ _ | .vmin d _ _ | .vmax d _ _
  | .vand d _ _ | .vor d _ _ | .vxor d _ _ | .vshl d _ _ | .vshr d _ _ | .vsra d _ _ | .vsel d _ _ | .vperm d _ _ => vec d
  | .vsqrt d _ | .vrcp d _ | .vrsq d _ | .vexp2 d _ | .vlog2 d _ | .vabs d _ | .vpopc d _ | .vclz d _ => vec d
  | .vbmux d _ _ _ _ | .vcvt _ _ _ d _ => vec d
  | .vfshl d _ _ _ | .vfshr d _ _ _ => vec d
  | .vsplat d _ | .vld d _ | .vldg d _ => vec d
  | .vins d _ _ | .vslide d _ _ | .vgath d _ _ | .amov d _ _ => vec d
  | .vceq d _ _ | .vclt d _ _ | .vcle d _ _ | .vmask _ d _ _ => mask d
  | .mma a _ _ | .mmat a _ _ | .mred _ a _ => bank a
  | .mzero a | .mld a _ => bank a
  | _ => c

/-- One entry is completed with RESULT on the focal core; the counter of free values passes those of its register.
DEDUCED: log entry 12. -/
def State.completeByHand (s : State) (e : Entry) : State :=
  ({ s with core := (s.core.completeWith e).openDst s.free e.instr } : State).useFree 20480

/-- One entry is discarded: its position receives 0 and its leases end. DEDUCED: log entry 12. -/
def Core.discardEntry (c : Core) (e : Entry) : Core :=
  ((((if windowEntry e.instr then c else c.freeLocks e.tag).deliver e.tag 0).dropEntry e.tag).endLease e.tag)

/-- The entries of the frame in queue order under a mode; the faults of those that fail their checks.
DEDUCED: log entry 12. -/
def State.replayOver (s : State) (mode : UnparkMode) (resume : Word) : List Entry → State × List (Entry × Flt)
  | [] => (s, [])
  | e :: rest =>
    if !e.v || (e.flt && mode == .resume) then (s.completeByHand e).replayOver mode resume rest
    else if e.flt && mode == .skip then { s with core := s.core.discardEntry e }.replayOver mode resume rest
    else
      match s.reinject e resume with
      | (s1, none) => s1.replayOver mode resume rest
      | (s1, some f) =>
        let (s2, bad) := s1.replayOver mode resume rest
        (s2, (e, f) :: bad)

/-- The focal core's park ends with a mode other than abort. DEDUCED: log entry 12. -/
def State.unparkHere (s : State) (mode : UnparkMode) : State :=
  let c := s.core
  let to_ := if c.frame.dec && mode == .skip then c.frame.next else c.frame.resume
  let s0 := { s with core := { c with run := .running, pc := to_, nextPc := to_, frame := {}, stalling := false } }
  let (s1, bad) := s0.replayOver mode to_ c.frameEntries
  match bad with
  | [] => s1.settleAccesses s1.core.who
  | (e, f) :: _ => s1.faultAt s1.core.who e.addr f s1.core.resume none (bad.map fun p => p.1.tag)

/-- The park of a core ends with a mode other than abort. -/
def State.unparkCore (s : State) (a : Agent) (mode : UnparkMode) : State :=
  let me := s.core.who
  ((s.focus a).unparkHere mode).focus me

end Sys2Proof.Machine
end

