-- ==== Sys2Proof/Machine/Supervisor.lean ====
section
/-! DEFINITION. The instructions of 16_supervisor.md but for context saves: control and status registers (R407, R408),
messages (R389 to R391, R411), parking (R392 to R395, R410), translations (R400) and poison (R412). -/

namespace Sys2Proof.Machine

/-! ## Control and status registers (R407, R408) -/

/-- A register that exists only on a supervisor core. DEDUCED: log entry 14. -/
def supCsr : Csr → Bool
  | .deadline | .mbstat | .astab => true
  | _ => false

/-- GENVAL: the counters of the core's cluster (R148); a supervisor core has none. -/
def State.genval (s : State) (a : Agent) : Word :=
  match a with
  | .tile id =>
    let c := s.cluster (clusterOf id)
    BitVec.ofNat 64 (c.gsys.toNat * 256 + c.gpkg.toNat * 16 + c.gdie.toNat)
  | .sup _ => 0

/-- What a register reads as. -/
def State.csrRead (s : State) (n : Csr) : Word :=
  let c := s.core
  match n with
  | .nflags => c.csr.nflags
  | .srseed => c.csr.srseed
  | .vcfg => c.csr.vcfg
  | .awin i => c.csr.awin.get i
  | .estat => c.csr.estat
  | .carvew => c.csr.carvew
  | .genval => s.genval c.who
  | .rlstat => setFld c.csr.rlstat 6 0 c.locks.length
  | .hintdrop => c.csr.hintdrop
  | .vshare => c.csr.vshare
  | .xdone => c.csr.xdone.setWidth 64
  | .xnext => c.csr.xnext.setWidth 64
  | .xstage => c.csr.xstage
  | .xstat => c.csr.xstat
  | .xpart => c.csr.xpart
  | .uictl => setFld c.csr.uictl 61 52 c.flagged.length
  | .uira => c.csr.uira
  | .txstat => c.txstatNow
  | .txts => c.csr.txts
  | .txfault => c.csr.txfault
  | .txfpc => c.csr.txfpc
  | .mstk => c.csr.mstk
  | .deadline => c.csr.deadline
  | .mbstat => setFld c.csr.mbstat 8 0 (s.die (dieOf c.who)).mailbox.length
  | .astab => c.csr.astab

/-- A chain that names a register its core does not have: ILLEGAL, found in decode (R50, R408).
DEDUCED: log entry 14. -/
def State.noCsr (s : State) : Out := .next (s.trapDecode .illegal (s.core.nextPc - 2) s.core.nextPc)

/-- `rdcsr`: NFLAGS waits for the core's earlier vector instructions (R71, R205). DEDUCED: log entry 14. -/
def execRdcsr (n : Csr) (s : State) : Out :=
  if supCsr n && !s.core.isSup then s.noCsr
  else if n = .nflags ∧ !s.core.vqueue.isEmpty then s.stall
  else .next (s.result (s.csrRead n))

/-- A write of VCFG (R196). -/
def vcfgWrite (x : Word) : Res Word :=
  if fld x 2 0 = 7 then .bad fmtFlt else .ok (BitVec.ofNat 64 (fld x 6 4 * 16 + fld x 2 0))

/-- A write of AWINn (R75). -/
def awinWrite (x : Word) : Res Word :=
  if fld x 5 4 = 3 ∨ 0xD ≤ fld x 3 0 then .bad fmtFlt else .ok (BitVec.ofNat 64 (fld x 5 0))

/-- A write of MSTK (R323): LOST and LIVE clear by ones, LIVE not for a slot being filled; BASE changes only while no
slot is live or being filled. -/
def mstkWrite (old x : Word) : Res Word :=
  if fld x 20 4 ≠ fld old 20 4 ∧ (fld old 31 24 ≠ 0 ∨ fld old 47 40 ≠ 0) then .bad fmtFlt
  else
    let lost := (BitVec.ofNat 8 (fld old 39 32)) &&& ~~~(BitVec.ofNat 8 (fld x 39 32))
    let clear := (BitVec.ofNat 8 (fld x 31 24)) &&& ~~~(BitVec.ofNat 8 (fld old 47 40))
    let live := (BitVec.ofNat 8 (fld old 31 24)) &&& ~~~clear
    .ok (setFld (setFld (setFld old 39 32 lost.toNat) 31 24 live.toNat) 20 4 (fld x 20 4))

/-- The core after a write of a register; a register whose fields are all read-only ignores it.
DEDUCED: log entry 15. -/
def Core.writeCsr (c : Core) (n : Csr) (x : Word) : Res Core :=
  let put (r : Csrs) : Res Core := .ok { c with csr := r }
  match n with
  | .nflags => put { c.csr with nflags := c.csr.nflags &&& ~~~(BitVec.ofNat 64 (fld x 5 0)) }
  | .srseed => .ok { c with csr := { c.csr with srseed := BitVec.ofNat 64 (fld x 31 0) }, gens := Gens.seed (x.setWidth 32) }
  | .vcfg => (vcfgWrite x).andThen fun v => put { c.csr with vcfg := v }
  | .awin i => (awinWrite x).andThen fun v => put { c.csr with awin := setAt c.csr.awin i v }
  | .estat => put { c.csr with estat := if x.getLsbD 16 then setFld c.csr.estat 16 16 0 else c.csr.estat }
  | .rlstat => put { c.csr with rlstat := BitVec.ofNat 64 (fld x 31 16 * 2 ^ 16 + fld x 14 8 * 2 ^ 8) }
  | .hintdrop => put { c.csr with hintdrop := BitVec.ofNat 64 (fld x 31 0) }
  | .xstat => put { c.csr with xstat := c.csr.xstat &&& ~~~(BitVec.ofNat 64 (fld x 6 0)) }
  | .txts => put { c.csr with txts := if x.getLsbD 63 then setFld c.csr.txts 63 63 0 else c.csr.txts }
  | .mstk => (mstkWrite c.csr.mstk x).andThen fun v => put { c.csr with mstk := v }
  | .deadline => put { c.csr with deadline := BitVec.ofNat 64 (fld x 31 0) }
  | .mbstat => put { c.csr with mbstat := if fld x 47 32 = 0 then c.csr.mbstat else 0 }
  | .astab => put { c.csr with astab := BitVec.ofNat 64 (fld x 55 19 * 2 ^ 19) }
  | .carvew | .genval | .vshare | .xdone | .xnext | .xstage | .xpart | .uictl | .uira | .txstat | .txfault | .txfpc =>
    .ok c

/-- `wrcsr` (R408); TXTS is not written inside a transaction (R283). DEDUCED: log entries 14, 15, 43. -/
def execWrcsr (n : Csr) (x : Src) (s : State) : Out :=
  if supCsr n && !s.core.isSup then s.noCsr
  else if n = .txts ∧ 0 < s.core.tx.depth then .next s.disallow
  else s.issue [x] (namesOf [x])
    (s.check (s.core.writeCsr n (s.core.value x)) fun c => .next ({ s with core := c } : State).retire)

/-! ## Messages (R389 to R391, R411) -/

/-- The checks of a supervisor's `mbox`: the count, then the span it writes, in the order of R136. DEDUCED: log entry
16. -/
def Core.mboxCheck (c : Core) (x y : Word) : Res Nat :=
  let o := fld x 20 0
  let n := 32 * y.toNat
  if y = 0 ∨ 16 < y.toNat then .bad fmtFlt
  else if fld x 63 24 ≠ 0 then .bad { code := .carve, detail := x }
  else if o % 32 ≠ 0 then .bad { code := .align, detail := x }
  else if c.top < o + n then .bad { code := .carve, detail := x }
  else if c.rangeLocked false o n true then .bad { code := .rangelock, detail := x }
  else .ok o

/-- The bytes of a message. -/
def Msg.bytes (m : Msg) : List Byte := bytesOfWords64 [m.w0, m.w1, m.w2, m.w3]

/-- The supervisor takes up to n messages of its die's mailbox. DEDUCED: log entry 16. -/
def State.takeMessages (s : State) (o n : Nat) : State :=
  let a := s.core.who
  let d := s.die (dieOf a)
  let got := d.mailbox.take n
  let s1 := (s.setDie { d with mailbox := d.mailbox.drop n }).modCore a fun c => c.storeLocal o (got.flatMap Msg.bytes)
  (if got.isEmpty then s1 else s1.acquire a .die).result (BitVec.ofNat 64 got.length)

/-- A tile task posts a software message, a release at die scope; it stalls while its row collector is full, as the
notices of the release's own write-backs may leave it. DEDUCED: log entry 16. -/
def State.postSoft (s : State) (x y : Word) : Out :=
  let c := s.core
  let m := c.message kindSoft 0 false x y
  if !c.accessesDone false then s.stall
  else
    let s1 := s.release c.who .die
    if !(s1.die (dieOf c.who)).sharedRoom m.row then s1.stall else .next (s1.post (dieOf c.who) m).retire

/-- DEDUCED: log entry 16. -/
def execMbox (x y : Src) (s : State) : Out :=
  let c := s.core
  s.notInTx (s.issue [x, y] (namesOf [x, y])
    (if c.isSup then
      s.check (c.mboxCheck (c.value x) (c.value y)) fun o =>
        if c.vectorHolds o (32 * (c.value y).toNat) then s.stall else .next (s.takeMessages o (c.value y).toNat)
     else s.postSoft (c.value x) (c.value y)))

/-- Two messages that a router may merge (R390). -/
def Msg.merges (m n : Msg) : Bool :=
  let code := fld m.w0 7 0
  m.row == n.row && m.kind == kindPark && n.kind == kindPark && (code == 5 || code == 6) && fld n.w0 7 0 == code
    && fld m.w3 31 0 == fld n.w3 31 0 && fld m.w1 51 16 == fld n.w1 51 16

/-- MAP of a message. -/
def Msg.map (m : Msg) : Word := m.w0 &&& 0xFFFFFFFF00000000

/-- The merged message: the OR of the MAPs, and the rest of the lower core's. -/
def Msg.merge (m n : Msg) : Msg :=
  let low := if fld m.w3 43 32 ≤ fld n.w3 43 32 then m else n
  { low with w0 := low.w0 ||| m.map ||| n.map }

/-- The first message, in what follows a message of the same row, that merges with it and that no earlier message of its
cores precedes: what stands before it, the message, and what follows. -/
def findMerge (m : Msg) : List Msg → List Msg → Option (List Msg × Msg × List Msg)
  | _, [] => none
  | before, n :: rest =>
    if m.merges n && before.all (fun p => p.row != n.row || (p.map &&& n.map) == 0) then some (before, n, rest)
    else findMerge m (before ++ [n]) rest

/-- MESSAGE_DELIVERY: the oldest message of a row moves on to the mailbox where it has room, or merges with a later one
(R390, R391). -/
def execMessageDelivery (die row : Nat) (merge : Bool) (s : State) : Out :=
  let d := s.die die
  match d.rows.findIdx? fun m => m.row == row with
  | none => .next s
  | some i =>
    match d.rows[i]? with
    | none => .next s
    | some m =>
      let before := d.rows.take i
      let after := d.rows.drop (i + 1)
      if merge then
        match findMerge m [] after with
        | some (mid, n, rest) => .next (s.setDie { d with rows := before ++ m.merge n :: (mid ++ rest) })
        | none => .next s
      else if d.mailbox.length < 256 then
        .next (s.setDie { d with rows := before ++ after, mailbox := d.mailbox ++ [m] })
      else .next s

/-! ## Parking and frames (R410) -/

/-- The core that an operand names on the supervisor's die. -/
def State.dieCore (s : State) (x : Word) : Res Agent :=
  if 2560 ≤ x.toNat ∨ dieOf (.tile x.toNat) ≠ dieOf s.core.who then .bad fmtFlt
  else .ok (.tile x.toNat)

/-- A supervisor's chain about a core of its die. -/
def State.aboutCore (s : State) (xs : List Src) (core : Src) (k : Agent → Out) : Out :=
  s.supOnly (s.notInTx (s.issue xs (namesOf xs) (s.check (s.dieCore (s.core.value core)) k)))

/-- A thread runs on the core: it is neither parked nor ended, and does not await its start. DEDUCED: log entry 13. -/
def Core.hasThread (c : Core) : Bool :=
  c.task.isSome && match c.run with
    | .running | .blocked _ | .waking _ | .held _ _ => true
    | _ => false

/-- `park`: an open transaction of the core aborts with PREEMPT first (R294); the frame holds code 0x00 and no message
is posted. DEDUCED: log entry 13. -/
def execPark (core : Src) (s : State) : Out :=
  s.aboutCore [core] core fun a =>
    let c := s.getCore a
    if !c.hasThread then .next s.retire
    else
      let s1 := if 0 < c.tx.depth then s.abortTx a 6 0 0 else s
      .next (s1.park a { code := .none } (s1.getCore a).resume none false []).retire

/-- `unpark` (R395); mode abort ends the core's team, or its whole stand (R26). -/
def execUnpark (core : Src) (mode : UnparkMode) (s : State) : Out :=
  s.aboutCore [core] core fun a =>
    let c := s.getCore a
    if c.run ≠ .parked then .next (s.trap fmtFlt)
    else match mode, c.task with
      | .abort, some t => match s.abortTeam t.team with
        | (s1, true) => .next s1.retire
        | (s1, false) => s1.stall
      | .abort, none => .next s.retire
      | m, _ => .next (s.unparkCore a m).retire

def execRpl (core : Src) (i : Nat) (s : State) : Out :=
  s.aboutCore [core] core fun a =>
    let c := s.getCore a
    if c.run ≠ .parked then .next (s.trap fmtFlt) else .next (s.result (c.frameItem i))

def execWpl (core : Src) (i : Nat) (x : Src) (s : State) : Out :=
  s.aboutCore [core, x] core fun a =>
    if (s.getCore a).run ≠ .parked then .next (s.trap fmtFlt)
    else .next (s.modCore a fun c => c.putItem i (s.core.value x)).retire

/-! ## Translations (R400) -/

/-- The selection of a `tlbinv`. -/
def tlbinvOk (addr sel : Word) : Bool :=
  fld sel 63 20 == 0 && fld sel 19 18 != 0 && fld sel 17 16 != 3 && (fld sel 17 16 != 0 || fld addr 63 52 == 0)

/-- A selection names a translation. -/
def Tlb.named (t : Tlb) (addr sel : Word) : Bool :=
  match fld sel 17 16 with
  | 0 => t.covers (fld sel 15 0) addr.toNat
  | 1 => t.asid == fld sel 15 0
  | _ => true

/-- The dies of a reach drop the named translations. -/
def State.dropTlbs (s : State) (dies : List Nat) (addr sel : Word) : State :=
  let keep (t : Tlb) : Bool := !t.named addr sel
  { s with
    dies := s.dies.map fun (d : Die) => if dies.contains d.id then { d with tlb := d.tlb.filter keep } else d
    clusters := s.clusters.map fun (c : Cluster) =>
      if dies.contains (dieOfCluster c.id) then { c with tlb := c.tlb.filter keep } else c }

/-- The dies within a reach. -/
def reachDies (die : Nat) (sel : Word) : List Nat := if fld sel 19 18 = 1 then [die] else List.range 8

/-- `tlbinv` holds every later chain; at system reach it asks the other modules (R400, R418). DEDUCED: log entry 18. -/
def execTlbinv (addr sel : Src) (s : State) : Out :=
  s.supOnly (s.notInTx (s.issue [addr, sel] (namesOf [addr, sel])
    (let x := s.core.value addr
     let y := s.core.value sel
     if !tlbinvOk x y then .next (s.trap fmtFlt)
     else
       let ms := if fld y 19 18 = 3 ∧ s.ports.linkup ≠ 0 then s.otherModules else []
       let s1 := ms.foldl (fun s m => s.send (.tlbinv m x y)) s
       .next ({ s1 with ports := { s1.ports with tlbs := s1.ports.tlbs ++ ms } }.hold (.tlbinv addr sel)
         { a := x, b := y }))))

/-- An open transaction on the dies of a reach holds stores or deltas, translated already and performed at its commit,
under translations that a selection names; of one page, those in its GiB, which no page exceeds.
DEDUCED: log entry 18. -/
def State.txUnder (s : State) (dies : List Nat) (addr sel : Word) : Bool :=
  s.cores.any fun c => c.txLive && !c.isSup && dies.contains (dieOf c.who)
    && (!c.tx.spec.isEmpty || !c.tx.deltas.isEmpty) && match fld sel 17 16 with
    | 0 => c.asid == fld sel 15 0 && c.tx.plots.any fun p => (p.w || p.d) && p.va / 2 ^ 20 == addr.toNat / 2 ^ 30
    | 1 => c.asid == fld sel 15 0
    | _ => true

/-- TLBINV_COMPLETION: the translations are gone, every module has answered, and every access translated by them has
been performed: but for those of open transactions, each is performed as it is translated. DEDUCED: log entry 18. -/
def execTlbinvCompletion (a : Agent) (s : State) : Out :=
  let c := s.getCore a
  match c.run with
  | .held (.tlbinv _ _) ops =>
    if (fld ops.b 19 18 = 3 ∧ !s.ports.tlbs.isEmpty) ∨ s.txUnder (reachDies (dieOf a) ops.b) ops.a ops.b then .next s
    else .next ((s.dropTlbs (reachDies (dieOf a) ops.b) ops.a ops.b).modCore a Core.wake)
  | _ => .next s

/-- MYZIL_TLBINV: a `tlbinv` of system reach of another module; this module drops the translations and answers, once
every access translated by them has been performed. -/
def execMyzilTlbinv (from_ : Nat) (addr sel : Word) (s : State) : Out :=
  .next (if s.txUnder (List.range 8) addr sel then s else (s.dropTlbs (List.range 8) addr sel).send (.tlback from_))

/-- TLBACK: a module has answered. DEDUCED: log entry 18. -/
def execTlback (from_ : Nat) (s : State) : Out :=
  .next { s with ports := { s.ports with tlbs := s.ports.tlbs.erase from_ } }

/-! ## Poison (R412) -/

/-- The checks of `pclr`. -/
def State.pclrCheck (s : State) (x : Word) : Res Unit :=
  if fld x 63 56 ≠ 0 then .bad fmtFlt
  else if fld x 6 0 ≠ 0 then .bad { code := .align }
  else s.reach x.toNat 0

/-- DEDUCED: log entry 17. -/
def execPclr (line : Src) (s : State) : Out :=
  s.supOnly (s.notInTx (s.issue [line] (namesOf [line])
    (s.check (s.pclrCheck (s.core.value line)) fun _ => .next (s.hold (.pclr line) { a := s.core.value line }))))

/-- A cluster gives up the clean bytes of a line; its dirty bytes are a store that is performed later.
DEDUCED: log entry 17. -/
def Cluster.forget (c : Cluster) (line : Nat) : Cluster :=
  { c with lines := (c.lines.filter fun l => l.line != line || l.dirty != 0).map fun l =>
      if l.line == line then { l with valid := l.dirty } else l }

/-- The line reads zero at its home and is poisoned no more; no cache keeps an old copy, here or at a peer.
DEDUCED: log entry 17. -/
def State.clearLine (s : State) (pa : Nat) : State :=
  let s1 := (List.range 8).foldl (fun s die => s.recall die (pa / 128)) (s.plainTouch 0xFFF none pa true)
  let s2 : State := { s1 with
    poison := s1.poison.filter fun l => l != pa / 128
    clusters := s1.clusters.map fun (c : Cluster) => c.forget (pa / 128)
    l2 := s1.l2.filter fun (e : L2Line) => e.line != pa / 128 }
  (s2.peersGiveUp (pa / 128)).perform ((List.range 128).map fun i => (pa + i, 0))

/-- PCLR_COMPLETION: the line is cleared, and the core goes on once the peers have acknowledged it (R156, R412); operand
b tells that the write has been made. DEDUCED: log entry 17. -/
def execPclrCompletion (a : Agent) (s : State) : Out :=
  let c := s.getCore a
  match c.run with
  | .held (.pclr x) ops =>
    let s1 := if ops.b = 0 then s.clearLine ops.a.toNat else s
    .next (s1.modCore a fun c =>
      if s1.releaseDone .sys then c.wake else { c with run := .held (.pclr x) { ops with b := 1 } })
  | _ => .next s

end Sys2Proof.Machine
end

