-- ==== Sys2Proof/Machine/Context.lean ====
section
/-! DEFINITION. Pre-emption: `yield`, `ctxsave`, `ctxload`, the deadline, eviction and restore (R21 to R24, R86, R111,
R401 to R406, and R211, R248, R275, R296, R321, R342, R351, R359 for what the engines do). -/

namespace Sys2Proof.Machine

/-! ## Who is saved -/

/-- The teams that a save of a team takes: itself, or its whole stand (R402). -/
def State.saveTeams (s : State) (team : Nat) : List Team :=
  match s.teamOf team with
  | none => []
  | some t => match s.launchOf t.launch with
    | some l => if lrGang l.words then s.teamsOf l.id else [t]
    | none => [t]

/-- The members of those teams. -/
def State.saveMembers (s : State) (team : Nat) : List Agent := (s.saveTeams team).flatMap Team.members

/-- The gang launch of a team. -/
def State.gangOf (s : State) (team : Nat) : Option Launch :=
  match (s.teamOf team).bind fun t => s.launchOf t.launch with
  | some l => if lrGang l.words then some l else none
  | none => none

/-- A stand that spans modules. -/
def State.standSpans (s : State) (team : Nat) : Bool := match s.gangOf team with | some l => l.spans | none => false

/-- A member can be evicted cooperatively: at a blocking point, of a gang at the chime; parked; ended; or not begun. A
wait inside a transaction is no blocking point (R283). -/
def Core.rests (c : Core) (gang : Bool) : Bool :=
  match c.run with
  | .parked | .stopped | .ended | .idle => true
  | .blocked (.chime _) => true
  | .blocked _ => !gang && c.tx.depth == 0
  | _ => false

/-- The team of a save is evictable (R23, R111, R401); one whose members have all ended retires instead (R403).
DEDUCED: log entries 19, 24. -/
def State.evictable (s : State) (team : Nat) : Bool :=
  ((s.saveMembers team).all fun a => (s.getCore a).rests (s.gangOf team).isSome) &&
    (s.saveMembers team).any fun a => (s.getCore a).run != .ended

/-- A save of the team, or of its stand, has been asked for. DEDUCED: log entry 19. -/
def State.saveAsked (s : State) (team : Nat) : Bool :=
  s.saves.any fun v => (s.saveTeams team).any fun t => t.id == v.team

/-! ## Instructions -/

/-- A blocked member that its team's eviction stops. -/
def Core.stopBlocked (c : Core) : Core := match c.run with | .blocked _ => { c with run := .stopped } | _ => c

/-- A merge of a stopped core: its locks are released, its a3 lease ends, its matrix work leaves stream 3. -/
def Core.dropMerge (c : Core) (op : EngOp) : Core :=
  let c1 := ((c.endLease op.tag).freeLocks op.tag).unguard op.tag
  { c1 with
    merge := some { op with cancelled := true }
    streams := setAt c1.streams 2 ((c1.streams.get 2).filter fun e => e.tag != op.tag) }

/-- A merge in flight is cancelled: each byte of its outputs is written or not, and it posts no status and no arrival
(R342). Its captured record stays, from which the restore starts it again. DEDUCED: log entry 22. -/
def State.cancelMerge (s : State) (a : Agent) : State :=
  match (s.getCore a).merge with
  | none => s
  | some op =>
    if op.cancelled then s
    else
      let r := op.recs
      let w32 (xs : List Word32) : List Byte := xs.flatMap fun x => bytesOfNat 4 x.toNat
      let s2 := match s.mergeRead a r with
        | .ok (s1, m) =>
          ((s1.maybeWrite a op.scope (mgOut r) m.rows).maybeWrite a op.scope (mgOut r + mgSzo r) (w32 m.sizes)).maybeWrite a
            op.scope (mgOut r + mgLno r) (w32 (m.sizes.map fun x => (rne32 (num32 x).ln).1))
        | _ => s
      s2.modCore a fun c => c.dropMerge op

/-- `yield` (R111): in the queued class, with a save pending and every other member at a blocking point or parked, the
team is evicted from after the chain, and its merges are cancelled (R342); else a `nop`. DEDUCED: log entry 19. -/
def execYield (s : State) : Out :=
  s.notInHandler (s.notInTx
    (let a := s.core.who
     let s1 := { s with core := ({ s.core with yieldAt := some s.time } : Core).retire }
     match s.core.task with
     | none => .next s1
     | some t =>
       let others := (s.saveMembers t.team).filter fun b => b != a
       if !t.gang ∧ s.saveAsked t.team ∧ others.all (fun b => (s.getCore b).rests false) then
         .next ((a :: others).foldl State.cancelMerge (others.foldl (fun s b => s.modCore b Core.stopBlocked)
           { s1 with core := { s1.core with run := .stopped } }))
       else .next s1))

/-- The physical address of a save area; one that is not 4 KiB aligned is taken as it stands. DEDUCED: log entry 19. -/
def areaOf (x : Word) : Nat := fld x 55 0

/-- The bytes of one core's record in a save area (R403). -/
def recordSize (scr : Nat) : Nat := (7 + scr) * 16384

/-- CSZ of a save: by the carve that the members have now, the largest where teams differ.
DESIGN CHOICE: log entry 20. -/
def State.saveSize (s : State) (team : Nat) : Nat :=
  recordSize ((s.saveMembers team).foldl (fun n a => max n (s.getCore a).scr) 0)

/-- The first bytes of a span's pages of 4 KiB, as far as they lie on different stacks (R143), and its last byte. -/
def stackPages (area n : Nat) : List Nat :=
  let last := area + (n - 1)
  area :: ((List.range (min (n / 4096 + 1) 16)).map fun i => min ((area / 4096 + i + 1) * 4096) last) ++ [last]

/-- A save area of n bytes lies in memory that can be reached, on every stack that holds a part of it (R142, R415,
R430). -/
def State.areaReach (s : State) (area n : Nat) : Res Unit :=
  let last := area + (n - 1)
  if modOf last ≠ modOf area then .bad { code := .protect, detail := BitVec.ofNat 64 last }
  else (stackPages area n).foldl (fun r pa => r.andThen fun _ => s.reach pa (BitVec.ofNat 64 pa)) (.ok ())

/-- A live team of an id has a core on a die. -/
def State.teamOnDie (s : State) (team die : Nat) : Bool :=
  match s.teamOf team with
  | some t => t.die == die
  | none => false

/-- A member of the team, or of its stand, was stopped by force: of a stand that spans modules, at the word of another
module (R402). -/
def State.stoppedByForce (s : State) (team : Nat) : Bool :=
  (s.saveMembers team).any fun a => decide ((s.getCore a).run = .parked) && decide ((s.getCore a).frame.code = .deadline)

/-- DEDUCED: log entry 19. -/
def execCtxsave (team area : Src) (s : State) : Out :=
  s.supOnly (s.notInTx (s.issue [team, area] (namesOf [team, area])
    (let t := s.core.value team
     let x := s.core.value area
     let die := dieOf s.core.who
     if fld x 62 56 ≠ 0 ∨ fld t 63 32 ≠ 0 ∨ !s.teamOnDie t.toNat die ∨ s.saveAsked t.toNat then
       .next (s.trap fmtFlt)
     else
       let cyc := s.core.csr.deadline.toNat
       let v : Save := { team := t.toNat, area := areaOf x, disc := x.getLsbD 63
                         due := if cyc = 0 then none else some (s.time + cyc), die := die
                         forced := s.stoppedByForce t.toNat }
       s.check (s.areaReach v.area (4096 + (s.saveMembers v.team).length * s.saveSize v.team)) fun _ =>
         .next (({ s with saves := s.saves ++ [v] } : State).saveHeader v 0).retire)))

/-- The header of a save area as package command processing reads it: STATE, and the team id. -/
def State.areaHeader (s : State) (die area : Nat) : Res (State × Nat × Nat) :=
  (s.areaReach area 16).andThen fun _ =>
  let start : Res (State × List Byte) := .ok (s, [])
  ((lineParts area 16).foldl (fun acc p => acc.andThen fun (s, bs) =>
    (s.l2Read die 0xFFF none (BitVec.ofNat 64 p.1) p.1 p.2).andThen fun (s1, b) => .ok (s1, bs ++ b)) start).andThen
  fun (s1, bs) => .ok (s1, natOfBytes (bs.take 8) % 4, natOfBytes (bs.drop 8) % 2 ^ 32)

/-- The context of a team id is asked back from an area. A header that names a context which no save has left, or which
has been asked for, hands over nothing. DESIGN CHOICE: log entry 20. -/
def State.askBack (s : State) (team area : Nat) : State :=
  { s with saved := s.saved.map fun (w : Saved) =>
      if w.team = team ∧ !w.asked then { w with asked := true, area := area } else w }

/-- The bytes of a saved context in its area: the header's page and the records (R403). -/
def Saved.bytes (v : Saved) : Nat := 4096 + v.cores.length * v.csz

/-- The bytes of the saved context of a team id; 16 of the header where there is none. -/
def State.savedSize (s : State) (team : Nat) : Nat :=
  match s.saved.find? fun v => v.team == team && !v.asked with
  | some v => v.bytes
  | none => 16

/-- DESIGN CHOICE: log entry 20. -/
def execCtxload (team area : Src) (s : State) : Out :=
  s.supOnly (s.notInTx (s.issue [team, area] (namesOf [team, area])
    (let t := s.core.value team
     let x := s.core.value area
     if fld x 63 56 ≠ 0 then .next (s.trap { code := .xlate, detail := x })
     else s.check (s.areaHeader (dieOf s.core.who) (areaOf x)) fun (s1, st, id) =>
       if t.toNat ≠ id ∨ (st ≠ 1 ∧ st ≠ 2) then .next (s.trap fmtFlt)
       else s1.check (s1.areaReach (areaOf x) (s1.savedSize id)) fun _ => .next (s1.askBack id (areaOf x)).retire)))

/-! ## A merge that a stop cancels (R342) -/

/-- A merge that was cancelled starts again from its captured record (R342). -/
def Core.restartMerge (c : Core) : Core :=
  match c.merge with
  | some op => if op.cancelled then c.mrgStart { op with cancelled := false, wrote := false } else c
  | none => c

/-! ## The deadline (R22, R401) -/

/-- A core is stopped by force: its open transaction aborts with PREEMPT (R296), and it parks with DEADLINE and no
message. -/
def State.stopByForce (s : State) (a : Agent) : State :=
  let s1 := if 0 < (s.getCore a).tx.depth then s.abortTx a 6 0 0 else s
  s1.park a { code := .deadline } (s1.getCore a).resume none false []

/-- A member at the deadline: one at a blocking point stays there, one that executes `yield` in its cycle stops
cooperatively, and any other is stopped by force. Its merge is cancelled (R342). -/
def State.stopMember (s : State) (due : Nat) (a : Agent) : State :=
  let c := s.getCore a
  let s1 := match c.run with
    | .blocked _ => if c.tx.depth = 0 then s.modCore a Core.stopBlocked else s.stopByForce a
    | .running | .held _ _ | .waking _ =>
      if c.yieldAt = some due ∧ c.run = Run.running then s.modCore a fun c => { c with run := Run.stopped }
      else s.stopByForce a
    | _ => s
  s1.cancelMerge a

/-- A member keeps its stand from being evicted at the deadline, so that the stand is saved as stopped by force. Of a
gang that is also one at a blocking point other than the chime, although it is not itself stopped. DESIGN CHOICE: log
entry 62. -/
def Core.forced (c : Core) (gang : Bool) (due : Nat) : Bool :=
  !c.rests gang && !(decide (c.yieldAt = some due) && decide (c.run = .running))

/-- Windows that have not started are withdrawn: they do not run in this superstep any more (R351).
DEDUCED: log entry 21. -/
def Win.withdraw (w : Win) : Win :=
  if w.header.isNone then { w with send := none, recv := none, header := some 0, sent := true, ended := true } else w

/-- The locks of a member's `xsend` and `xrecv` whose windows have not started are released. DEDUCED: log entry 21. -/
def Core.withdraw (c : Core) : Core :=
  ((c.entries.filter fun e => windowEntry e.instr && !e.started).map Entry.tag).foldl Core.freeLocks c

/-- The cycle of a save's forced stop, where it has come: its own deadline, or, of a stand that spans modules, a forced
stop on another module, of which the event is the word (R402). DEDUCED: log entry 24. -/
def State.stopTime (s : State) (v : Save) : Option Nat :=
  match v.due with
  | some due => if due ≤ s.time then some due else if s.standSpans v.team then some s.time else none
  | none => if s.standSpans v.team then some s.time else none

/-- A team, or its stand, has members that a stop at a cycle forces. -/
def State.mustForce (s : State) (team due : Nat) : Bool :=
  (s.saveMembers team).any fun a => (s.getCore a).forced (s.gangOf team).isSome due

/-- Every member of a team, or of its stand, that is neither at a blocking point nor parked is stopped by force; the
windows of its stand that have not started are withdrawn. -/
def State.forceStop (s : State) (team due : Nat) : State :=
  let members := s.saveMembers team
  let s1 := members.foldl (fun s a => s.stopMember due a) s
  match s1.gangOf team with
  | some l => if s.mustForce team due then
      members.foldl (fun (s : State) a => s.modCore a Core.withdraw) (s1.setLaunch { l with wins := l.wins.map Win.withdraw })
    else s1
  | none => s1

/-- DEADLINE_EXPIRY: the forced stop of a save, at its deadline; or of a stand that spans modules, at the word of
another one, whether or not a `ctxsave` stands for it here (R401, R402). DEDUCED: log entries 21, 24. -/
def execDeadlineExpiry (save : Nat) (s : State) : Out :=
  match s.saves.find? fun v => v.team == save with
  | none => if s.standSpans save then .next (s.forceStop save s.time) else .next s
  | some v =>
    match s.stopTime v with
    | none => .next s
    | some due =>
      let s2 := s.forceStop v.team due
      .next { s2 with saves := s2.saves.map fun (w : Save) =>
        if w.team = v.team then { w with due := none, forced := w.forced || s.mustForce v.team due } else w }

/-! ## Eviction (R403) -/

/-- A load of the channel that a save cancels and a restore issues again (R248, R404). A `copyf` drains.
DEDUCED: log entry 22. DESIGN CHOICE: log entry 63. -/
def State.cancellable (s : State) (a : Agent) (op : EngOp) : Bool :=
  !op.held && match op.instr with
    | .copy _ _ | .stage _ => s.restageable a op.src op.dst
    | _ => false

/-- The state in which the sources of the members' copies in flight have been translated, whose pages tell what a save
cancels (R248, R398, R404). -/
def State.sourcesWalked (s : State) (members : List Agent) : State :=
  members.foldl (fun s a =>
    ((s.getCore a).chan.filter fun o => !o.done && !o.held).foldl (fun s o => match o.instr with
      | .copy _ _ | .stage _ =>
        if Lay.space o.src = 0 ∧ Lay.space o.dst = 1 then
          (sourcePages o.src o.dst).foldl (fun s p => s.walked a (s.getCore a).asid (p * 65536)) s
        else s
      | _ => s) s) s

/-- The engines of a member are drained as far as a save asks for. A team instruction whose rendezvous has formed runs
to completion as one that has started (R265, R275). -/
def State.drained (s : State) (a : Agent) : Bool :=
  let c := s.getCore a
  let quiet (e : Entry) : Bool := !(e.started || (e.met && !e.stuck)) || match c.merge with | some op => op.tag == e.tag | none => false
  let bare (e : Entry) : Bool := unitOf e.instr == 2 || windowEntry e.instr || c.run = .parked
  c.chan.all (fun o => o.done || s.cancellable a o) && c.entries.all (fun e => quiet e && bare e)
    && c.streams.toList.all (fun es => es.all quiet) && decide (c.tx.depth = 0)
    && (s.die (dieOf a)).routes.all (fun o => o.who != a)
    && s.arrivals.all fun r => r.from_ != agentKey a && r.core != agentKey a

/-- A granule is omitted from a save (R404). DEDUCED: log entry 22. -/
def Core.omits (c : Core) (g : Nat) : Bool := c.granules.any fun e => e.g == g && e.ok

/-- A core as it is saved: vector groups above VG and omitted granules are not kept; a discardable save keeps granule 0
and the escapements of granule 1; matrix operations that have not started sample K and take their waits and rendezvous
afresh, and register anew the spans that wait for K (R260, R275, R374, R404, R405). -/
def Core.toSave (c : Core) (vg : Nat) (disc : Bool) : Core :=
  let keep (o : Nat) : Bool := !c.omits (o / 0x4000) && (!disc || decide (o < 0x4800))
  let fresh (e : Entry) : Entry := if e.stuck then e else { e with ready := false, met := false, k := 0 }
  let renew (command : Bool) (es : List Entry) : List Nat :=
    (es.filter fun e => !e.stuck && deferredSpans command e).map Entry.tag
  let tags := renew false c.stream0 ++ c.streams.toList.flatMap (renew true)
  { c with
    locks := c.locks.filter fun l => !tags.contains l.own
    regs := { c.regs with v := Vector.ofFn fun i => if i.val / 8 ≤ vg then c.regs.v.get i else 0 }
    scratch := c.scratch.filter fun (p : Host.Cell) => keep p.1
    chan := c.chan.map fun o => if o.done then o else { o with cancelled := true }
    entries := c.entries.map fun e => if unitOf e.instr = 2 then fresh e else e
    streams := c.streams.map fun es => es.map fresh
    fetched := [], stalling := false, stallCounted := false }

/-- The save area of teams: the records hold the part's own bytes, then the header says what it holds (R403).
DESIGN CHOICE: log entry 20. -/
def State.writeArea (s : State) (v : Save) (ts : List Team) (st : Nat) : State :=
  match ts with
  | [] => s
  | t :: _ =>
    let csz := s.saveSize v.team
    let n := ts.length * t.size * csz
    let records := (List.range n).map fun i => Config.freeByte (s.free + i)
    (((s.useFree n).areaPut v.die (v.area + 4096) records).areaPut v.die (v.area + 16)
      (bytesOfNat 8 (ts.length + t.size * 2 ^ 20) ++ bytesOfNat 8 csz)).saveHeader v st

/-- The context is saved and its cores are free (R403). DESIGN CHOICE: log entry 20. -/
def State.saveNow (s : State) (v : Save) (l : Nat) : State :=
  let ts := s.saveTeams v.team
  let members := ts.flatMap Team.members
  let s1 := members.foldl (fun s a => (s.cancelMerge a).release a .pkg) s
  let cores := ts.flatMap fun t => t.members.map fun a => (s1.getCore a).toSave (lrVg t.words) v.disc
  let ctx : Saved := { team := v.team, area := v.area, csz := s1.saveSize v.team, free := s1.free, teams := ts, cores := cores
                       launch := l, forced := v.forced, disc := v.disc, die := v.die }
  let s2 := s1.writeArea v ts (if v.forced then 2 else 1)
  let s3 := { s2 with
    saves := s2.saves.filter fun w => w.team != v.team
    saved := s2.saved ++ [ctx]
    tileLines := s2.tileLines.filter fun (x : TileLine) => !ts.any fun t => t.id == x.team
    teams := s2.teams.filter fun t => !ts.any fun x => x.id == t.id }
  members.foldl (fun s a => (s.dropWays a 0).seat (Core.reset a)) s3

/-- COOPERATIVE_EVICTION: the team or stand of a save is evictable, or stopped by force, and its engines are drained:
it is saved. Of a stand that spans modules the event is the word that a `ctxsave` stands for it on every one of them
(R402). DEDUCED: log entries 19, 24. -/
def execCooperativeEviction (save : Nat) (s : State) : Out :=
  let s := s.sourcesWalked (s.saveMembers save)
  match s.saves.find? fun v => v.team == save with
  | none => .next s
  | some v =>
    match (s.teamOf v.team).bind fun t => s.launchOf t.launch with
    | none => .next s
    | some l =>
      let windows := !lrGang l.words || s.windowsEnded l
      if (v.forced ∨ s.evictable v.team) ∧ windows ∧ (s.saveMembers v.team).all s.drained then .next (s.saveNow v l.id)
      else .next s

/-! ## Restore (R404 to R406) -/

/-- Local bytes from a new memory in some granules, from an old one in the others. -/
def Memory.overlay (old new : Memory) (from_ : Nat → Bool) : Memory :=
  let kept : Memory := old.filter fun (p : Host.Cell) => !from_ (p.1 / 0x4000)
  let fresh : Memory := new.filter fun (p : Host.Cell) => from_ (p.1 / 0x4000)
  fresh.foldl (fun (m : Memory) (p : Host.Cell) => Memory.write m p.1 p.2) kept

/-- The copies of the omitted granules, in id order. -/
def Core.restages (c : Core) : List EngOp :=
  ((c.granules.filter Granule.ok).flatMap Granule.copies).foldl (fun ops o => upsert EngOp.tag o ops) []

/-- One copy of an omitted granule runs again, up to a fault, which is posted with AUX zero; true answers then. The
bytes that it does not write read zero (R404). DEDUCED: log entry 22. -/
def State.restage (s : State) (a : Agent) (op : EngOp) : Res (State × Bool) :=
  let c := s.getCore a
  let keep (s : State) : State := s.modCore a fun d =>
    { d with scratch := c.scratch.overlay d.scratch c.omits, granules := c.granules }
  match Xfer.run { s := s, gen := op.gen } a op.src op.dst op.scope (copyPairs op.src op.dst) with
  | (_, .wait, _) => .wait
  | (t, .bad f, _) => .ok ((keep t.s).noticeOf c f 0, true)
  | (t, .ok _, _) => .ok (keep t.s, false)

/-- Set bits of c255. -/
def Core.setC255 (c : Core) (bits : Nat) : Core :=
  { c with scratch := c.scratch.writeNat 2040 8 (Nat.lor (c.constWord 255).toNat bits) }

/-- A restored core's local memory: its omitted granules are fetched again, and a discardable save has lost the rest and
the map slots (R342, R404, R405). Of the writes before the restore only the copies that ran again count (R404). -/
def State.refill (s : State) (a : Agent) (disc : Bool) : Res State :=
  ((s.getCore a).restages.foldl (fun (u : Res (State × Bool)) op => u.andThen fun (s1, bad) =>
      (s1.restage a op).andThen fun (s2, b) => .ok (s2, bad || b)) (.ok (s, false))).andThen fun (s1, bad) =>
  .ok (s1.modCore a fun c =>
    let lost := disc && fld c.csr.mstk 31 24 != 0
    let c1 := if disc then (List.range 8).foldl (fun d k => if d.slotLive k then d.setSlot k .lost else d) c else c
    { c1.setC255 ((if bad || (disc && decide (2 ≤ c.scr)) then 2 else 0) + if lost then 4 else 0) with
      granules := c1.granules.filter Granule.ok })

/-- A member that was not parked goes on with a run: its withdrawn `xsend` and `xrecv` are issued again (R351). -/
def State.rejoin (s : State) (a : Agent) (run : Run) : State :=
  let me := s.core.who
  let s1 := s.focus a
  let s2 := { s1 with core := { s1.core with run := run, nextPc := s1.core.pc } }
  let (s3, bad) := s2.replayOver .replay s2.core.pc (s2.core.entries.filter fun e => windowEntry e.instr && !e.started)
  (match bad with
    | [] => s3
    | (e, f) :: _ => s3.faultAt a e.addr f s3.core.resume none (bad.map fun (p : Entry × Flt) => p.1.tag)).focus me

/-- A member goes on after a restore (R406); one that has ended stays ended, and its windows run again (R351). -/
def State.resumeMember (s : State) (a : Agent) : State :=
  let c := s.getCore a
  match c.run with
  | .blocked _ | .stopped => s.rejoin a .running
  | .ended => s.rejoin a .ended
  | .parked =>
    if c.frame.code = .deadline then s.unparkCore a .replay
    else if c.frame.code = .none then s
    else s.post (dieOf a)
      (c.message kindPark c.frame.code.num c.frame.mal (c.frame.detail &&& 0xFFFFFFFFFFFFF) c.frame.aux)
  | _ => s

/-- A core comes back: its carve, its context, its omitted granules, its cancelled loads and its merge (R406). It waits
while a source is in memory that is not READY (R415). -/
def State.putSaved (s : State) (disc : Bool) (c : Core) : Res State :=
  let c1 := { c with chan := c.chan.map fun o => { o with cancelled := false } }
  ((((s.dropWays c.who c.cacheGr).seat c1).acquire c.who .pkg).refill c.who disc).andThen fun s1 =>
  .ok (s1.modCore c.who Core.restartMerge)

/-- The bytes of record k of a save area as the save wrote them. -/
def Saved.written (v : Saved) (k : Nat) : List Byte := (List.range v.csz).map fun i => Config.freeByte (v.free + k * v.csz + i)

/-- The bytes of record k as they stand in memory, once its lines have been read. -/
def State.recordAt (s : State) (v : Saved) (k : Nat) : List Byte := s.mem.readBytes (v.area + 4096 + k * v.csz) v.csz

/-- The control and status registers of a record that software has altered: each holds what it can hold (R407).
DESIGN CHOICE: log entry 20. -/
def Csrs.ofRecord (r : Csrs) (w : Nat → Word) : Csrs :=
  let checked (x old : Word) (f : Word → Res Word) : Word := match f x with | .ok y => y | _ => old
  { r with
    nflags := w 0 &&& 0x3F
    srseed := w 1 &&& 0xFFFFFFFF
    vcfg := checked (w 2) r.vcfg vcfgWrite
    awin := Vector.ofFn fun i => checked (w (3 + i.val)) (r.awin.get i) awinWrite
    estat := w 10 &&& 0x103FF
    rlstat := w 11 &&& 0xFFFF7F00
    hintdrop := w 12 &&& 0xFFFFFFFF
    xstat := w 13 &&& 0xFFFFFFFF0000FF7F
    xpart := w 14 &&& 0xFFFFFFFF
    uictl := w 15 &&& 0xC00FFFFFFFFFFFFE
    uihigh := (w 22).setWidth 12
    uira := w 16 &&& 0xFFFFFFFFFFFFE
    txstat := w 17 &&& 0xFFF0FF1F700F
    txts := w 18
    txfault := w 19 &&& 0xFF0FFFFFFFFFFFFF
    txfpc := w 20 &&& 0xFFFFFFFFFFFFF
    mstk := setFld (w 21 &&& 0xFFFF00FFFF1FFFF0) 47 40 (fld r.mstk 47 40)
    xdone := (w 23).setWidth 32
    xnext := (w 24).setWidth 32
    xstage := BitVec.ofNat 64 (fld (w 25) 40 32 * 2 ^ 32 + fld (w 25) 24 16 * 2 ^ 16 + fld (w 25) 8 0)
    carvew := if 2 ≤ fld (w 26) 5 0 ∧ fld (w 26) 5 0 ≤ 47 then carveWord (fld (w 26) 5 0) else r.carvew }

/-- An unfinished instruction as an altered record gives it: its operands, RESULT and V. DESIGN CHOICE: log entry 20. -/
def Entry.ofRecord (e : Entry) (w : Nat → Word) : Entry :=
  { e with ops := { a := w 0, b := w 1, c := w 2 }, result := w 3, v := (w 4).getLsbD 0 }

/-- An operation of the channel, a copy of the restage list or a merge as an altered record gives it: its id, its
captured operands and records, and its generator. DESIGN CHOICE: log entry 20. -/
def EngOp.ofRecord (o : EngOp) (w : Nat → Word) : EngOp :=
  { o with id := (w 0).setWidth 32, gen := if (w 1).setWidth 32 = (0 : Word32) then 1 else (w 1).setWidth 32
           ops := o.ops.zipIdx.map fun p => w (2 + p.2), recs := o.recs.zipIdx.map fun p => w (64 + p.2) }

/-- A granule of the restage list as an altered record gives it. DESIGN CHOICE: log entry 20. -/
def Granule.ofRecord (g : Granule) (w : Nat → Word) : Granule :=
  { g with ok := (w 0).getLsbD 0, copies := g.copies.zipIdx.map fun p => p.1.ofRecord fun i => w (512 * (p.2 + 1) + i) }

/-- A context whose record software has altered: its registers, program counter, control registers, generators, frame,
unfinished instructions, stream entries, channel, merge, restage list and local memory are what the bytes say, in the
part's own layout. Program counters are even (R29), and vector groups above VG come back as zero (R374).
DESIGN CHOICE: log entry 20. -/
def Core.ofRecord (c : Core) (vg : Nat) (bs : List Byte) : Core :=
  let w (i : Nat) : Word := Config.recordWord bs i
  let wide (i n : Nat) : Nat := ((List.range n).map fun j => (w (i + j)).toNat * 2 ^ (64 * j)).sum
  let byte (i : Nat) : Byte := (w (2 ^ 20 + i)).setWidth 8
  let seed (i : Nat) : Word32 := if (w i).setWidth 32 = (0 : Word32) then 1 else (w i).setWidth 32
  let entry (base : Nat) (p : Entry × Nat) : Entry := p.1.ofRecord fun i => w (base + 8 * p.2 + i)
  let pc := w 0 &&& 0xFFFFFFFFFFFFE
  let csr := c.csr.ofRecord fun i => w (512 + i)
  { c with
    pc := pc, nextPc := pc
    regs :=
      { train := Vector.ofFn fun i => { (c.regs.train.get i) with value := w (16 + i.val) }
        shadow := Vector.ofFn fun i => { (c.regs.shadow.get i) with value := w (32 + i.val) }
        k := Vector.ofFn fun i => w (48 + i.val)
        shadowK := Vector.ofFn fun i => w (64 + i.val)
        m := Vector.ofFn fun i => w (128 + i.val)
        sv := Vector.ofFn fun i => w (192 + i.val)
        v := Vector.ofFn fun i => if i.val / 8 ≤ vg then BitVec.ofNat 2048 (wide (1024 + 32 * i.val) 32) else 0
        f := Vector.ofFn fun i => if i.val = 0 then BitVec.allOnes 256 else BitVec.ofNat 256 (wide (256 + 4 * i.val) 4)
        acc := Vector.ofFn fun a => Vector.ofFn fun i => Vector.ofFn fun j =>
          (w (4096 + 5120 * a.val + 80 * i.val + j.val)).setWidth 32 }
    csr := csr
    gens := { vec := Vector.ofFn fun i => seed (600 + i.val), row := Vector.ofFn fun i => seed (664 + i.val), chan := seed 728 }
    frame := { c.frame with resume := w 740 &&& ~~~1, detail := w 741, next := w 742 &&& ~~~1, aux := w 743 }
    entries := c.entries.zipIdx.map (entry (2 ^ 16))
    streams := Vector.ofFn fun st => (c.streams.get st).zipIdx.map (entry (2 ^ 17 + 2 ^ 12 * st.val))
    chan := c.chan.zipIdx.map fun p => p.1.ofRecord fun i => w (2 ^ 18 + 512 * p.2 + i)
    merge := c.merge.map fun o => o.ofRecord fun i => w (2 ^ 18 + 2 ^ 17 + i)
    granules := c.granules.zipIdx.map fun p => p.1.ofRecord fun i => w (2 ^ 19 + 2 ^ 12 * p.2 + i)
    scratch := (List.range ({ c with csr := csr } : Core).top).filterMap fun i => if byte i = 0 then none else some (i, byte i) }

/-- VG of the kernel that a saved core runs (R374). -/
def Saved.vgOf (v : Saved) (c : Core) : Nat :=
  match v.teams.find? fun t => (c.task.map Task.team) == some t.id with
  | some t => lrVg t.words
  | none => 3

/-- The core of record k as it comes back: as it was saved, or as its altered record says (R403).
DESIGN CHOICE: log entry 20. -/
def State.recordCore (s : State) (v : Saved) (k : Nat) (c : Core) : Core :=
  if s.recordAt v k = v.written k then c else c.ofRecord (v.vgOf c) (s.recordAt v k)

/-- The cores that a saved team or stand left are free, and its windows clash with no other resident stand's (R346). A
stand gives way to the reservations of higher levels alone (R24). DEDUCED: log entry 23. -/
def State.returnable (s : State) (v : Saved) (l : Launch) : Bool :=
  let gang := lrGang l.words
  v.teams.all (fun t => s.rectFree l.id (if gang then l.prio + 1 else l.prio) t.die t.gx t.gy t.w t.h)
    && (!gang || s.winsFree l.id (placedWins l.words (l.wins.map Win.entry) (v.teams.map Team.idx)
      (v.teams.map fun t => (t.die, t.gx, t.gy))))

/-- The stand's members are released together, and the windows of the superstep in which it was saved count from here
(R348, R351, R406). A stand that had not started awaits its start release as before. -/
def State.renewRelease (s : State) (launch : Nat) : State :=
  match s.launchOf launch with
  | some l => if lrGang l.words && l.released.isSome then
      s.setLaunch { l with wins := l.wins.map Win.fresh, released := some s.time } else s
  | none => s

/-- RESTORE: a saved team or stand that a `ctxload` asked for returns to its cores, which are free.
DEDUCED: log entries 21, 23. DESIGN CHOICE: log entry 20. -/
def execRestore (save : Nat) (s : State) : Out :=
  match s.saved.find? fun v => v.area == save && v.asked with
  | none => .next s
  | some v =>
    match s.launchOf v.launch with
    | none => .next s
    | some l =>
      if s.returnable v l then
        let s1 := { s with
          saved := s.saved.filter fun w => w.team != v.team
          teams := v.teams.foldl (fun ts t => upsert Team.id t ts) s.teams }
        let s2 := (s1.areaPut v.die v.area (bytesOfNat 8 (if v.disc then 4 else 0))).areaTake v.die (v.area + 4096)
          (v.cores.length * v.csz)
        let back (u : Res State) (p : Core × Nat) : Res State :=
          u.andThen fun x => x.putSaved v.disc (s2.recordCore v p.2 p.1)
        match (s.areaReach v.area v.bytes).andThen fun _ => v.cores.zipIdx.foldl back (.ok s2) with
        | .ok s3 => .next (v.cores.foldl (fun s c => s.resumeMember c.who) (s3.renewRelease v.launch))
        | _ => .next s
      else .next s

end Sys2Proof.Machine
end

