-- ==== Sys2Proof/Machine/Ports.lean ====
section
/-! DEFINITION. The steps of the memory system, the fabric, the host, power and bring-up (17_ports.md; R152, R192 to
R194). -/

namespace Sys2Proof.Machine

/-! ## Coherence: units that leave, poison, Myzil messages (R152, R192 to R194, R418) -/

/-- A bit of a die's commanded gates, and of its gates as they are: word, bit. -/
def State.gateWanted (s : State) (die i b : Nat) : Bool := (s.ports.gateCmd.toList.getD (3 * die + i) 0).getLsbD b
def State.gateIs (s : State) (die i b : Nat) : Bool := (s.ports.gates die i).getLsbD b

/-- A gate status bit sets. -/
def Ports.gated (p : Ports) (die i b : Nat) : Ports :=
  { p with gateSts := p.gateSts.setIfInBounds (3 * die + i) (p.gateSts.toList.getD (3 * die + i) 0 ||| BitVec.ofNat 64 (2 ^ b)) }

/-- A task runs on a core that a test picks. -/
def State.taskOn (s : State) (p : Nat → Bool) : Bool :=
  s.cores.any fun c => c.task.isSome && match c.who with | .tile id => p id | .sup _ => false

/-- UNIT_LEAVES_COHERENCE: a unit that is to be gated, and on which no task runs, empties and leaves; its status bit
sets (R194, R421). -/
def execUnitLeavesCoherence (u : CohUnit) (s : State) : Out :=
  match u with
  | .cluster die i =>
    let cid := clusterId die i
    if s.gateWanted die (i / 64) (i % 64) ∧ !s.gateIs die (i / 64) (i % 64) ∧ i < 80 ∧ !s.taskOn fun id => clusterOf id == cid then
      .next ((s.emptyCluster cid).modPorts fun p => p.gated die (i / 64) (i % 64))
    else .next s
  | .slice die k =>
    if s.gateWanted die 2 k ∧ !s.gateIs die 2 k then
      .next ((s.emptyL2 die fun e => l2Slice (e.line * 128) == k).modPorts fun p => p.gated die 2 k)
    else .next s
  | .die die =>
    if s.gateWanted die 1 63 ∧ !s.gateIs die 1 63 ∧ !s.taskOn fun id => dieOf (.tile id) == die then
      .next ((s.emptyDie die).modPorts fun p => p.gated die 1 63)
    else .next s

/-- SOFT_ERROR: the home of the line marks it, and is told where it is another module (R192). -/
def execSoftError (line : Nat) (s : State) : Out :=
  let s1 := s.poisonLine line
  .next (if s.foreign (line * 128) then s1.send (.poison (modOf (line * 128)) line) else s1)

/-- INV: a home invalidates this module's copy of a line, which goes home if it was modified, and is told so (R152). -/
def execInv (line from_ : Nat) (s : State) : Out :=
  .next ((s.giveUp fun e => e.line == line).send (.invack from_ line))

/-- A region of the peer directory: 16 lines. -/
def regionOf (line : Nat) : Nat := line / 16

/-- A peer that an invalidation has reached holds the line no more; where it holds no other line of the region it leaves
the region's entry, and an entry without sharers is gone (R152). -/
def Ports.unshare (p : Ports) (line m : Nat) : Ports :=
  let region := regionOf line
  let held := p.held.filter fun h => !(h.line == line && h.mod == m)
  { p with
    held := held
    peers := p.peers.filterMap fun e =>
      if e.1 ≠ region then some e
      else match e.2 with
        | some ms =>
          let left := if held.any fun h => regionOf h.line == region && h.mod == m then ms else ms.erase m
          if left.isEmpty then none else some (e.1, some left)
        | none =>
          if (held.any fun h => regionOf h.line == region) || p.invs.any fun x => regionOf x.1 == region then some e
          else none }

/-- INVACK: a sharer has given its copy up; the counters that waited for the last answer step (R366, R420). -/
def execInvack (line from_ : Nat) (s : State) : Out :=
  .next (s.modPorts fun p => { p with invs := p.invs.erase (line, from_) }.unshare line from_).payOwed

/-- A line of 128 bytes stands at a physical address in memory. -/
def State.putLine (s : State) (line : Nat) (data : List Byte) : State :=
  { s with mem := s.mem.writeBytes (line * 128) (data.take 128) }

/-- A peer joins the sharers of a line's region: up to 8 pointers, then the broadcast mark (R152). -/
def Ports.share (p : Ports) (line m : Nat) (own : Bool) : Ports :=
  let region := regionOf line
  let sharers : Option (List Nat) := match p.peers.find? fun e => e.1 == region with
    | none => some [m]
    | some (_, none) => none
    | some (_, some ms) => if ms.contains m then some ms else if ms.length < 8 then some (ms ++ [m]) else none
  { p with
    peers := upsert Prod.fst (region, sharers) p.peers
    held := (p.held.filter fun h => !(h.line == line && h.mod == m)) ++ [{ line := line, mod := m, own := own }] }

/-- This home grants a line to a peer that asks for it, to read or to own: an access of another module, which is a plain
one (R285). A poisoned line is returned as such (R192). DESIGN CHOICE: log entry 26. -/
def State.grantLine (s : State) (line peer : Nat) (own : Bool) : State :=
  let pa := line * 128
  if s.poisoned pa then s.send (.poison peer line)
  else
    let s1 := (s.plainTouch 0xFFF none pa own).ask pa own
    let s2 := if own then s1.giveUp fun e => e.line == line
      else
        let s0 := (s1.l2.filter fun e => e.line == line && (e.st == .m || e.st == .e)).foldl
          (fun s e => s.recall e.die line) s1
        { s0 with l2 := s0.l2.map fun e =>
            if e.line == line then { e with st := match e.st with | .m => .o | .e => .s | x => x } else e }
    let s3 := if own then
        ((s2.ports.held.filter fun h => h.line == line && h.mod != peer).map PeerLine.mod).foldl
          (fun s m => s.sendInv line m) s2
      else s2
    (s3.modPorts fun p => p.share line peer own).send (.grant peer line (s3.lineBytes line))

/-- GRANT: the home of a line grants it to a peer, with its data (R152, R418). A line of this module goes out; one of
another module comes in, unless an L2 here has modified it. DESIGN CHOICE: log entry 26. -/
def execGrant (line : Nat) (to_ : Granted) (s : State) : Out :=
  if !s.foreign (line * 128) then
    (if s.ports.linkup = 0 ∨ !s.otherModules.contains to_.peer then .next s
     else match s.reach (line * 128) 0 with
      | .ok _ => .next (s.grantLine line to_.peer to_.own)
      | _ => .next s)
  else if s.l2.any fun e => e.line == line && (e.st == .m || e.st == .o) then .next s
  else .next { s.putLine line to_.data with poison := s.poison.filter fun l => l != line }

/-- WBACK: the peer that held a line of this module's memory modified writes it back: a plain store to a transaction
(R285). On a poisoned line the data is discarded (R193). DESIGN CHOICE: log entry 26. -/
def execWback (line : Nat) (data : List Byte) (s : State) : Out :=
  if s.foreign (line * 128) ∨ s.poisoned (line * 128) then .next s
  else .next (((s.plainTouch 0xFFF none (line * 128) true).putLine line data).modPorts fun p =>
    { p with held := p.held.filter fun h => !(h.line == line && h.own) })

/-- POISON: a peer returns a line as poisoned (R192). -/
def execPoison (line : Nat) (s : State) : Out := .next (s.poisonLine line)

/-- NOTICE: another module's interrupt reaches the bridging module (R426). PRESUMED: log entry 5. -/
def execNotice (vector : Nat) (s : State) : Out :=
  .next (if Config.bridging then s.modPorts fun p => { p with vectors := p.vectors ++ [vector] } else s)

/-! ## Links (R416 to R419) -/

/-- A LINKUP bit sets, or clears; a change is told to the host (R426). -/
def State.setLink (s : State) (n : Nat) (up : Bool) : State :=
  if s.ports.linkup.getLsbD n == up then s
  else (s.modPorts fun p => { p with linkup := p.linkup ^^^ BitVec.ofNat 32 (2 ^ n) }).raise 10

/-- LINK_UP; in power state off the links are down (R421). -/
def execLinkUp (n : Fin 32) (s : State) : Out := .next (if s.ports.pst = 3 then s else s.setLink n.val true)

/-- The records of a core that wait on another module's answer fail (R419). DEDUCED: log entry 25. -/
def State.failRemote (s : State) (a : Agent) : State :=
  ((s.getCore a).chan.filter fun o => o.isQueue && o.moved && !o.done).foldl (fun s o => s.queueDone a o 3 0) s

/-- A request on the fabric that has not been answered: a record, an invalidation, a translation invalidation, a share's
arrival at a chime. -/
def State.unanswered (s : State) : FabMsg → Bool
  | .chimearr _ launch _ => s.launches.any fun l => l.id == launch && l.chimeSent && !s.isRoot l && l.told.isNone
  | .inv m l => s.ports.invs.contains (l, m)
  | .tlbinv m _ _ => s.ports.tlbs.contains m
  | .qrec _ id h _ _ _ => s.cores.any fun c => c.chan.any fun o =>
      o.isQueue && o.moved && !o.done && o.id == id && wordAt o.ops 0 == h
  | _ => false

/-- Two messages stand for one request: equal ones, and the arrivals of one share at a chime. -/
def FabMsg.same : FabMsg → FabMsg → Bool
  | .chimearr t l _, .chimearr u k _ => t == u && l == k
  | x, y => x == y

/-- The messages of a link, each with whether it is the last that stands for its request. -/
def lastOfEach : List FabMsg → List (FabMsg × Bool)
  | [] => []
  | m :: rest => (m, !rest.any m.same) :: lastOfEach rest

/-- What was in flight on a link that has gone down is issued again on the link that LMAP now gives (R419): every
request that has no answer yet, and of the other messages and answers those that had not arrived, which only their
receivers know. DEDUCED: log entry 40. -/
def State.reissue (s : State) (n : Nat) : State :=
  let ms := lastOfEach ((s.ports.sent.filter fun p => p.1 == some n).map Prod.snd)
  let s1 := s.useFree ms.length
  (ms.zipIdx.filter fun p => p.1.2 && (s.unanswered p.1.1 || Config.freeBool (s.free + p.2))).foldl
    (fun s p => s.send p.1.1) s1

/-- LINK_DOWN: traffic goes on over the other links, on which what was in flight is issued again; where none is up, no
module can be reached: requests that wait fail, the lines that a peer held modified are poisoned, and no module shares a
line any more (R192, R417, R419). DEDUCED: log entries 18, 25, 40. -/
def execLinkDown (n : Fin 32) (s : State) : Out :=
  if !s.ports.linkup.getLsbD n.val then .next s
  else
    let s1 := s.setLink n.val false
    if s1.ports.linkup ≠ 0 then .next (s1.reissue n.val)
    else .next ((s1.cores.map Core.who).foldl State.failRemote s1).noLink

/-! ## The host bridge (R424, R425) -/

/-- HWIN's fields. -/
def Ports.hMod (p : Ports) : Nat := fld p.hwin 8 0
def Ports.hOff (p : Ports) : Nat := fld p.hwin 15 12
def Ports.hBase (p : Ports) : Nat := fld p.hwin 23 16

/-- The bridge serves the host. PRESUMED: log entry 5. -/
def State.bridgeOn (s : State) : Bool := Config.bridging && s.ports.ready.getLsbD 25

/-- The bytes of HWIN in BAR4, from an offset. -/
def hwinBytes (x : Word) (off n : Nat) : List Byte :=
  (List.range n).map fun i => (bytesOfNat 8 x.toNat).getD (off + i) 0

/-- HWIN as it is written. -/
def hwinWrite (x : Word) : Word := BitVec.ofNat 64 (fld x 23 16 * 2 ^ 16 + fld x 15 12 * 2 ^ 12 + fld x 8 0)

/-- Memory answers the host: not in recovery, and not in power state off (R421, R427). -/
def Ports.memoryOn (p : Ports) : Bool := !p.recovery && p.pst != 3

/-- The device register space of a module at an offset. -/
def deviceOf (m off : Nat) : Nat := m * 2 ^ 47 + devBase + off

/-- Where the bridge's own registers stand among the places that the host names: above the physical space. -/
def bridgeAt : Nat := 2 ^ 64

/-- Where this module's own registers stand among them, whatever its MODID. -/
def ownRegs : Nat := 2 ^ 65

/-- HWIN after a write of bytes at an offset of BAR4. -/
def hwinPut (x : Word) (off : Nat) (bs : List Byte) : Word :=
  let old := bytesOfNat 8 x.toNat
  hwinWrite (BitVec.ofNat 64 (natOfBytes ((List.range 8).map fun i =>
    if off ≤ i ∧ i < off + bs.length then bs.getD (i - off) 0 else old.getD i 0)))

/-- The bridge as a new access finds it: HWIN after the posted writes that stand before it (R425). -/
def Ports.ahead (p : Ports) : Ports :=
  { p with hwin := p.posted.foldl (fun (x : Word) (e : Nat × List Byte) =>
      if bridgeAt ≤ e.1 ∧ e.1 < ownRegs then hwinPut x (e.1 - bridgeAt) e.2 else x) p.hwin }

/-- The place that an offset of a BAR names (R424). A BASE whose terabyte lies beyond the 47 bits of an LPA names no
memory. DEDUCED: log entry 51. -/
def Ports.place (p : Ports) (bar : Fin 3) (off : Nat) : Nat :=
  match bar with
  | 0 => deviceOf p.hMod (p.hOff * 2 ^ 36 + off)
  | 1 => p.hMod * 2 ^ 47 + if p.hBase < 128 then p.hBase * 2 ^ 40 + off else hbmEnd + off
  | _ => bridgeAt + off

/-- A host write is performed: to the bridge's own registers, to this module's registers, to its memory, or as a
request to another module where a link is up (R424). -/
def State.hostPut (s : State) (pa : Nat) (bs : List Byte) : Res State :=
  if ownRegs ≤ pa then .ok (s.regStoreAll true (pa - ownRegs) bs)
  else if bridgeAt ≤ pa then .ok (s.modPorts fun p => { p with hwin := hwinPut p.hwin (pa - bridgeAt) bs })
  else if isDevice pa then
    .ok (if !s.foreign pa then s.regStoreAll true (lpaOf pa - devBase) bs
         else if s.ports.linkup = 0 then s
         else (lineParts pa bs.length).foldl (fun s p => s.send (.store p.1 ((bs.drop (p.1 - pa)).take p.2))) s)
  else if s.ports.memoryOn then s.portWrite pa bs else .ok s

/-- A host read is performed. -/
def State.hostGet (s : State) (pa n : Nat) : Res (State × List Byte) :=
  if bridgeAt ≤ pa then .ok (s, hwinBytes s.ports.hwin (pa - bridgeAt) n)
  else if isDevice pa then
    .ok (if !s.foreign pa then (s, s.regBytes (lpaOf pa - devBase) n)
         else if s.ports.linkup = 0 then s.freeBytes n
         else ((lineParts pa n).foldl (fun s p => s.send (.load p.1 p.2)) s).freeBytes n)
  else if s.ports.memoryOn then s.portRead pa n else .ok (s.freeBytes n)

/-- Posted writes that wait are performed in their order, up to one that must wait still (R425). -/
def State.drainPosted (s : State) : Nat → State
  | 0 => s
  | n + 1 =>
    match s.ports.posted with
    | [] => s
    | (pa, bs) :: rest =>
      match s.hostPut pa bs with
      | .ok s1 => (s1.modPorts fun p => { p with posted := rest }).drainPosted n
      | _ => s

/-- Host reads that wait are performed once no earlier posted write waits (R425). -/
def State.drainReads (s : State) : Nat → State
  | 0 => s
  | n + 1 =>
    match s.ports.hostWait with
    | [] => s
    | (pa, k) :: rest =>
      match s.hostGet pa k with
      | .ok (s1, bs) => (s1.modPorts fun p => { p with hostData := bs, hostWait := rest }).drainReads n
      | _ => s

/-- What waited for memory goes on: posted writes, host reads behind them, and the queues' announced records. -/
def State.memoryCame (s : State) : State :=
  let s1 := s.drainPosted s.ports.posted.length
  (if s1.ports.posted.isEmpty then s1.drainReads s1.ports.hostWait.length else s1).takeRings

/-- HOST_READ: a read through BAR0, BAR2 or BAR4; it returns after every earlier posted write has been performed.
DEDUCED: log entry 51. -/
def execHostRead (bar : Fin 3) (off len : Nat) (s : State) : Out :=
  if !s.bridgeOn then .next s
  else
    let s1 := s.modPorts fun p => { p with hostWait := p.hostWait ++ [(p.ahead.place bar off, len)] }
    .next (if s.ports.posted.isEmpty ∧ s.ports.hostWait.isEmpty then s1.drainReads 1 else s1)

/-- A write of the host is posted behind those that wait (R425). -/
def State.hostPost (s : State) (pa : Nat) (data : List Byte) : State :=
  let s1 := s.modPorts fun p => { p with posted := p.posted ++ [(pa, data)] }
  if s.ports.posted.isEmpty then s1.drainPosted 1 else s1

/-- HOST_WRITE: a posted write through BAR0, BAR2 or BAR4. DEDUCED: log entries 41, 51. -/
def execHostWrite (bar : Fin 3) (off : Nat) (data : List Byte) (s : State) : Out :=
  .next (if s.bridgeOn then s.hostPost (s.ports.ahead.place bar off) data else s)

/-- The host writes bytes of this module's registers, at an offset. -/
def State.regPost (s : State) (off : Nat) (data : List Byte) : State := s.hostPost (ownRegs + off) data

/-! ## Bring-up (R414, R415, R427) -/

/-- MODULE_RESET: every register is at its reset value, and the boot engine verifies the stored image: the latest that
was loaded, else the one that the part was made with (R427). DEDUCED: log entries 27, 37. -/
def execModuleReset (made : List Byte) (s : State) : Out :=
  let image := if s.ports.image.isEmpty then made else s.ports.image
  .next (s.resetWith image (imageGood image))

/-- The bit of a function in READY and FAIL (R414). -/
def fnBit : ModFn → Nat
  | .die d => d.val
  | .hbm k => 8 + k.val
  | .pcp => 24
  | .host => 25
  | .eth n _ => 26 + n.val

/-- The supervisor core of a die begins at physical address 0 when its die is ready, and an Ethernet port in the mode
that the host has selected (R420). DESIGN CHOICE: log entry 3. -/
def State.startSup (s : State) (fn : ModFn) : State :=
  match fn with
  | .die d => s.modCore (.sup d.val) fun c => { c with run := .running, pc := 0, nextPc := 0 }
  | .eth n split => s.modPorts fun p => { p with split := if split then p.split ||| BitVec.ofNat 8 (2 ^ n.val) else p.split }
  | _ => s

/-- A function may come up: with a verified image every one, in recovery the host bridge alone; the bridge only on the
bridging module; in power state off none (R421, R424, R427). DEDUCED: log entry 27. PRESUMED: log entry 5. -/
def State.comesUp (s : State) (fn : ModFn) : Bool :=
  s.ports.pst != 3 && match fn with
  | .host => Config.bridging
  | _ => s.ports.imageOk

/-- SELF_TEST_COMPLETE: a function sets its bit in READY, or in FAIL (R414); what waited for memory goes on (R415).
DEDUCED: log entries 27, 50. DESIGN CHOICE: log entry 3. -/
def execSelfTestComplete (fn : ModFn) (ok : Bool) (s : State) : Out :=
  let b := fnBit fn
  let bit : Word := BitVec.ofNat 64 (2 ^ b)
  if !s.comesUp fn ∨ s.ports.ready.getLsbD b ∨ s.ports.failed.getLsbD b then .next s
  else if ok then
    .next ((((s.modPorts fun p => { p with ready := p.ready ||| bit }).startSup fn).raise 9).memoryCame)
  else .next (((s.modPorts fun p => { p with failed := p.failed ||| bit }).raise 9).memoryCame)

/-! ## Ethernet (R420) -/

/-- The port moves frames, and the half, of a split port, exists. -/
def State.portOn (s : State) (port : Nat) (half : Bool) : Bool :=
  s.ports.ready.getLsbD (26 + port) && (!half || s.ports.split.getLsbD port)

/-- FRAME_RECEIVE: a frame is written into its ring at system scope, and then, once the peers have acknowledged it
(R156), the ring's counter steps. The frames of a ring come in the order of their events. DEDUCED: log entry 50. -/
def execFrameReceive (port : EthPort) (pa : Nat) (data : List Byte) (counter : Nat) (s : State) : Out :=
  if s.portOn port.port.val port.half then
    match s.portWrite pa data with
    | .ok s1 => .next (s1.oweStep (counter % 32768))
    | _ => .next s
  else .next s

/-- FRAME_TRANSMIT: a port, or a half of a split one, sends a frame from its ring. DEDUCED: log entry 50. -/
def execFrameTransmit (port : EthPort) (pa len : Nat) (s : State) : Out :=
  if s.portOn port.port.val port.half then
    match s.portRead pa len with
    | .ok (s1, bs) => .next (s1.send (.frame port.port.val port.half bs))
    | _ => .next s
  else .next s

/-- DOORBELL: the host's new producer index of a queue, a posted write (R425). -/
def execDoorbell (queue : Nat) (index : Word) (s : State) : Out :=
  .next (if queue < 32768 then s.regPost (0x3000000 + 8 * queue) (bytesOfNat 8 index.toNat) else s)

/-- QUEUE_DESCRIPTOR_WRITE: a posted write (R369, R425). -/
def execQueueDescriptorWrite (queue : Nat) (word : Fin 4) (x : Word) (s : State) : Out :=
  .next (if queue < 32768 then s.regPost (0x2000000 + 32 * queue + 8 * word.val) (bytesOfNat 8 x.toNat) else s)

/-! ## Power (R421 to R423) -/

/-- The host writes the byte of PSCTL that holds PSCMD (R421, R425). -/
def State.psCmd (s : State) (n : Nat) : State := s.regPost 0x10000 [BitVec.ofNat 8 n]

/-- RUN. -/
def execRun (s : State) : Out := .next (s.psCmd 0)

/-- IDLE. -/
def execIdle (s : State) : Out := .next (s.psCmd 1)

/-- STANDBY. -/
def execStandby (s : State) : Out := .next (s.psCmd 2)

/-- OFF. -/
def execOff (s : State) : Out := .next (s.psCmd 3)

/-- The host writes one bit of a gate word; behind posted writes that wait the write has not come yet (R425, log entry
48). In recovery no gate word is served (R427). -/
def State.gateBit (s : State) (die i b : Nat) (gate : Bool) : State :=
  if s.ports.recovery || !s.ports.posted.isEmpty then s
  else s.modPorts fun p => p.writeGate die i (setFld (p.gateCmd.toList.getD (3 * die + i) 0) b b (if gate then 1 else 0))

/-- CLUSTER_GATE. -/
def execClusterGate (die cluster : Nat) (gate : Bool) (s : State) : Out :=
  .next (if cluster < 80 then s.gateBit die (cluster / 64) (cluster % 64) gate else s)

/-- DIE_GATE. -/
def execDieGate (die : Nat) (gate : Bool) (s : State) : Out := .next (s.gateBit die 1 63 gate)

/-- SLICE_GATE. -/
def execSliceGate (die slice : Nat) (gate : Bool) (s : State) : Out :=
  .next (if slice < 32 then s.gateBit die 2 slice gate else s)

/-- PCAP_WRITE: the host writes the cap, which ends a fallback (R422, R423). -/
def execPcapWrite (cap : BitVec 16) (s : State) : Out := .next (s.regPost 0x10004 (bytesOfNat 2 cap.toNat))

/-- THERMAL_ALARM: the hottest sensor reads a temperature; where it reaches TALARM and no alarm stands, the alarm does
(R423). DEDUCED: log entry 50. -/
def execThermalAlarm (temp : BitVec 16) (s : State) : Out :=
  let s1 := s.modPorts fun p => { p with tstat := setFld p.tstat 15 0 temp.toNat }
  if fld s.ports.psctl 15 8 * 256 ≤ temp.toNat ∧ s.ports.tstat.getLsbD 63 = false then
    .next ((s1.modPorts fun p => { p with tstat := setFld p.tstat 63 63 1, alarmAt := some s.time }).raise 0)
  else .next s1

/-- The cycle in which the host's time to act on an alarm ends: THOLD ms at 1.7 GHz. -/
def Ports.holdEnd (p : Ports) : Option Nat := p.alarmAt.map fun t => t + fld p.psctl 31 16 * 1700000

/-- FALLBACK: the host has not acted in time, and the fallback cap is in force (R423). -/
def execFallback (s : State) : Out :=
  match s.ports.holdEnd with
  | some t =>
    if t < s.time then .next (s.modPorts fun p => { p with tstat := setFld p.tstat 62 62 1, alarmAt := none }) else .next s
  | none => .next s

/-- ALARM_CLEAR: the host clears TSTAT.ALARM. -/
def execAlarmClear (s : State) : Out := .next (s.regPost 0x10008 (bytesOfNat 8 (2 ^ 63)))

/-! ## Module id, firmware mailbox, other registers (R413, R415, R428) -/

/-- MODID_WRITE: ignored while a link is up. -/
def execModidWrite (id : BitVec 9) (s : State) : Out := .next (s.regPost 0 (bytesOfNat 8 id.toNat))

/-- A request of the mailbox: its buffer, its length, its command; ignored while one is in progress. Behind posted
writes that wait it has not come yet (R425, log entry 48). -/
def State.firmware (s : State) (cmd buf len : Word) : State :=
  if s.ports.fwSt = 0 ∨ !s.ports.posted.isEmpty then s else (s.modPorts fun p => { p with fwBuf := buf, fwLen := len }).writeFwCmd cmd

/-- LOAD_IMAGE. -/
def execLoadImage (buf len : Word) (s : State) : Out := .next (s.firmware 1 buf len)

/-- ATTESTATION_QUOTE. -/
def execAttestationQuote (buf len : Word) (s : State) : Out := .next (s.firmware 2 buf len)

/-- READ_IDENTITY. -/
def execReadIdentity (buf len : Word) (s : State) : Out := .next (s.firmware 3 buf len)

/-- FIRMWARE_REQUEST_DONE. -/
def execFirmwareRequestDone (s : State) : Out := .next s.firmwareDone

/-- REGISTER_WRITE: the host's write of a device register by its offset, a posted one (R425). An offset within a
doubleword means that doubleword. -/
def execRegisterWrite (off : Nat) (x : Word) (s : State) : Out := .next (s.regPost (off / 8 * 8) (bytesOfNat 8 x.toNat))

end Sys2Proof.Machine
end

