-- ==== Sys2Proof/Machine/Dispatch.lean ====
section
/-! DEFINITION. What each instruction does: one arm for each constructor. -/

namespace Sys2Proof.Machine

/-- The meaning of an instruction. -/
def exec (i : Instr) (s : State) : Host.Outcome State Fault Refusal :=
  match i with
  | .nop => Sys2Proof.Machine.execNop s
  | .pick x => Sys2Proof.Machine.execPick x s
  | .put d x => Sys2Proof.Machine.execPut d x s
  | .add x y => Sys2Proof.Machine.execAdd x y s
  | .sub x y => Sys2Proof.Machine.execSub x y s
  | .addi x imm => Sys2Proof.Machine.execAddi x imm s
  | .mul x y => Sys2Proof.Machine.execMul x y s
  | .and x y => Sys2Proof.Machine.execAnd x y s
  | .or x y => Sys2Proof.Machine.execOr x y s
  | .xor x y => Sys2Proof.Machine.execXor x y s
  | .andi x imm => Sys2Proof.Machine.execAndi x imm s
  | .shl x y => Sys2Proof.Machine.execShl x y s
  | .shr x y => Sys2Proof.Machine.execShr x y s
  | .sra x y => Sys2Proof.Machine.execSra x y s
  | .shli x n => Sys2Proof.Machine.execShli x n s
  | .shri x n => Sys2Proof.Machine.execShri x n s
  | .srai x n => Sys2Proof.Machine.execSrai x n s
  | .ceq x y => Sys2Proof.Machine.execCeq x y s
  | .clt x y => Sys2Proof.Machine.execClt x y s
  | .cltu x y => Sys2Proof.Machine.execCltu x y s
  | .clti x imm => Sys2Proof.Machine.execClti x imm s
  | .min x y => Sys2Proof.Machine.execMin x y s
  | .max x y => Sys2Proof.Machine.execMax x y s
  | .minu x y => Sys2Proof.Machine.execMinu x y s
  | .maxu x y => Sys2Proof.Machine.execMaxu x y s
  | .popc x => Sys2Proof.Machine.execPopc x s
  | .clz x => Sys2Proof.Machine.execClz x s
  | .ctz x => Sys2Proof.Machine.execCtz x s
  | .li imm => Sys2Proof.Machine.execLi imm s
  | .ldc n => Sys2Proof.Machine.execLdc n s
  | .lld w addr off => Sys2Proof.Machine.execLld w addr off s
  | .lstB addr val off => Sys2Proof.Machine.execLstB addr val off s
  | .lstH addr val off => Sys2Proof.Machine.execLstH addr val off s
  | .lstW addr val off => Sys2Proof.Machine.execLstW addr val off s
  | .lstD addr val off => Sys2Proof.Machine.execLstD addr val off s
  | .br off => Sys2Proof.Machine.execBr off s
  | .bz x off => Sys2Proof.Machine.execBz x off s
  | .bnz x off => Sys2Proof.Machine.execBnz x off s
  | .call off => Sys2Proof.Machine.execCall off s
  | .jr x => Sys2Proof.Machine.execJr x s
  | .dbnz k off => Sys2Proof.Machine.execDbnz k off s
  | .ewait x => Sys2Proof.Machine.execEwait x s
  | .earr x => Sys2Proof.Machine.execEarr x s
  | .await x => Sys2Proof.Machine.execAwait x s
  | .wlease r => Sys2Proof.Machine.execWlease r s
  | .chime => Sys2Proof.Machine.execChime s
  | .yield => Sys2Proof.Machine.execYield s
  | .endTask => Sys2Proof.Machine.execEnd s
  | .brk n => Sys2Proof.Machine.execBrk n s
  | .svc n => Sys2Proof.Machine.execSvc n s
  | .sel x y cond => Sys2Proof.Machine.execSel x y cond s
  | .bmux x y sc lo hi => Sys2Proof.Machine.execBmux x y sc lo hi s
  | .fshl x y n => Sys2Proof.Machine.execFshl x y n s
  | .fshr x y n => Sys2Proof.Machine.execFshr x y n s
  | .mulh x y => Sys2Proof.Machine.execMulh x y s
  | .mulhu x y => Sys2Proof.Machine.execMulhu x y s
  | .div x y => Sys2Proof.Machine.execDiv x y s
  | .divu x y => Sys2Proof.Machine.execDivu x y s
  | .rem x y => Sys2Proof.Machine.execRem x y s
  | .remu x y => Sys2Proof.Machine.execRemu x y s
  | .madd x y z => Sys2Proof.Machine.execMadd x y z s
  | .lea x y sh => Sys2Proof.Machine.execLea x y sh s
  | .bext x pos len => Sys2Proof.Machine.execBext x pos len s
  | .bdep x val pos len => Sys2Proof.Machine.execBdep x val pos len s
  | .sext x bits => Sys2Proof.Machine.execSext x bits s
  | .zext x bits => Sys2Proof.Machine.execZext x bits s
  | .rotl x n => Sys2Proof.Machine.execRotl x n s
  | .bswap x => Sys2Proof.Machine.execBswap x s
  | .clamp x lo hi => Sys2Proof.Machine.execClamp x lo hi s
  | .rdsv ix => Sys2Proof.Machine.execRdsv ix s
  | .wrsv ix x => Sys2Proof.Machine.execWrsv ix x s
  | .rdtime => Sys2Proof.Machine.execRdtime s
  | .ldg w acq sc d addr off => Sys2Proof.Machine.execLdg w acq sc d addr off s
  | .stg w rel sc addr val off => Sys2Proof.Machine.execStg w rel sc addr val off s
  | .amoW op sc addr val => Sys2Proof.Machine.execAmoW op sc addr val s
  | .amoD op sc addr val => Sys2Proof.Machine.execAmoD op sc addr val s
  | .casW sc addr expect new => Sys2Proof.Machine.execCasW sc addr expect new s
  | .casD sc addr expect new => Sys2Proof.Machine.execCasD sc addr expect new s
  | .fence kind sc e => Sys2Proof.Machine.execFence kind sc e s
  | .ifence => Sys2Proof.Machine.execIfence s
  | .flush kind lvl addr len => Sys2Proof.Machine.execFlush kind lvl addr len s
  | .pref addr len lvl => Sys2Proof.Machine.execPref addr len lvl s
  | .resid addr len mode => Sys2Proof.Machine.execResid addr len mode s
  | .vcfg ty fm => Sys2Proof.Machine.execVcfg ty fm s
  | .vadd d a b => Sys2Proof.Machine.execVadd d a b s
  | .vsub d a b => Sys2Proof.Machine.execVsub d a b s
  | .vmul d a b => Sys2Proof.Machine.execVmul d a b s
  | .vmulh d a b => Sys2Proof.Machine.execVmulh d a b s
  | .vfma d a b => Sys2Proof.Machine.execVfma d a b s
  | .vdiv d a b => Sys2Proof.Machine.execVdiv d a b s
  | .vsqrt d a => Sys2Proof.Machine.execVsqrt d a s
  | .vrcp d a => Sys2Proof.Machine.execVrcp d a s
  | .vrsq d a => Sys2Proof.Machine.execVrsq d a s
  | .vexp2 d a => Sys2Proof.Machine.execVexp2 d a s
  | .vlog2 d a => Sys2Proof.Machine.execVlog2 d a s
  | .vmin d a b => Sys2Proof.Machine.execVmin d a b s
  | .vmax d a b => Sys2Proof.Machine.execVmax d a b s
  | .vabs d a => Sys2Proof.Machine.execVabs d a s
  | .vand d a b => Sys2Proof.Machine.execVand d a b s
  | .vor d a b => Sys2Proof.Machine.execVor d a b s
  | .vxor d a b => Sys2Proof.Machine.execVxor d a b s
  | .vbmux d a b lo hi => Sys2Proof.Machine.execVbmux d a b lo hi s
  | .vshl d a b => Sys2Proof.Machine.execVshl d a b s
  | .vshr d a b => Sys2Proof.Machine.execVshr d a b s
  | .vsra d a b => Sys2Proof.Machine.execVsra d a b s
  | .vfshl d a b n => Sys2Proof.Machine.execVfshl d a b n s
  | .vfshr d a b n => Sys2Proof.Machine.execVfshr d a b n s
  | .vpopc d a => Sys2Proof.Machine.execVpopc d a s
  | .vclz d a => Sys2Proof.Machine.execVclz d a s
  | .vceq fd a b => Sys2Proof.Machine.execVceq fd a b s
  | .vclt fd a b => Sys2Proof.Machine.execVclt fd a b s
  | .vcle fd a b => Sys2Proof.Machine.execVcle fd a b s
  | .vsel d a b => Sys2Proof.Machine.execVsel d a b s
  | .vsplat d x => Sys2Proof.Machine.execVsplat d x s
  | .vext a idx => Sys2Proof.Machine.execVext a idx s
  | .vins d x idx => Sys2Proof.Machine.execVins d x idx s
  | .vperm d a idx => Sys2Proof.Machine.execVperm d a idx s
  | .vslide d a dist => Sys2Proof.Machine.execVslide d a dist s
  | .vred op a => Sys2Proof.Machine.execVred op a s
  | .vcvt f g r d a => Sys2Proof.Machine.execVcvt f g r d a s
  | .vmask tbl fd fa fb => Sys2Proof.Machine.execVmask tbl fd fa fb s
  | .vld d addr => Sys2Proof.Machine.execVld d addr s
  | .vst a addr => Sys2Proof.Machine.execVst a addr s
  | .vldg d addr => Sys2Proof.Machine.execVldg d addr s
  | .vstg a addr => Sys2Proof.Machine.execVstg a addr s
  | .vgath d base idx => Sys2Proof.Machine.execVgath d base idx s
  | .vscat a base idx => Sys2Proof.Machine.execVscat a base idx s
  | .mma a cw p => Sys2Proof.Machine.execMma a cw p s
  | .mmat a cw p => Sys2Proof.Machine.execMmat a cw p s
  | .mred i32 a len => Sys2Proof.Machine.execMred i32 a len s
  | .mzero a => Sys2Proof.Machine.execMzero a s
  | .mld a addr => Sys2Proof.Machine.execMld a addr s
  | .mst f r a addr => Sys2Proof.Machine.execMst f r a addr s
  | .amov d a col => Sys2Proof.Machine.execAmov d a col s
  | .mwait a => Sys2Proof.Machine.execMwait a s
  | .copy src dst => Sys2Proof.Machine.execCopy src dst s
  | .copyf src dst q stream2 => Sys2Proof.Machine.execCopyf src dst q stream2 s
  | .gath table idx dst => Sys2Proof.Machine.execGath table idx dst s
  | .stage n => Sys2Proof.Machine.execStage n s
  | .xdone => Sys2Proof.Machine.execXdone s
  | .einit x n => Sys2Proof.Machine.execEinit x n s
  | .eexp x bytes => Sys2Proof.Machine.execEexp x bytes s
  | .earrn x n => Sys2Proof.Machine.execEarrn x n s
  | .etest x => Sys2Proof.Machine.execEtest x s
  | .uien x => Sys2Proof.Machine.execUien x s
  | .uidis => Sys2Proof.Machine.execUidis s
  | .uiret => Sys2Proof.Machine.execUiret s
  | .tbegin off => Sys2Proof.Machine.execTbegin off s
  | .tend => Sys2Proof.Machine.execTend s
  | .tabort code => Sys2Proof.Machine.execTabort code s
  | .tstat => Sys2Proof.Machine.execTstat s
  | .tcaddW addr val => Sys2Proof.Machine.execTcaddW addr val s
  | .tcaddF addr val => Sys2Proof.Machine.execTcaddF addr val s
  | .tcmaxW addr val => Sys2Proof.Machine.execTcmaxW addr val s
  | .tcminW addr val => Sys2Proof.Machine.execTcminW addr val s
  | .tcorD addr val => Sys2Proof.Machine.execTcorD addr val s
  | .tdepth => Sys2Proof.Machine.execTdepth s
  | .hsift heap score id => Sys2Proof.Machine.execHsift heap score id s
  | .vhsift block score id => Sys2Proof.Machine.execVhsift block score id s
  | .hsort block => Sys2Proof.Machine.execHsort block s
  | .route r => Sys2Proof.Machine.execRoute r s
  | .rtbl r => Sys2Proof.Machine.execRtbl r s
  | .mrg r => Sys2Proof.Machine.execMrg r s
  | .umrg r => Sys2Proof.Machine.execUmrg r s
  | .rmstat r => Sys2Proof.Machine.execRmstat r s
  | .xsend src count w => Sys2Proof.Machine.execXsend src count w s
  | .xrecv dst w => Sys2Proof.Machine.execXrecv dst w s
  | .xput src drec => Sys2Proof.Machine.execXput src drec s
  | .rput sh val off => Sys2Proof.Machine.execRput sh val off s
  | .rget d sh => Sys2Proof.Machine.execRget d sh s
  | .renq handle r => Sys2Proof.Machine.execRenq handle r s
  | .wenq target r => Sys2Proof.Machine.execWenq target r s
  | .qpop dst => Sys2Proof.Machine.execQpop dst s
  | .qtry dst => Sys2Proof.Machine.execQtry dst s
  | .permit walk n => Sys2Proof.Machine.execPermit walk n s
  | .walk r => Sys2Proof.Machine.execWalk r s
  | .chimex layer => Sys2Proof.Machine.execChimex layer s
  | .succ ix ma mb => Sys2Proof.Machine.execSucc ix ma mb s
  | .carve word => Sys2Proof.Machine.execCarve word s
  | .launch handle r => Sys2Proof.Machine.execLaunch handle r s
  | .sig ctr => Sys2Proof.Machine.execSig ctr s
  | .rdcsr n => Sys2Proof.Machine.execRdcsr n s
  | .wrcsr n x => Sys2Proof.Machine.execWrcsr n x s
  | .mbox x y => Sys2Proof.Machine.execMbox x y s
  | .park c => Sys2Proof.Machine.execPark c s
  | .unpark c mode => Sys2Proof.Machine.execUnpark c mode s
  | .rpl c ix => Sys2Proof.Machine.execRpl c ix s
  | .wpl c ix x => Sys2Proof.Machine.execWpl c ix x s
  | .tlbinv addr sel => Sys2Proof.Machine.execTlbinv addr sel s
  | .pclr line => Sys2Proof.Machine.execPclr line s
  | .ctxsave team area => Sys2Proof.Machine.execCtxsave team area s
  | .ctxload team area => Sys2Proof.Machine.execCtxload team area s
  | .pendingArrival a tag => Sys2Proof.Machine.execPendingArrival a tag s
  | .ewaitWake a => Sys2Proof.Machine.execEwaitWake a s
  | .awaitWake a => Sys2Proof.Machine.execAwaitWake a s
  | .wleaseWake a => Sys2Proof.Machine.execWleaseWake a s
  | .mwaitWake a => Sys2Proof.Machine.execMwaitWake a s
  | .qpopWake a => Sys2Proof.Machine.execQpopWake a s
  | .chimeRelease launch => Sys2Proof.Machine.execChimeRelease launch s
  | .startRelease launch => Sys2Proof.Machine.execStartRelease launch s
  | .remoteArrival n => Sys2Proof.Machine.execRemoteArrival n s
  | .userLevelInterrupt a => Sys2Proof.Machine.execUserLevelInterrupt a s
  | .pageTableWalk die asid va => Sys2Proof.Machine.execPageTableWalk die asid va s
  | .messageDelivery die row merge => Sys2Proof.Machine.execMessageDelivery die row merge s
  | .globalLoadReturns a tag => Sys2Proof.Machine.execGlobalLoadReturns a tag s
  | .atomicCompletes a tag => Sys2Proof.Machine.execAtomicCompletes a tag s
  | .fenceCompletion a => Sys2Proof.Machine.execFenceCompletion a s
  | .flushWalkCompletes a tag => Sys2Proof.Machine.execFlushWalkCompletes a tag s
  | .releaseCompletion a => Sys2Proof.Machine.execReleaseCompletion a s
  | .pclrCompletion a => Sys2Proof.Machine.execPclrCompletion a s
  | .tlbinvCompletion a => Sys2Proof.Machine.execTlbinvCompletion a s
  | .vectorExecution a => Sys2Proof.Machine.execVectorExecution a s
  | .channelOperationCompletes a id => Sys2Proof.Machine.execChannelOperationCompletes a id s
  | .commandPlacement a id => Sys2Proof.Machine.execCommandPlacement a id s
  | .matrixOperationStart a stream => Sys2Proof.Machine.execMatrixOperationStart a stream s
  | .matrixOperationCompletes a stream => Sys2Proof.Machine.execMatrixOperationCompletes a stream s
  | .teamRendezvous team => Sys2Proof.Machine.execTeamRendezvous team s
  | .mredMessage a => Sys2Proof.Machine.execMredMessage a s
  | .commitPoint a => Sys2Proof.Machine.execCommitPoint a s
  | .transactionAbort a => Sys2Proof.Machine.execTransactionAbort a s
  | .routeCompletion die => Sys2Proof.Machine.execRouteCompletion die s
  | .tableStaged die => Sys2Proof.Machine.execTableStaged die s
  | .rmstatCompletion a tag => Sys2Proof.Machine.execRmstatCompletion a tag s
  | .mrgCompletion a => Sys2Proof.Machine.execMrgCompletion a s
  | .windowStart launch w => Sys2Proof.Machine.execWindowStart launch w s
  | .lastPayloadBeat launch w => Sys2Proof.Machine.execLastPayloadBeat launch w s
  | .windowEnd launch w => Sys2Proof.Machine.execWindowEnd launch w s
  | .xputDelivery a id => Sys2Proof.Machine.execXputDelivery a id s
  | .rputLanding a tag => Sys2Proof.Machine.execRputLanding a tag s
  | .rputAcknowledgement a tag => Sys2Proof.Machine.execRputAcknowledgement a tag s
  | .rgetReply a tag => Sys2Proof.Machine.execRgetReply a tag s
  | .tileDelivery owner wid => Sys2Proof.Machine.execTileDelivery owner wid s
  | .enqueue a id => Sys2Proof.Machine.execEnqueue a id s
  | .launchRecordTaken queue => Sys2Proof.Machine.execLaunchRecordTaken queue s
  | .dependencesMet launch => Sys2Proof.Machine.execDependencesMet launch s
  | .dispatch launch team die gx gy => Sys2Proof.Machine.execDispatch launch team die gx gy s
  | .admission launch place => Sys2Proof.Machine.execAdmission launch place s
  | .teamRetirement team => Sys2Proof.Machine.execTeamRetirement team s
  | .handOver team => Sys2Proof.Machine.execHandOver team s
  | .carveRenegotiation team => Sys2Proof.Machine.execCarveRenegotiation team s
  | .deadlineExpiry save => Sys2Proof.Machine.execDeadlineExpiry save s
  | .cooperativeEviction save => Sys2Proof.Machine.execCooperativeEviction save s
  | .restore save => Sys2Proof.Machine.execRestore save s
  | .unitLeavesCoherence u => Sys2Proof.Machine.execUnitLeavesCoherence u s
  | .softError line => Sys2Proof.Machine.execSoftError line s
  | .inv line from_ => Sys2Proof.Machine.execInv line from_ s
  | .invack line from_ => Sys2Proof.Machine.execInvack line from_ s
  | .grant line to_ => Sys2Proof.Machine.execGrant line to_ s
  | .wback line data => Sys2Proof.Machine.execWback line data s
  | .poison line => Sys2Proof.Machine.execPoison line s
  | .chimearr launch module given => Sys2Proof.Machine.execChimearr launch module given s
  | .chimerel launch release => Sys2Proof.Machine.execChimerel launch release s
  | .qrec from_ handle r sv => Sys2Proof.Machine.execQrec from_ handle r sv s
  | .qack a id code => Sys2Proof.Machine.execQack a id code s
  | .myzilTlbinv from_ addr sel => Sys2Proof.Machine.execMyzilTlbinv from_ addr sel s
  | .tlback from_ => Sys2Proof.Machine.execTlback from_ s
  | .notice vector => Sys2Proof.Machine.execNotice vector s
  | .linkUp n => Sys2Proof.Machine.execLinkUp n s
  | .linkDown n => Sys2Proof.Machine.execLinkDown n s
  | .moduleReset made => Sys2Proof.Machine.execModuleReset made s
  | .selfTestComplete fn ok => Sys2Proof.Machine.execSelfTestComplete fn ok s
  | .frameReceive port pa data counter => Sys2Proof.Machine.execFrameReceive port pa data counter s
  | .frameTransmit port pa len => Sys2Proof.Machine.execFrameTransmit port pa len s
  | .hostRead bar off len => Sys2Proof.Machine.execHostRead bar off len s
  | .hostWrite bar off data => Sys2Proof.Machine.execHostWrite bar off data s
  | .doorbell queue index => Sys2Proof.Machine.execDoorbell queue index s
  | .queueDescriptorWrite queue word x => Sys2Proof.Machine.execQueueDescriptorWrite queue word x s
  | .run => Sys2Proof.Machine.execRun s
  | .idle => Sys2Proof.Machine.execIdle s
  | .standby => Sys2Proof.Machine.execStandby s
  | .off => Sys2Proof.Machine.execOff s
  | .clusterGate die cluster gate => Sys2Proof.Machine.execClusterGate die cluster gate s
  | .dieGate die gate => Sys2Proof.Machine.execDieGate die gate s
  | .sliceGate die slice gate => Sys2Proof.Machine.execSliceGate die slice gate s
  | .pcapWrite cap => Sys2Proof.Machine.execPcapWrite cap s
  | .thermalAlarm temp => Sys2Proof.Machine.execThermalAlarm temp s
  | .fallback => Sys2Proof.Machine.execFallback s
  | .alarmClear => Sys2Proof.Machine.execAlarmClear s
  | .modidWrite id => Sys2Proof.Machine.execModidWrite id s
  | .loadImage buf len => Sys2Proof.Machine.execLoadImage buf len s
  | .attestationQuote buf len => Sys2Proof.Machine.execAttestationQuote buf len s
  | .readIdentity buf len => Sys2Proof.Machine.execReadIdentity buf len s
  | .firmwareRequestDone => Sys2Proof.Machine.execFirmwareRequestDone s
  | .registerWrite off x => Sys2Proof.Machine.execRegisterWrite off x s
  | .plotRegistration a tag => Sys2Proof.Machine.execPlotRegistration a tag s

end Sys2Proof.Machine
end

