-- ==== Sys2Proof/Machine/Schedule.lean ====
section
/-! DEFINITION. What may happen next: the steps whose cycle the spec fixes, the steps of the engines that may happen now,
and how a core issues its next chain. The order in which the part's threads and engines take turns is the model's own
(log entry 7). -/

namespace Sys2Proof.Machine

/-! ## Steps whose cycle is fixed -/

/-- A core can take its user-level interrupt now (R45, R247). -/
def Core.interruptible (c : Core) : Bool :=
  !c.flagged.isEmpty && c.csr.uictl.getLsbD 63 && !c.inHandler && c.uiReady && decide (c.tx.depth = 0) && c.loadsBack && match c.run with
    | .running => !c.stalling
    | .blocked _ => true
    | _ => false

/-- What comes of itself on a core before any other step: an abort that a home decided, a value that lands, an
interrupt. DEDUCED: log entry 49. -/
def Core.exactEvent (c : Core) (time : Nat) : Option Instr :=
  if c.tx.doom.isSome && decide (0 < c.tx.depth) then some (.transactionAbort c.who)
  else match c.entries.find? fun e => match e.due with | some t => decide (t ≤ time + 1) | none => false with
  | some e => some (.pendingArrival c.who e.tag)
  | none => if c.interruptible then some (.userLevelInterrupt c.who) else none

/-- The step that a window has reached (R346, R347). DEDUCED: log entry 49. -/
def State.windowEvent (s : State) (l : Launch) (i : Nat) : Option Instr :=
  let due (d : Win → Nat) (p : Win → Bool) : Bool := match s.winDue l.id i d with | some (_, x) => p x | none => false
  if due (fun _ => 0) (fun x => x.header.isNone) then some (.windowStart l.id i)
  else if due (fun x => x.len - 1) (fun x => x.header.isSome && !x.sent) then some (.lastPayloadBeat l.id i)
  else if due (fun x => x.len + s.winH l.id x) (fun x => x.sent && !x.ended) then some (.windowEnd l.id i)
  else none

/-- The step whose cycle has come. DESIGN CHOICE: log entry 7. -/
def State.exactEvent (s : State) : Option Instr :=
  match s.cores.findSome? fun c => c.exactEvent s.time with
  | some i => some i
  | none =>
    match s.launches.findSome? fun l => (List.range l.wins.length).findSome? (s.windowEvent l) with
    | some i => some i
    | none =>
      match s.saves.find? fun v => match v.due with | some d => decide (d ≤ s.time) | none => false with
      | some v => some (.deadlineExpiry v.team)
      | none => match s.ports.holdEnd with
        | some t => if t < s.time then some .fallback else none
        | none => none

/-! ## Steps of the engines -/

/-- The step of an unfinished instruction. -/
def Core.entryEvents (c : Core) (e : Entry) : List Instr :=
  let a := c.who
  if !c.going then []
  else match e.instr with
  | .ldg _ _ _ _ _ _ => if e.ready || (e.ownEvent && !c.behind e.tag) then [.globalLoadReturns a e.tag] else []
  | .amoW _ _ _ _ | .amoD _ _ _ _ | .casW _ _ _ _ | .casD _ _ _ _ =>
    if c.behind e.tag then [] else [.atomicCompletes a e.tag]
  | .flush _ _ _ _ => if c.behind e.tag then [] else [.flushWalkCompletes a e.tag]
  | .rmstat _ => [.rmstatCompletion a e.tag]
  | .rput _ _ _ => [if e.started then .rputAcknowledgement a e.tag else .rputLanding a e.tag]
  | .rget _ _ => [.rgetReply a e.tag]
  | _ => []

/-- The step that a thread waits for. -/
def State.runEvents (s : State) (c : Core) : List Instr :=
  let a := c.who
  match c.run with
  | .blocked b =>
    (match b with
    | .ewait e par => if c.reachedBy e par s.time then [.ewaitWake a] else []
    | .await id => if c.passed id then [.awaitWake a] else []
    | .chime _ => match c.task with
      | some t => [.chimeRelease t.launch]
      | none => []
    | .wlease r => if c.leased r then [] else [.wleaseWake a]
    | .mwait b => if c.leased (.acc b) then [] else [.mwaitWake a]
    | .qpop _ => match s.boundQueue c with
      | some q => if q.recs.isEmpty then [] else [.qpopWake a]
      | none => [])
  | .waking (.ewait _ _) => if c.loadsBack then [.ewaitWake a] else []
  | .waking (.await _) => if c.loadsBack then [.awaitWake a] else []
  | .held i _ =>
    (match i, c.task with
    | .fence _ _ _, _ => [.fenceCompletion a]
    | .stg _ _ _ _ _ _, _ | .sig _, _ => [.releaseCompletion a]
    | .tend, _ => [.commitPoint a]
    | .tlbinv _ _, _ => [.tlbinvCompletion a]
    | .pclr _, _ => [.pclrCompletion a]
    | .carve _, some t => [.carveRenegotiation t.team]
    | .succ _ _ _, some t => if s.standSpans t.team then [] else [.handOver t.team]
    | _, _ => [])
  | .ended => match c.task with
    | some t => (if s.standSpans t.team then [] else [.teamRetirement t.team])
        ++ if t.gang then [.chimeRelease t.launch] else []
    | none => []
  | .idle => match c.task with
    | some t => [.startRelease t.launch]
    | none => []
  | _ => []

/-- The steps of a core's array. -/
def State.arrayEvents (s : State) (c : Core) : List Instr :=
  ((List.finRange 4).flatMap fun st =>
    match c.stream st with
    | [] => []
    | e :: _ =>
      if e.started then
        (if s.awaitsBank c e then [.mredMessage c.who] else [.matrixOperationCompletes c.who st])
      else if (c.streamHead st).isSome then [.matrixOperationStart c.who st]
      else [])
  ++ match c.teamHead, c.task with
    | some _, some t => [.teamRendezvous t.team]
    | _, _ => []

/-- The step of an operation of the channel; `up` tells that a link is up. -/
def chanEvents (up : Bool) (a : Agent) (o : EngOp) : List Instr :=
  if o.done || o.held || o.cancelled then []
  else match o.instr with
  | .copy _ _ | .stage _ | .gath _ _ _ | .umrg _ => [.channelOperationCompletes a o.id]
  | .copyf _ _ _ _ => [if o.moved then .commandPlacement a o.id else .channelOperationCompletes a o.id]
  | .xput _ _ => [if o.moved then .channelOperationCompletes a o.id else .xputDelivery a o.id]
  | _ => if o.moved && up then [] else [.enqueue a o.id]

/-- The steps that a core's units may take. -/
def State.coreEvents (s : State) (c : Core) : List Instr :=
  let a := c.who
  (match s.wanted a with
    | some (va, _) => [.pageTableWalk (dieOf a) c.asid va]
    | none => [])
  ++ s.runEvents c ++ c.entries.flatMap c.entryEvents
  ++ (if c.vqueue.isEmpty || !c.going then [] else [.vectorExecution a])
  ++ s.arrayEvents c ++ c.chan.flatMap (chanEvents (s.ports.linkup != 0) a)
  ++ (if c.merge.isSome then [.mrgCompletion a] else [])
  ++ match a with
    | .tile id => (List.finRange 8).filterMap fun w =>
        if c.walks.any fun x => x.wid == w.val then some (.tileDelivery id w) else none
    | .sup _ => []

/-- The rows of a die whose collectors hold a message. -/
def Die.heldRows (d : Die) : List Nat := (List.range 10).filter fun r => d.rows.any fun m => m.row == r

/-- The steps of a die: its routing engine, and its row collectors, which merge messages where they can (R390). -/
def Die.dieEvents (d : Die) : List Instr :=
  (match d.routes with
    | [] => []
    | x :: _ => match x.op.instr with
      | .rtbl _ => [.tableStaged d.id]
      | _ => [.routeCompletion d.id])
  ++ d.heldRows.map fun r => .messageDelivery d.id r
      (match d.rows.filter fun m => m.row == r with
        | m :: rest => (findMerge m [] rest).isSome
        | [] => false)

/-- The first placement of n more teams whose rectangles are good and whose windows pass. -/
def firstPlace (w h : Nat) (home : Nat) (good : Nat × Nat × Nat → Bool) (pass : List (Nat × Nat × Nat) → Bool) :
    Nat → List (Nat × Nat × Nat) → Option (List (Nat × Nat × Nat))
  | 0, done => if pass done then some done else none
  | n + 1, done => (placesOf home).findSome? fun p =>
      if good p && apart w h p done then firstPlace w h home good pass n (done ++ [p]) else none

/-- A placement at which a stand can be admitted now, or else one that it may reserve (R372). -/
def State.gangPlace (s : State) (l : Launch) : Option (List (Nat × Nat × Nat)) :=
  let r := l.words
  let idxs := s.localTeams r l.nt
  let home := (s.queue l.queue).home
  let wins (ps : List (Nat × Nat × Nat)) : List PlacedWin := placedWins r (l.wins.map Win.entry) idxs ps
  match firstPlace (lrW r) (lrH r) home (fun p => s.rectFree l.id l.prio p.1 p.2.1 p.2.2 (lrW r) (lrH r))
      (fun ps => s.winsFree l.id (wins ps)) idxs.length [] with
  | some ps => some ps
  | none => firstPlace (lrW r) (lrH r) home (fun p => s.rectUsable p.1 p.2.1 p.2.2 (lrW r) (lrH r))
      (fun ps => noClash (wins ps)) idxs.length []

/-- The step of a die's dispatcher, where it has a candidate. -/
def State.dispatchEvents (s : State) (die : Nat) : List Instr :=
  match s.pick die with
  | none => []
  | some (c, _) =>
    let l := c.launch
    match c.team with
    | some n =>
      (match gridPlaces.find? fun p => s.rectFree l.id l.prio die p.1 p.2 (lrW l.words) (lrH l.words) with
      | some p => [.dispatch l.id n die p.1 p.2]
      | none => [])
    | none => match s.gangPlace l with
      | some ps => [.admission l.id ps]
      | none => []

/-- The units that the host has commanded to be gated. -/
def State.gateEvents (s : State) : List Instr :=
  (List.range 8).flatMap fun d =>
    (((List.range 80).filter fun i => s.gateWanted d (i / 64) (i % 64) && !s.gateIs d (i / 64) (i % 64)).map fun i =>
      .unitLeavesCoherence (.cluster d i))
    ++ (((List.range 32).filter fun i => s.gateWanted d 2 i && !s.gateIs d 2 i).map fun i =>
      .unitLeavesCoherence (.slice d i))
    ++ if s.gateWanted d 1 63 && !s.gateIs d 1 63 then [.unitLeavesCoherence (.die d)] else []

/-- The steps of the engines that may happen now; those that other modules have a part in come from the agenda
(log entries 23, 24). DESIGN CHOICE: log entry 7. -/
def State.engineEvents (s : State) : List Instr :=
  s.cores.flatMap s.coreEvents
  ++ (s.arrivals.filter s.arrivalReady).map (fun r => .remoteArrival r.n)
  ++ s.dies.flatMap Die.dieEvents
  ++ ((s.queues.filter fun q => !q.recs.isEmpty && !q.teamBound).map fun q => .launchRecordTaken q.idx)
  ++ ((s.launches.filter fun l => !l.ready && l.met.all id).map fun l => .dependencesMet l.id)
  ++ (if s.launches.isEmpty then [] else (List.range 8).flatMap s.dispatchEvents)
  ++ ((s.launches.filter fun l => s.emptyShare l && !l.chimeSent).map fun l =>
      if l.released.isSome then .chimeRelease l.id else .startRelease l.id)
  ++ (s.saves.filter fun v => !s.standSpans v.team).map (fun v => .cooperativeEviction v.team)
  ++ ((s.saved.filter Saved.asked).map fun v => .restore v.area)
  ++ (if s.ports.gateCmd == s.ports.gateSts then [] else s.gateEvents)
  ++ if s.ports.fwBusy.isSome then [.firmwareRequestDone] else []

/-- The engine step of a turn, by the round-robin of the model. -/
def State.engineEvent (s : State) : Option Instr :=
  match s.engineEvents with
  | [] => none
  | es => es[s.rr % es.length]?

/-! ## Turns of the threads -/

/-- The core can issue a chain. -/
def State.canIssue (s : State) (c : Core) : Bool :=
  decide (c.run = .running) && (c.isSup || c.task.isSome) && !s.dieGated (dieOf c.who)

/-- The thread whose turn is next: of a higher key, else of the lowest. DESIGN CHOICE: log entry 7. -/
def State.nextTurn (s : State) : Agent :=
  let me := s.core.who
  let keys := (s.cores.filter s.canIssue).map fun c => agentKey c.who
  let above := keys.filter fun k => agentKey me < k
  match above with
  | k :: rest => agentOf (rest.foldl min k)
  | [] => match keys with
    | k :: rest => agentOf (rest.foldl min k)
    | [] => me

/-- A cycle passes, and the engines have their turn. DEDUCED: log entry 49. -/
def State.tick (s : State) : State := { s with time := s.time + 1, engTurn := true }

/-- The engines have had their turn; a thread is next. -/
def State.toThread (s : State) : State := ({ s with engTurn := false } : State).focus s.nextTurn

/-- The state in which the chain issues: its cycle, and the address after the chain. -/
def State.issuing (s : State) (next : Word) : State :=
  { s.tick with core := { s.core with nextPc := next } }

end Sys2Proof.Machine
end

