-- ==== Sys2Proof/Machine/Step.lean ====
section
/-! DEFINITION. One step of the module, and where an instruction is placed for the step that fetches next. -/

namespace Sys2Proof.Machine

/-- The focal core fetches and decodes its next chain and issues it; a fault of the fetch or of the decoding is taken
(R45, R51), and a missing translation is walked (R398). DESIGN CHOICE: log entry 7. -/
def threadStep (s : State) : Host.Outcome State Fault Refusal :=
  if !s.canIssue s.core then .next s.tick
  else match s.fetchChain s.core.who with
  | .chain s1 i next => exec i (s1.issuing next)
  | .decode s1 code word next => .next (s1.tick.trapDecode code word next)
  | .fault f => .next (s.tick.trap f)
  | .miss va => exec (.pageTableWalk (dieOf s.core.who) s.core.asid va) s.tick
  | .wait => .next s.tick

/-- The engines' turn: one step of an engine, where one may happen. DESIGN CHOICE: log entry 7. -/
def engineStep (s : State) : Host.Outcome State Fault Refusal :=
  match s.engineEvent with
  | some i => exec i { s.toThread with rr := s.rr + 1 }
  | none => .next s.toThread

/-- One step: the next input of the agenda; else a step whose cycle has come; else the engines' or a thread's turn.
DESIGN CHOICE: log entries 7, 48. -/
def step (s : State) : Host.Outcome State Fault Refusal :=
  match s.agenda with
  | .event i :: rest => exec i { s with agenda := rest }
  | .turn a :: rest => .next (({ s with agenda := rest } : State).focus a)
  | [] =>
    match s.exactEvent with
    | some i => exec i s
    | none => if s.engTurn then engineStep s else threadStep s

/-! ## Placing an instruction (log entry 8) -/

/-- The bytes of an instruction given by number, with operand words of zeros after it. DESIGN CHOICE: log entry 8. -/
def placedBytes (nbits w : Nat) : List Byte :=
  (tableWords nbits w ++ [0, 0, 0, 0, 0]).flatMap fun x => bytesOfNat 2 x

/-- A page that maps an address to itself, readable, writable and executable by tasks. DESIGN CHOICE: log entry 8. -/
def placedPage (asid va : Nat) : Tlb :=
  { asid := asid, va := va / 2 ^ 30 * 2 ^ 30, bits := 30, pa := va / 2 ^ 30 % 512 * 2 ^ 30, u := true, imm := false
    scope := .pkg, x := true, w := true, l := true }

/-- The instruction stands where the focal core fetches next, and that core's turn is next: it runs a task, its page is
translated, its memory is ready, no old copy of the bytes is cached, and no input or other step comes before.
DESIGN CHOICE: log entry 8. -/
def State.withFetchWord (s : State) (nbits w : Nat) : State :=
  let c := s.core
  let pa := match c.who with
    | .tile _ => (placedPage c.asid c.pc.toNat).phys c.pc.toNat
    | .sup _ => c.pc.toNat
  let bs := placedBytes nbits w
  let gone (line : Nat) : Bool := decide (pa / 128 ≤ line) && decide (line ≤ (pa + bs.length) / 128)
  let s1 := { s with
    agenda := [], engTurn := false
    mem := s.mem.writeBytes pa bs
    poison := s.poison.filter fun l => !gone l
    core := { c with run := .running, fetched := [], entries := [], flagged := [], tx := {}, stalling := false
                     task := some (c.task.getD { launch := 0, team := 0, rank := 0, gang := false, ctx := 0, asid := c.asid }) }
    launches := [], saves := []
    ports := { s.ports with ready := BitVec.allOnes 64, failed := 0, psctl := setFld s.ports.psctl 3 2 0, alarmAt := none
                            gateSts := Vector.replicate 24 0 } }
  match c.who with
  | .tile id =>
    let cl := s1.cluster (clusterOf id)
    s1.setCluster { cl with
      tlb := placedPage c.asid c.pc.toNat :: placedPage c.asid (c.pc.toNat + 2 ^ 30) :: cl.tlb
      lines := cl.lines.filter fun l => !gone l.line
      icache := cl.icache.filter fun l => !gone l.line }
  | .sup _ => s1

end Sys2Proof.Machine
end

