-- ==== Sys2Proof/Safety.lean ====
section
/-! DEFINITION. The terms in which claims are stated: what a safe run is, what an instruction needs to be able to go
on, and what a retired chain leaves unchanged. -/

namespace Sys2Proof.Machine

/-! ## Runs -/

/-- The machine goes on with a next state that has a property. -/
def GoesOn (o : Host.Outcome State Fault Refusal) (p : State → Prop) : Prop := ∃ t, o = .next t ∧ p t

/-- Global memory is in canonical form. -/
def State.MemoryOk (s : State) : Prop := s.mem.wf = true

/-- Every local memory, of a core of the module or of a saved context, is in canonical form. -/
def State.ScratchOk (s : State) : Prop :=
  (∀ c ∈ s.cores, c.scratch.wf = true) ∧ ∀ v ∈ s.saved, ∀ c ∈ v.cores, c.scratch.wf = true

/-- No transaction, of a core of the module or of a saved context, is nested more than seven deep (R282). -/
def State.DepthOk (s : State) : Prop :=
  (∀ c ∈ s.cores, c.tx.depth ≤ 7) ∧ ∀ v ∈ s.saved, ∀ c ∈ v.cores, c.tx.depth ≤ 7

/-- The keys of the other cores strictly rise, and none is the focal core's: every agent has one home. -/
def State.HomesOk (s : State) : Prop :=
  (s.others.map fun c => agentKey c.who).Pairwise (· < ·) ∧ ∀ c ∈ s.others, c.who ≠ s.core.who

/-! ## What an instruction needs -/

/-- Every operand has its value and no register that the chain names is leased (R84, R91). -/
def Core.CanRead (c : Core) (xs : List Src) (names : List LeaseReg) : Prop :=
  (∀ x ∈ xs, c.pending x = false) ∧ ∀ r ∈ names, c.leased r = false

/-- The focal core runs a task on a tile, outside a handler and outside a transaction. -/
def Core.Plain (c : Core) : Prop := c.isSup = false ∧ c.inHandler = false ∧ c.tx.depth = 0

/-! ## What a chain leaves unchanged -/

/-- Nothing but the focal core has changed: every byte of global memory, every other core, every cluster, die, queue,
launch and port register is as it was. -/
def OnlyCore (s t : State) : Prop := ({ t with core := s.core } : State) = s

/-- A core but for its trains, its program counter and the marks of the chain that issues. -/
def Core.besidesTrain (c : Core) : Core :=
  { c with
    regs := { c.regs with train := Vector.replicate 16 {}, shadow := Vector.replicate 16 {} }
    pc := 0, stalling := false, stallCounted := false, stageId := none, uiReady := true }

/-- The chain has retired: the program counter stands after it, and nothing else of the core has changed but its
trains (R43). -/
def Core.RetiredFrom (c d : Core) : Prop := d.pc = c.nextPc ∧ d.besidesTrain = c.besidesTrain

/-- The train that results do not go to is as it was (R85). -/
def Core.OtherTrainKept (c d : Core) : Prop :=
  if c.inHandler then d.regs.train = c.regs.train else d.regs.shadow = c.regs.shadow

/-- A position was inserted at t0 and every other one moved one older (R82). -/
def Core.Inserted (c d : Core) (p : Pos) : Prop :=
  d.train.get 0 = p ∧ (∀ i : Fin 15, d.train.get i.succ = c.train.get i.castSucc) ∧ c.OtherTrainKept d

/-- Both trains are as they were. -/
def Core.TrainsKept (c d : Core) : Prop := d.regs.train = c.regs.train ∧ d.regs.shadow = c.regs.shadow

end Sys2Proof.Machine
end

