-- ==== Sys2Proof/Certificates/Slice0/Obligations.lean ====
section
/-! DEFINITION. The statements for the provers. Each says what a rule of the spec, or the model as a whole, does; the
rules' own vocabulary stands before the statements that use it. -/

open Sys2Proof Sys2Proof.Machine

/-! ## Scalar instructions -/

namespace Sys2Proof.Machine

/-- The operands and the result that R119 to R134 give each scalar instruction with a result. -/
inductive ScalarRule (c : Core) (time : Nat) : Instr → List Src → (Word → Prop) → Prop where
  | pick (x : Src) : ScalarRule c time (.pick x) [x]
      (fun r => r = c.value x)
  | add (x y : Src) : ScalarRule c time (.add x y) [x, y]
      (fun r => r = BitVec.ofInt 64 ((c.value x).toInt + (c.value y).toInt))
  | sub (x y : Src) : ScalarRule c time (.sub x y) [x, y]
      (fun r => r = BitVec.ofInt 64 ((c.value x).toInt - (c.value y).toInt))
  | mul (x y : Src) : ScalarRule c time (.mul x y) [x, y]
      (fun r => r = BitVec.ofInt 64 ((c.value x).toInt * (c.value y).toInt))
  | addi (x : Src) (imm : Int) : ScalarRule c time (.addi x imm) [x]
      (fun r => r = BitVec.ofInt 64 ((c.value x).toInt + imm))
  | and (x y : Src) : ScalarRule c time (.and x y) [x, y]
      (fun r => ∀ i < 64, r.getLsbD i = ((c.value x).getLsbD i && (c.value y).getLsbD i))
  | or (x y : Src) : ScalarRule c time (.or x y) [x, y]
      (fun r => ∀ i < 64, r.getLsbD i = ((c.value x).getLsbD i || (c.value y).getLsbD i))
  | xor (x y : Src) : ScalarRule c time (.xor x y) [x, y]
      (fun r => ∀ i < 64, r.getLsbD i = ((c.value x).getLsbD i ^^ (c.value y).getLsbD i))
  | andi (x : Src) (imm : Nat) : ScalarRule c time (.andi x imm) [x]
      (fun r => r = c.value x &&& BitVec.ofNat 64 imm)
  | shl (x y : Src) : ScalarRule c time (.shl x y) [x, y]
      (fun r => r = BitVec.ofNat 64 ((c.value x).toNat * 2 ^ ((c.value y).toNat % 64)))
  | shr (x y : Src) : ScalarRule c time (.shr x y) [x, y]
      (fun r => r = BitVec.ofNat 64 ((c.value x).toNat / 2 ^ ((c.value y).toNat % 64)))
  | sra (x y : Src) : ScalarRule c time (.sra x y) [x, y]
      (fun r => r = BitVec.ofInt 64 ((c.value x).toInt / (2 ^ ((c.value y).toNat % 64) : Int)))
  | shli (x : Src) (n : Nat) : ScalarRule c time (.shli x n) [x]
      (fun r => r = BitVec.ofNat 64 ((c.value x).toNat * 2 ^ n))
  | shri (x : Src) (n : Nat) : ScalarRule c time (.shri x n) [x]
      (fun r => r = BitVec.ofNat 64 ((c.value x).toNat / 2 ^ n))
  | srai (x : Src) (n : Nat) : ScalarRule c time (.srai x n) [x]
      (fun r => r = BitVec.ofInt 64 ((c.value x).toInt / (2 ^ n : Int)))
  | ceq (x y : Src) : ScalarRule c time (.ceq x y) [x, y]
      (fun r => r = if c.value x = c.value y then 1 else 0)
  | clt (x y : Src) : ScalarRule c time (.clt x y) [x, y]
      (fun r => r = if (c.value x).toInt < (c.value y).toInt then 1 else 0)
  | cltu (x y : Src) : ScalarRule c time (.cltu x y) [x, y]
      (fun r => r = if (c.value x).toNat < (c.value y).toNat then 1 else 0)
  | clti (x : Src) (imm : Int) : ScalarRule c time (.clti x imm) [x]
      (fun r => r = if (c.value x).toInt < imm then 1 else 0)
  | min (x y : Src) : ScalarRule c time (.min x y) [x, y]
      (fun r => r.toInt = min (c.value x).toInt (c.value y).toInt)
  | max (x y : Src) : ScalarRule c time (.max x y) [x, y]
      (fun r => r.toInt = max (c.value x).toInt (c.value y).toInt)
  | minu (x y : Src) : ScalarRule c time (.minu x y) [x, y]
      (fun r => r.toNat = min (c.value x).toNat (c.value y).toNat)
  | maxu (x y : Src) : ScalarRule c time (.maxu x y) [x, y]
      (fun r => r.toNat = max (c.value x).toNat (c.value y).toNat)
  | popc (x : Src) : ScalarRule c time (.popc x) [x]
      (fun r => r.toNat = ((List.range 64).filter fun i => (c.value x).getLsbD i).length)
  | clz (x : Src) : ScalarRule c time (.clz x) [x]
      (fun r => r.toNat = ((List.range 64).takeWhile fun i => !(c.value x).getLsbD (63 - i)).length)
  | ctz (x : Src) : ScalarRule c time (.ctz x) [x]
      (fun r => r.toNat = ((List.range 64).takeWhile fun i => !(c.value x).getLsbD i).length)
  | li (imm : Int) : ScalarRule c time (.li imm) []
      (fun r => r = BitVec.ofInt 64 imm)
  | ldc (n : Fin 256) : ScalarRule c time (.ldc n) []
      (fun r => r = c.scratch.word (8 * n.val))
  | sel (x y z : Src) : ScalarRule c time (.sel x y z) [x, y, z]
      (fun r => r = if c.value z = 0 then c.value y else c.value x)
  | bmux (x y z : Src) (lo hi : Fin 16) : ScalarRule c time (.bmux x y z lo hi) [x, y, z]
      (fun r => ∀ i < 64, r.getLsbD i =
      (if (c.value z).getLsbD i then hi.val else lo.val).testBit
        (2 * ((c.value x).getLsbD i).toNat + ((c.value y).getLsbD i).toNat))
  | fshl (x y n : Src) : ScalarRule c time (.fshl x y n) [x, y, n]
      (fun r => r = BitVec.ofNat 64
      (((c.value x).toNat * 2 ^ 64 + (c.value y).toNat) * 2 ^ ((c.value n).toNat % 64) / 2 ^ 64))
  | fshr (x y n : Src) : ScalarRule c time (.fshr x y n) [x, y, n]
      (fun r => r = BitVec.ofNat 64
      (((c.value x).toNat * 2 ^ 64 + (c.value y).toNat) / 2 ^ ((c.value n).toNat % 64)))
  | rotl (x n : Src) : ScalarRule c time (.rotl x n) [x, n]
      (fun r => r = BitVec.ofNat 64
      (((c.value x).toNat * 2 ^ 64 + (c.value x).toNat) * 2 ^ ((c.value n).toNat % 64) / 2 ^ 64))
  | bswap (x : Src) : ScalarRule c time (.bswap x) [x]
      (fun r => ∀ j < 8, ∀ b < 8, r.getLsbD (8 * j + b) = (c.value x).getLsbD (56 - 8 * j + b))
  | mulh (x y : Src) : ScalarRule c time (.mulh x y) [x, y]
      (fun r => r = BitVec.ofInt 64 ((c.value x).toInt * (c.value y).toInt / 2 ^ 64))
  | mulhu (x y : Src) : ScalarRule c time (.mulhu x y) [x, y]
      (fun r => r = BitVec.ofNat 64 ((c.value x).toNat * (c.value y).toNat / 2 ^ 64))
  | madd (x y z : Src) : ScalarRule c time (.madd x y z) [x, y, z]
      (fun r =>
      r = BitVec.ofInt 64 ((c.value x).toInt * (c.value y).toInt + (c.value z).toInt))
  | div (x y : Src) : ScalarRule c time (.div x y) [x, y]
      (fun r => r = if c.value y = 0 then -1
      else if (c.value x).toInt = -2 ^ 63 ∧ (c.value y).toInt = -1 then BitVec.ofInt 64 (-2 ^ 63)
      else BitVec.ofInt 64 ((c.value x).toInt.tdiv (c.value y).toInt))
  | divu (x y : Src) : ScalarRule c time (.divu x y) [x, y]
      (fun r => r.toNat = if c.value y = 0 then 2 ^ 64 - 1
      else (c.value x).toNat / (c.value y).toNat)
  | rem (x y : Src) : ScalarRule c time (.rem x y) [x, y]
      (fun r => r = if c.value y = 0 then c.value x
      else if (c.value x).toInt = -2 ^ 63 ∧ (c.value y).toInt = -1 then 0
      else BitVec.ofInt 64
        ((c.value x).toInt - (c.value y).toInt * (c.value x).toInt.tdiv (c.value y).toInt))
  | remu (x y : Src) : ScalarRule c time (.remu x y) [x, y]
      (fun r => r.toNat = if c.value y = 0 then (c.value x).toNat
      else (c.value x).toNat % (c.value y).toNat)
  | lea (x y : Src) (sh : Fin 64) : ScalarRule c time (.lea x y sh) [x, y]
      (fun r => r = BitVec.ofNat 64 ((c.value x).toNat + (c.value y).toNat * 2 ^ sh.val))
  | bext (x pos len : Src) : ScalarRule c time (.bext x pos len) [x, pos, len]
      (fun r => r.toNat =
      (c.value x).toNat / 2 ^ ((c.value pos).toNat % 64) % 2 ^ min ((c.value len).toNat % 128) 64)
  | bdep (x v : Src) (pos : Fin 64) (len : Nat) : ScalarRule c time (.bdep x v pos len) [x, v]
      (fun r => ∀ i < 64, r.getLsbD i =
      if pos.val ≤ i ∧ i < pos.val + len then (c.value v).getLsbD (i - pos.val) else (c.value x).getLsbD i)
  | sext (x : Src) (n : Nat) : ScalarRule c time (.sext x n) [x]
      (fun r => r.toInt = ((c.value x).toInt).bmod (2 ^ n))
  | zext (x : Src) (n : Nat) : ScalarRule c time (.zext x n) [x]
      (fun r => r.toNat = (c.value x).toNat % 2 ^ n)
  | clamp (x lo hi : Src) : ScalarRule c time (.clamp x lo hi) [x, lo, hi]
      (fun r =>
      r.toInt = min (max (c.value x).toInt (c.value lo).toInt) (c.value hi).toInt)
  | rdsv (i : Fin 32) : ScalarRule c time (.rdsv i) []
      (fun r => r = c.regs.sv.get i)
  | rdtime : ScalarRule c time (.rdtime) []
      (fun r => r = BitVec.ofNat 64 time)

/-- The effective address of a local access of n bytes, and the checks that it passes (R136). -/
def LocalOk (c : Core) (addr : Word) (off : Int) (n : Nat) (store : Bool) (o : Nat) : Prop :=
  0 ≤ addr.toInt + off ∧ addr.toInt + off < 2 ^ 24 ∧ (addr.toInt + off).toNat % n = 0 ∧
  o = (addr.toInt + off).toNat % 2 ^ 21 ∧ o + n ≤ c.top ∧ (store = true → c.constOff o = false) ∧
  c.rangeLocked false o n store = false

/-- The extension of the loaded bytes to 64 bits (R135). -/
def extension (w : Width) (v : Nat) : Word :=
  match w with
  | .b | .h | .w => BitVec.ofInt 64 ((v : Int).bmod (2 ^ (8 * widthBytes w)))
  | .bu | .hu | .wu | .d => BitVec.ofNat 64 v

/-- The local stores, with the bytes that each stores (R135). -/
inductive StoreForm : Instr → Src → Src → Int → Nat → Prop where
  | lstB (a v : Src) (o : Int) : StoreForm (.lstB a v o) a v o 1
  | lstH (a v : Src) (o : Int) : StoreForm (.lstH a v o) a v o 2
  | lstW (a v : Src) (o : Int) : StoreForm (.lstW a v o) a v o 4
  | lstD (a v : Src) (o : Int) : StoreForm (.lstD a v o) a v o 8

end Sys2Proof.Machine

/-- Every scalar instruction with a result pushes the result that its rule gives at t0, for every operand form, and
changes nothing else; none of them traps (R116, R119 to R134). -/
def Obligations.ScalarInstructionsPushTheirResult : Prop :=
  ∀ (i : Instr) (s : State) (xs : List Src) (p : Word → Prop), ScalarRule s.core s.time i xs p →
    i.wf = true → s.core.CanRead xs (namesOf xs) →
    GoesOn (exec i s) fun t => OnlyCore s t ∧ s.core.RetiredFrom t.core ∧
      ∃ r, p r ∧ s.core.Inserted t.core { value := r }

/-- A local load that passes the checks of R136 reads its bytes in its issue cycle and makes t0 pending; the value
lands 4 ck later (R137). Nothing is stored. A local store that passes the checks of R136 stores the low bytes of its
value at once, little endian, at the effective address less its window bits, and every other byte of local memory
reads as before (R137). -/
def Obligations.LocalAccessesMoveTheirBytes : Prop :=
  (∀ (s : State) (w : Width) (x : Src) (off : Int) (o : Nat), s.core.CanRead [x] (namesOf [x]) →
     LocalOk s.core (s.core.value x) off (widthBytes w) false o → s.core.vectorHolds o (widthBytes w) = false →
     s.core.entryRoom = true →
     GoesOn (exec (.lld w x off) s) fun t =>
       s.core.Inserted t.core { value := 0, tag := some s.serial } ∧ t.core.pc = s.core.nextPc ∧
       (∃ e ∈ t.core.entries, e.tag = s.serial ∧ e.ready = true ∧ e.due = some (s.time + 4) ∧
         e.result = extension w (s.core.scratch.readNat o (widthBytes w))) ∧
       t.core.scratch = s.core.scratch ∧ t.mem = s.mem ∧ t.others = s.others ∧
       t.core.regs.k = s.core.regs.k ∧ t.core.regs.m = s.core.regs.m ∧ t.core.regs.v = s.core.regs.v ∧
       t.core.csr = s.core.csr) ∧
  (∀ (i : Instr) (s : State) (a v : Src) (off : Int) (n o : Nat), StoreForm i a v off n →
     s.core.CanRead [a, v] (namesOf [a, v]) → LocalOk s.core (s.core.value a) off n true o →
     s.core.vectorHolds o n = false → s.core.scratch.wf = true →
     GoesOn (exec i s) fun t => OnlyCore s t ∧ t.core.pc = s.core.nextPc ∧ s.core.TrainsKept t.core ∧
       t.core.regs = s.core.regs ∧ t.core.csr = s.core.csr ∧
       (∀ j < n, t.core.scratch.read (o + j) = BitVec.ofNat 8 ((s.core.value v).toNat / 256 ^ j)) ∧
       ∀ b, b < o ∨ o + n ≤ b → t.core.scratch.read b = s.core.scratch.read b)

/-- The fault of a local access of n bytes, by the order of the checks of R136. -/
def Sys2Proof.Machine.localFault (c : Core) (addr : Word) (off : Int) (n : Nat) (store : Bool) : Option Code :=
  let ea := addr.toInt + off
  let o := ea.toNat % 2 ^ 21
  if ea < 0 ∨ 2 ^ 24 ≤ ea then some .carve
  else if ea.toNat % n ≠ 0 then some .align
  else if c.scr * 0x4000 < o + n then some .carve
  else if store = true ∧ c.isSup = false ∧ o < 0x800 then some .carve
  else if c.rangeLocked false o n store = true then some .rangelock
  else none

/-- A local access that fails a check of R136 takes the exception of the first check it fails, with the effective
address as its detail, and so has no other effect than that exception. -/
def Obligations.LocalAccessFaultsInTheOrderOfItsChecks : Prop :=
  (∀ (s : State) (w : Width) (x : Src) (off : Int) (code : Code), s.core.CanRead [x] (namesOf [x]) →
    localFault s.core (s.core.value x) off (widthBytes w) false = some code →
    exec (.lld w x off) s = .next (s.trap { code := code, detail := BitVec.ofInt 64 ((s.core.value x).toInt + off) })) ∧
  ∀ (i : Instr) (s : State) (a v : Src) (off : Int) (n : Nat) (code : Code), StoreForm i a v off n →
    s.core.CanRead [a, v] (namesOf [a, v]) → localFault s.core (s.core.value a) off n true = some code →
    exec i s = .next (s.trap { code := code, detail := BitVec.ofInt 64 ((s.core.value a).toInt + off) })

/-! ## Control -/

namespace Sys2Proof.Machine

/-- The operands of a branch, the registers it names, the register that it writes with its new value, and the address
it goes to: an offset of halfwords counts from the word after the chain (R43, R105). -/
inductive BranchRule (c : Core) : Instr → List Src → List LeaseReg → Option (Fin 16 × Word) → Word → Prop where
  | br (o : Int) : BranchRule c (.br o) [] [] none (c.nextPc + BitVec.ofInt 64 (2 * o))
  | bz (x : Src) (o : Int) : BranchRule c (.bz x o) [x] (namesOf [x]) none
      (if c.value x = 0 then c.nextPc + BitVec.ofInt 64 (2 * o) else c.nextPc)
  | bnz (x : Src) (o : Int) : BranchRule c (.bnz x o) [x] (namesOf [x]) none
      (if c.value x = 0 then c.nextPc else c.nextPc + BitVec.ofInt 64 (2 * o))
  | call (o : Int) : BranchRule c (.call o) [] [.scalar (.k 15)] (some (15, c.nextPc))
      (c.nextPc + BitVec.ofInt 64 (2 * o))
  | dbnz (k : Fin 16) (o : Int) : BranchRule c (.dbnz k o) [] [.scalar (.k k)] (some (k, c.value (.k k) - 1))
      (if c.value (.k k) - 1 = 0 then c.nextPc else c.nextPc + BitVec.ofInt 64 (2 * o))
  | jr (x : Src) (h : (c.value x).getLsbD 0 = false) : BranchRule c (.jr x) [x] (namesOf [x]) none (c.value x)

end Sys2Proof.Machine

/-- A branch goes to its target, an offset counting halfwords from the word after the chain; `call` writes k15 and
`dbnz` its register, and no branch writes any other register, a train, or memory. `jr` to an odd address takes ALIGN
at the `jr`, and the program counter does not change (R43, R105). That a relative target at or above 2^52 is kept with
all its bits is the model's choice (log entry 66). -/
def Obligations.BranchesGoToTheirTarget : Prop :=
  (∀ (i : Instr) (s : State) xs names w target, BranchRule s.core i xs names w target →
     s.core.CanRead xs names → GoesOn (exec i s) fun t =>
       OnlyCore s t ∧ t.core.pc = target ∧ s.core.TrainsKept t.core ∧
       (∀ k : Fin 16, t.core.value (.k k) =
         match w with | some (d, v) => if k = d then v else s.core.value (.k k) | none => s.core.value (.k k)) ∧
       t.core.regs.m = s.core.regs.m ∧ t.core.regs.v = s.core.regs.v ∧ t.core.regs.f = s.core.regs.f ∧
       t.core.regs.acc = s.core.regs.acc ∧ t.core.regs.sv = s.core.regs.sv ∧ t.core.csr = s.core.csr ∧
       t.core.scratch = s.core.scratch) ∧
  (∀ (s : State) (x : Src), s.core.CanRead [x] (namesOf [x]) → (s.core.value x).getLsbD 0 = true →
     exec (.jr x) s = .next (s.trap { code := .align }) ∧
       (s.core.tx.depth = 0 → s.core.run ≠ .parked →
         ((s.trap { code := .align }).getCore s.core.who).pc = s.core.pc))

/-! ## Escapements -/

namespace Sys2Proof.Machine

/-- A reference to an escapement of the core itself (R100). -/
def OwnRef (x : Word) (e : Nat) : Prop :=
  fld x 59 36 = 0 ∧ fld x 20 0 % 16 = 0 ∧ 0x800 ≤ fld x 20 0 ∧ fld x 20 0 ≤ 0x47FF ∧ e = (fld x 20 0 - 0x800) / 16

/-- One arrival (R101): true where it finds ARR = 0 and is dropped. -/
def arrivalOnce (x : Esc) : Esc × Bool :=
  if x.arr = 0 then (x, true)
  else if x.arr = 1 ∧ x.byt = 0 then ({ x with ph := (x.ph + 1) % 16, arr := x.rld, byt := 0 }, false)
  else ({ x with arr := x.arr - 1 }, false)

/-- n arrivals, one after another, and whether one of them was dropped. -/
def arrivals : Nat → Esc → Esc × Bool
  | 0, x => (x, false)
  | n + 1, x =>
    let (y, over1) := arrivalOnce x
    let (z, over2) := arrivals n y
    (z, over1 || over2)

/-- A byte update (R101). -/
def byteUpdate (x : Esc) (d : Int) : Esc :=
  let b := (x.byt + d).bmod (2 ^ 32)
  if x.arr = 0 ∧ b = 0 then { x with ph := (x.ph + 1) % 16, arr := x.rld, byt := 0 } else { x with byt := b }

/-- No update of an escapement has come in this cycle yet (R101). -/
def Core.FirstOfCycle (c : Core) (e time : Nat) : Prop := ∀ g ∈ c.gathers, g.e = e → g.time ≠ time

/-- The escapement instructions: their operands, their reference, and whether they take only their own core's
escapements (R100, R106, R107). -/
inductive EscForm : Instr → List Src → Src → Bool → Prop where
  | einit (x n : Src) : EscForm (.einit x n) [x, n] x true
  | eexp (x d : Src) : EscForm (.eexp x d) [x, d] x true
  | etest (x : Src) : EscForm (.etest x) [x] x true
  | ewait (x : Src) : EscForm (.ewait x) [x] x true
  | earr (x : Src) : EscForm (.earr x) [x] x false
  | earrn (x n : Src) : EscForm (.earrn x n) [x, n] x false

/-- The fault of a reference, by the order of the checks of R100. -/
def refFault (s : State) (x : Word) (ownOnly : Bool) : Option Code :=
  if fld x 59 37 ≠ 0 ∨ (x.getLsbD 36 = true ∧ ownOnly = true) then some .format
  else if fld x 3 0 ≠ 0 then some .align
  else if fld x 20 0 < 0x800 ∨ 0x47FF < fld x 20 0 then some .carve
  else if x.getLsbD 36 = true ∧ s.isPartner s.core (fld x 35 24) = false then some .remote
  else none

/-- The value operand of an escapement instruction lies outside its range (R106). -/
def escValueBad (c : Core) : Instr → Prop
  | .einit _ n | .earrn _ n => 2 ^ 32 ≤ (c.value n).toNat
  | .eexp _ d => (c.value d).toInt < -(2 ^ 31) ∨ 2 ^ 31 ≤ (c.value d).toInt
  | _ => False

/-- Every escapement but one is as it was, and so is every byte of local memory outside it. -/
def OtherEscapementsKept (c d : Core) (e : Nat) : Prop :=
  ∀ b, b < 0x800 + 16 * e ∨ 0x800 + 16 * e + 16 ≤ b → d.scratch.read b = c.scratch.read b

end Sys2Proof.Machine

/-- `einit` and `eexp` on an escapement of the core itself, for values in range and with no queued vector access that
holds its bytes back (R206): the new fields, and no other byte of local memory, no register and no train position
changed. The byte update is the first that its cycle brings (R101, R106). An escapement instruction whose reference
fails a check of R100 takes the exception of the first it fails, one whose value is out of its range takes FORMAT, and
so does one, but for `einit`, on an own escapement with bits that R99 forbids. That the reference is checked before
the value is the model's choice (log entry 73). -/
def Obligations.EscapementWritesKeepEveryOtherByte : Prop :=
  (∀ (s : State) (x n : Src) (e : Nat), s.core.CanRead [x, n] (namesOf [x, n]) → OwnRef (s.core.value x) e →
    (s.core.value n).toNat < 2 ^ 32 → s.core.vectorHolds (0x800 + 16 * e) 16 = false → s.core.scratch.wf = true →
    GoesOn (exec (.einit x n) s) fun t => OnlyCore s t ∧ t.core.pc = s.core.nextPc ∧ t.core.regs = s.core.regs ∧
      t.core.csr = s.core.csr ∧ OtherEscapementsKept s.core t.core e ∧
      t.core.esc e = { arr := (s.core.value n).toNat, rld := (s.core.value n).toNat, byt := 0, ph := 0, odd := false }) ∧
  (∀ (s : State) (i : Instr) xs x own, EscForm i xs x own → s.core.CanRead xs (namesOf xs) →
    (i = .ewait x → s.core.inHandler = false ∧ s.core.tx.depth = 0) →
    (∀ code, refFault s (s.core.value x) own = some code → exec i s = .next (s.trap { code := code })) ∧
    (refFault s (s.core.value x) own = none → escValueBad s.core i → exec i s = .next (s.trap { code := .format })) ∧
    ∀ e, OwnRef (s.core.value x) e → ¬ escValueBad s.core i → (s.core.esc e).odd = true →
      s.core.vectorHolds (0x800 + 16 * e) 16 = false → (∀ n, i ≠ .einit x n) →
      exec i s = .next (s.trap { code := .format })) ∧
  ∀ (s : State) (x d : Src) (e : Nat), s.core.CanRead [x, d] (namesOf [x, d]) → OwnRef (s.core.value x) e →
    (s.core.esc e).odd = false → -(2 ^ 31) ≤ (s.core.value d).toInt → (s.core.value d).toInt < 2 ^ 31 →
    s.core.vectorHolds (0x800 + 16 * e) 16 = false → s.core.FirstOfCycle e s.time → s.core.scratch.wf = true →
    GoesOn (exec (.eexp x d) s) fun t => OnlyCore s t ∧ t.core.pc = s.core.nextPc ∧ t.core.regs = s.core.regs ∧
      t.core.csr = s.core.csr ∧ OtherEscapementsKept s.core t.core e ∧
      t.core.esc e = byteUpdate (s.core.esc e) (s.core.value d).toInt

namespace Sys2Proof.Machine

/-- A reference to an escapement of a core of the issuer's team or stand, which R100 lets it name. -/
def RemoteRef (s : State) (x : Word) (id e : Nat) : Prop :=
  fld x 59 37 = 0 ∧ x.getLsbD 36 = true ∧ fld x 35 24 = id ∧ fld x 20 0 % 16 = 0 ∧ 0x800 ≤ fld x 20 0 ∧
    fld x 20 0 ≤ 0x47FF ∧ e = (fld x 20 0 - 0x800) / 16 ∧ s.isPartner s.core id = true

/-- `earr` and `earrn` with their number of arrivals (R106). -/
inductive ArrivalForm (c : Core) : Instr → List Src → Src → Nat → Prop where
  | earr (x : Src) : ArrivalForm c (.earr x) [x] x 1
  | earrn (x y : Src) (h : (c.value y).toNat < 2 ^ 32) : ArrivalForm c (.earrn x y) [x, y] x (c.value y).toNat

end Sys2Proof.Machine

/-- `earr` and `earrn` on an escapement of the core itself, once the core's earlier stores are performed, the first
update of their cycle: the arrivals land at once, and a dropped one sets ESTAT (R101, R102, R106). A run of n arrivals
taken at once, as `earrn` takes it, is n single arrivals of R101 one after another: the same fields, and an
over-arrival exactly where one of them was dropped. On another core's escapement they send their arrivals on their way,
with the scope of R103, and nothing of either core's local memory, registers or control registers changes yet;
`earrn` with n = 0 does nothing. `etest` makes t0 pending, and lands 4 ck later with PH, ARR and BYT of its own
escapement (R106). -/
def Obligations.ArrivalsLandOnTheOwnEscapement : Prop :=
  (∀ (s : State) (i : Instr) (xs : List Src) (x : Src) (n : Nat) (e : Nat),
     ArrivalForm s.core i xs x n → 0 < n →
     s.core.CanRead xs (namesOf xs) →
     (OwnRef (s.core.value x) e ∨ ∃ id, s.core.who = .tile id ∧ RemoteRef s (s.core.value x) id e) →
     (s.core.esc e).odd = false → s.core.accessesDone false = true → s.core.localsDone = true →
     s.core.rputUnlanded s.serial = false → s.core.FirstOfCycle e s.time → s.core.scratch.wf = true →
     GoesOn (exec i s) fun t => t.core.pc = s.core.nextPc ∧ t.core.regs = s.core.regs ∧
       OtherEscapementsKept s.core t.core e ∧ t.core.esc e = ((s.core.esc e).arriveN n).1 ∧
       t.core.csr = if ((s.core.esc e).arriveN n).2 then
         { s.core.csr with estat := BitVec.ofNat 64 (2 ^ 16 + e) } else s.core.csr) ∧
  (∀ (s : State) (i : Instr) (xs : List Src) (x : Src) (n me id e : Nat), ArrivalForm s.core i xs x n → 0 < n →
     s.core.CanRead xs (namesOf xs) → RemoteRef s (s.core.value x) id e → s.core.who = .tile me → id ≠ me →
     s.core.accessesDone false = true → s.core.localsDone = true →
     GoesOn (exec i s) fun t => t.core.pc = s.core.nextPc ∧ t.core.regs = s.core.regs ∧
       t.core.scratch = s.core.scratch ∧ t.core.csr = s.core.csr ∧
       (t.getCore (.tile id)).scratch = (s.getCore (.tile id)).scratch ∧
       ∃ r, t.arrivals = s.arrivals ++ [r] ∧ r.from_ = agentKey (.tile me) ∧ r.core = agentKey (.tile id) ∧
         r.off = e ∧ r.count = n ∧ r.scope = (if clusterOf me = clusterOf id then .cl
           else if dieOf (.tile me) = dieOf (.tile id) then .die else .pkg)) ∧
  (∀ (s : State) (x y : Src), s.core.CanRead [x, y] (namesOf [x, y]) → refFault s (s.core.value x) false = none →
     s.core.value y = 0 → (∀ e < 1024, (s.core.esc e).odd = false ∧ s.core.vectorHolds (0x800 + 16 * e) 16 = false) →
     GoesOn (exec (.earrn x y) s) fun t => OnlyCore s t ∧ s.core.RetiredFrom t.core ∧ s.core.TrainsKept t.core) ∧
  (∀ (x : Esc) (n : Nat), x.ph < 16 → x.arriveN n = arrivals n x) ∧
  (∀ (s : State) (x : Src) (e : Nat), s.core.CanRead [x] (namesOf [x]) → OwnRef (s.core.value x) e →
     (s.core.esc e).odd = false → s.core.entryRoom = true →
     GoesOn (exec (.etest x) s) fun t => s.core.Inserted t.core { value := 0, tag := some s.serial } ∧
       t.core.pc = s.core.nextPc ∧ t.core.scratch = s.core.scratch ∧ t.core.csr = s.core.csr ∧ t.mem = s.mem ∧
       ∃ y ∈ t.core.entries, y.tag = s.serial ∧ y.ready = true ∧ y.due = some (s.time + 4) ∧
         fld y.result 63 60 = (s.core.esc e).ph ∧ fld y.result 59 32 = min (s.core.esc e).arr (2 ^ 28 - 1) ∧
         fld y.result 31 0 = ((s.core.esc e).byt % (2 ^ 32 : Int)).toNat)

/-! ## Blocking points, `end` and software traps -/

/-- A blocking instruction whose condition holds completes at once; one whose condition does not hold blocks without
retiring, and changes nothing else: `ewait` (R107), `await` (R108), `wlease` (R109) and `mwait` (R272). `ewait` and
`await` acquire: with their condition met and an earlier load still out they wait for it without blocking (R155). -/
def Obligations.BlockingInstructionsCompleteOrBlock : Prop :=
  ∀ s : State, s.core.inHandler = false → s.core.tx.depth = 0 →
    (∀ (x : Src) (e : Nat), s.core.CanRead [x] (namesOf [x]) → OwnRef (s.core.value x) e →
      (s.core.esc e).odd = false → s.core.FirstOfCycle e s.time →
      if ((s.core.esc e).ph + 16 - fld (s.core.value x) 63 60) % 16 ≤ 7 then
        if s.core.loadsBack = true then
          GoesOn (exec (.ewait x) s) fun t => t.core.pc = s.core.nextPc ∧ t.core.run = s.core.run ∧
            t.core.regs = s.core.regs ∧ t.core.scratch = s.core.scratch
        else exec (.ewait x) s =
          .next { s with core := { s.core with run := .waking (.ewait e (fld (s.core.value x) 63 60)) } }
      else exec (.ewait x) s =
        .next { s with core := { s.core with run := .blocked (.ewait e (fld (s.core.value x) 63 60)) } }) ∧
    (∀ (x : Src) (id : Word32), s.core.CanRead [x] (namesOf [x]) → id = (s.core.value x).setWidth 32 →
      let passed := 1 ≤ (s.core.csr.xdone - id).toNat ∧ (s.core.csr.xdone - id).toNat < 2 ^ 31
      if 2 ^ 31 ≤ (s.core.csr.xnext - 1 - id).toNat ∨ passed ∧ s.core.loadsBack = true then
        GoesOn (exec (.await x) s) fun t => t.core.pc = s.core.nextPc ∧ t.core.run = s.core.run ∧
          t.core.regs = s.core.regs ∧ t.core.scratch = s.core.scratch
      else if passed then exec (.await x) s = .next { s with core := { s.core with run := .waking (.await id) } }
      else exec (.await x) s = .next { s with core := { s.core with run := .blocked (.await id) } }) ∧
    (∀ r, if s.core.leased r = true then
        exec (.wlease r) s = .next { s with core := { s.core with run := .blocked (.wlease r) } }
      else GoesOn (exec (.wlease r) s) fun t => OnlyCore s t ∧ s.core.RetiredFrom t.core ∧ s.core.TrainsKept t.core) ∧
    ∀ a, if s.core.leased (.acc a) = true then
        exec (.mwait a) s = .next { s with core := { s.core with run := .blocked (.mwait a) } }
      else GoesOn (exec (.mwait a) s) fun t => OnlyCore s t ∧ s.core.RetiredFrom t.core ∧ s.core.TrainsKept t.core

/-- A thread that a blocking instruction stopped goes on after it once its condition holds: `ewait` and `await`, whose
wake waits for the earlier loads and is then no blocking point, `wlease` and `mwait` (R107 to R109, R155, R272). -/
def Obligations.WakesGoOnAfterTheBlockingChain : Prop :=
  ∀ (s : State) (a : Agent),
    (∀ e par, (s.getCore a).run = .waking (.ewait e par) ∨
        (s.getCore a).run = .blocked (.ewait e par) ∧ ((s.getCore a).esc e).ph < 16 ∧
          (s.getCore a).FirstOfCycle e s.time ∧ (((s.getCore a).esc e).ph + 16 - par % 16) % 16 ≤ 7 →
      if (s.getCore a).loadsBack = true then
        GoesOn (exec (.ewaitWake a) s) fun t =>
          (t.getCore a).run = .running ∧ (t.getCore a).pc = (s.getCore a).nextPc ∧
          (t.getCore a).regs = (s.getCore a).regs ∧ (t.getCore a).scratch = (s.getCore a).scratch
      else exec (.ewaitWake a) s = .next (s.setCore { s.getCore a with run := .waking (.ewait e par) })) ∧
    (∀ id, (s.getCore a).run = .waking (.await id) ∨
        (s.getCore a).run = .blocked (.await id) ∧ 1 ≤ ((s.getCore a).csr.xdone - id).toNat ∧
          ((s.getCore a).csr.xdone - id).toNat < 2 ^ 31 →
      if (s.getCore a).loadsBack = true then
        GoesOn (exec (.awaitWake a) s) fun t =>
          (t.getCore a).run = .running ∧ (t.getCore a).pc = (s.getCore a).nextPc ∧
          (t.getCore a).regs = (s.getCore a).regs ∧ (t.getCore a).scratch = (s.getCore a).scratch
      else exec (.awaitWake a) s = .next (s.setCore { s.getCore a with run := .waking (.await id) })) ∧
    (∀ r, (s.getCore a).run = .blocked (.wlease r) → (s.getCore a).leased r = false →
      GoesOn (exec (.wleaseWake a) s) fun t => t.mem = s.mem ∧
        (t.getCore a).run = .running ∧ (t.getCore a).pc = (s.getCore a).nextPc ∧
        (t.getCore a).regs = (s.getCore a).regs ∧ (t.getCore a).scratch = (s.getCore a).scratch) ∧
    ∀ b, (s.getCore a).run = .blocked (.mwait b) → (s.getCore a).leased (.acc b) = false →
      GoesOn (exec (.mwaitWake a) s) fun t => t.mem = s.mem ∧
        (t.getCore a).run = .running ∧ (t.getCore a).pc = (s.getCore a).nextPc ∧
        (t.getCore a).regs = (s.getCore a).regs ∧ (t.getCore a).scratch = (s.getCore a).scratch

/-- `end` ends the task of a tile core, once its vector queue is empty: it issues nothing more (R113, R211). -/
def Obligations.EndStopsTheThread : Prop :=
  ∀ s : State, s.core.Plain → s.core.vqueue = [] →
    GoesOn (exec .endTask s) fun t => OnlyCore s t ∧ t.core.run = .ended ∧ t.core.regs = s.core.regs ∧
      t.core.scratch = s.core.scratch ∧ t.core.csr = s.core.csr ∧ t.canIssue t.core = false

/-! ## Exceptions -/

/-- A tile core outside a transaction takes an exception by parking: its frame holds the code, the detail and the
resume address, and it issues nothing more; `brk` and `svc` park with their number as the detail and the next chain as
the resume address (R115, R392, R394). Outside a transaction, an exception of a tile core with no unfinished
instruction leaves its registers, its local memory and all of global memory as they were: the chain had no effect (R7,
R392). A supervisor core takes an exception by halting, and the
host's vector of its die is raised; with no unfinished instruction, which would settle first, its registers and memory
are as they were (R211, R430). Which vector that is, is the model's reading (log entry 38). -/
def Obligations.AFaultParksATileAndHaltsASupervisor : Prop :=
  (∀ (s : State) (f : Flt), s.core.isSup = false → s.core.tx.depth = 0 → s.core.run ≠ .parked →
     (let c := (s.trap f).getCore s.core.who
      c.run = .parked ∧ c.frame.code = f.code ∧ c.frame.detail = f.detail ∧ c.frame.resume = s.core.pc ∧
        c.frame.mal = f.mal ∧ c.frame.dec = false) ∧
     ∀ n, (GoesOn (exec (.brk n) s) fun t =>
         let c := t.getCore s.core.who
         c.run = .parked ∧ c.frame.code = .brk ∧ c.frame.detail = BitVec.ofNat 64 n ∧ c.frame.resume = s.core.nextPc) ∧
       GoesOn (exec (.svc n) s) fun t =>
         let c := t.getCore s.core.who
         c.run = .parked ∧ c.frame.code = .svc ∧ c.frame.detail = BitVec.ofNat 64 n ∧ c.frame.resume = s.core.nextPc) ∧
  (∀ (s : State) (f : Flt), s.core.isSup = false → s.core.tx.depth = 0 → s.core.run = .running → s.core.entries = [] →
     let c := (s.trap f).getCore s.core.who
     c.regs = s.core.regs ∧ c.scratch = s.core.scratch ∧ c.csr = s.core.csr ∧ c.pc = s.core.pc ∧
       (s.trap f).mem = s.mem ∧ c.entries = []) ∧
  (∀ (s : State) (d : Nat) (f : Flt), s.core.who = .sup d → s.core.tx.depth = 0 → s.core.run ≠ .halted →
     let t := s.trap f
     (t.getCore (.sup d)).run = .halted ∧
     (s.core.entries = [] → (t.getCore (.sup d)).regs = s.core.regs ∧ t.mem = s.mem ∧
       (t.ports.vectors = s.ports.vectors ++ [32 * (s.ports.modid.toNat % 64) + (1 + d)] ∨
         ∃ l, t.ports.sent = s.ports.sent ++ [(l, .notice (32 * (s.ports.modid.toNat % 64) + (1 + d)))])))

/-- Inside a user-level interrupt handler every blocking instruction takes PRIV (R112).
A supervisor-only instruction that a tile core executes outside a transaction takes PRIV; it has no other effect
(R49). -/
def Obligations.ChainsOutOfTheirModeTakePriv : Prop :=
  (∀ (s : State) (i : Instr), s.core.inHandler = true →
     (match i with
       | .ewait _ | .await _ | .wlease _ | .mwait _ | .chime | .chimex _ | .qpop _ | .yield => True
       | _ => False) →
     exec i s = .next (s.trap { code := .priv })) ∧
  (∀ (s : State) (i : Instr), s.core.isSup = false →
     (match i with
       | .park _ | .unpark _ _ | .rpl _ _ | .wpl _ _ _ | .tlbinv _ _ | .pclr _ | .ctxsave _ _ | .ctxload _ _ => True
       | _ => False) →
     exec i s = .next (s.trap { code := .priv }))

/-! ## Values that land, arrivals and interrupts -/

/-- A pending value lands in the position of its producer and nowhere else; a remote arrival counts on its escapement
and leaves its queue (R83, R101, R103). -/
def Obligations.PendingValuesAndRemoteArrivalsLand : Prop :=
  (∀ (s : State) (a : Agent) (e : Entry) (d : Nat), (s.getCore a).entry e.tag = some e → e.due = some d →
    d ≤ s.time + 1 → GoesOn (exec (.pendingArrival a e.tag) s) fun t =>
      t = s.setCore (t.getCore a) ∧ (t.getCore a).pc = (s.getCore a).pc ∧
      (∀ i : Fin 16, (t.getCore a).regs.train.get i =
        if ((s.getCore a).regs.train.get i).tag = some e.tag then { value := e.result } else (s.getCore a).regs.train.get i)) ∧
  ∀ (s : State) (r : Arrival), s.arrivals.find? (fun x => x.n == r.n) = some r → s.arrivalReady r = true →
    GoesOn (exec (.remoteArrival r.n) s) fun t => (∀ x ∈ t.arrivals, x.n ≠ r.n) ∧ t.mem = s.mem ∧
      t.getCore (agentOf r.core) = (s.getCore (agentOf r.core)).arrive r.off s.time
        (if r.from_ = r.core then placeOwn else placeCore (coreId (agentOf r.from_))) r.count

/-! ## Global memory -/

namespace Sys2Proof.Machine

/-- The global accesses of a thread: the operands, the registers named in field order, the captured operands, whether a
train position waits for the value, and the register that is leased for it (R90, R172 to R180, R291). -/
inductive AccessForm (c : Core) : Instr → List Src → List LeaseReg → Ops → Bool → Option LeaseReg → Prop where
  | ldg (w : Width) (q : Bool) (sc : Scope) (d : Dst) (x : Src) (o : Int) : AccessForm c (.ldg w q sc d x o) [x]
      (.scalar d :: namesOf [x]) { a := BitVec.ofNat 64 d.code, b := c.value x } false (some (.scalar d))
  | stg (w : StWidth) (q : Bool) (sc : Scope) (x y : Src) (o : Int) : AccessForm c (.stg w q sc x y o) [x, y]
      (namesOf [x, y]) { a := c.value x, b := c.value y } false none
  | amoW (op : AmoOp) (sc : Scope) (x y : Src) : AccessForm c (.amoW op sc x y) [x, y]
      (namesOf [x, y]) { a := c.value x, b := c.value y } true none
  | amoD (op : AmoOp) (sc : Scope) (x y : Src) : AccessForm c (.amoD op sc x y) [x, y]
      (namesOf [x, y]) { a := c.value x, b := c.value y } true none
  | casW (sc : Scope) (x y z : Src) : AccessForm c (.casW sc x y z) [x, y, z]
      (namesOf [x, y, z]) { a := c.value x, b := c.value y, c := c.value z } true none
  | casD (sc : Scope) (x y z : Src) : AccessForm c (.casD sc x y z) [x, y, z]
      (namesOf [x, y, z]) { a := c.value x, b := c.value y, c := c.value z } true none
  | tcaddW (x y : Src) : AccessForm c (.tcaddW x y) [x, y] (namesOf [x, y]) { a := c.value x, b := c.value y } false none
  | tcaddF (x y : Src) : AccessForm c (.tcaddF x y) [x, y] (namesOf [x, y]) { a := c.value x, b := c.value y } false none
  | tcmaxW (x y : Src) : AccessForm c (.tcmaxW x y) [x, y] (namesOf [x, y]) { a := c.value x, b := c.value y } false none
  | tcminW (x y : Src) : AccessForm c (.tcminW x y) [x, y] (namesOf [x, y]) { a := c.value x, b := c.value y } false none
  | tcorD (x y : Src) : AccessForm c (.tcorD x y) [x, y] (namesOf [x, y]) { a := c.value x, b := c.value y } false none

/-- A core outside a transaction reaches an address of the module's own memory at its L2, where no cluster holds a line
of its own and no other module owns one: the access is performed there (R143, R146, R152, R430). -/
def AtTheL2 (s : State) (a : Agent) (pa : Nat) : Prop :=
  s.noL1 a = true ∧ isDevice pa = false ∧ s.foreign pa = false ∧ s.poisoned pa = false ∧
    (∀ k ∈ s.clusters, k.lines = []) ∧ (∀ h ∈ s.ports.held, h.own = false) ∧ ∀ c ∈ s.cores, c.tx.depth = 0

/-- Element i of width w. -/
def lane (v : VecReg) (w i : Nat) : BitVec w := v.extractLsb' (w * i) w

/-- A vector instruction stands at the head of its core's queue, alone, and the lane groups issue. -/
def VectorMayRun (s : State) (a : Agent) (e : Entry) : Prop :=
  (s.getCore a).entries = [e] ∧ s.issueHalted = false ∧ (s.getCore a).going = true

/-- Element i of a queued instruction is active. -/
def Core.active (c : Core) (e : Entry) (i : Nat) : Bool :=
  (c.getF (cfgMask e.cfg0)).getLsbD (i * vwidth (cfgType e.cfg0) / 8)

/-- Every active element of a `vldg` or `vstg` outside a transaction has its address translated and reaches memory at
the L2: where each stands (R225). -/
def ElementsAtTheL2 (s : State) (a : Agent) (e : Entry) (k : Kind) (pa : Nat → Nat) : Prop :=
  let w := vwidth (cfgType e.cfg0)
  e.tx = false ∧ ∀ i < 2048 / w, (s.getCore a).active e i = true → pa i % (w / 8) = 0 ∧ AtTheL2 s a (pa i) ∧
    ∃ t, s.translate a (s.getCore a).asid false k (e.ops.b.toNat + i * (w / 8)) = .ok (t, pa i)

end Sys2Proof.Machine

/-- A global access that passes the checks of R174 and whose page is not translated yet enters the memory unit with its
captured operands: a loaded register is leased, an atomic makes t0 pending, and nothing is performed yet. An aligned
address in the space, no range lock, and room for an unfinished instruction are all that it needs (R90, R174, R176). -/
def Obligations.GlobalAccessesEnterTheMemoryUnit : Prop :=
  ∀ (s : State) (i : Instr) xs names ops tr lease (x : Access), AccessForm s.core i xs names ops tr lease →
    s.core.CanRead xs names → accessOf i ops = some x → x.rel = false → x.ea.toNat < 2 ^ 52 → x.ea.toNat % x.n = 0 →
    s.core.rangeLocked true x.ea.toNat x.n x.kind.writes = false →
    s.translate s.core.who s.core.asid false x.kind x.ea.toNat = .wait → s.core.entryRoom = true →
    s.core.entries = [] →
    GoesOn (exec i s) fun t => t.core.pc = s.core.nextPc ∧ t.mem = s.mem ∧ t.others = s.others ∧
      t.core.scratch = s.core.scratch ∧ t.core.csr = s.core.csr ∧ t.core.regs.k = s.core.regs.k ∧
      t.core.regs.m = s.core.regs.m ∧ t.core.regs.v = s.core.regs.v ∧
      (if tr then s.core.Inserted t.core { value := 0, tag := some s.serial } else s.core.TrainsKept t.core) ∧
      (∀ r, t.core.leased r = (s.core.leased r || lease == some r)) ∧
      t.core.entries = [{ tag := s.serial, instr := i, addr := s.core.pc, ops := ops, tr := tr,
                          tx := decide (0 < s.core.tx.depth), shadow := s.core.inHandler, placed := s.serial }]

/-- A global access that fails a check of R174 takes the exception of the first it fails: XLATE above the address space,
ALIGN, then RANGELOCK, each with the effective address as its detail. -/
def Obligations.GlobalAccessesFaultInTheOrderOfTheirChecks : Prop :=
  ∀ (s : State) (i : Instr) xs names ops tr lease (x : Access), AccessForm s.core i xs names ops tr lease →
    s.core.CanRead xs names → accessOf i ops = some x → s.core.isSup = false →
    (2 ^ 52 ≤ x.ea.toNat → exec i s = .next (s.trap { code := .xlate, detail := x.ea })) ∧
    (x.ea.toNat < 2 ^ 52 → x.ea.toNat % x.n ≠ 0 → exec i s = .next (s.trap { code := .align, detail := x.ea })) ∧
    (x.ea.toNat < 2 ^ 52 → x.ea.toNat % x.n = 0 →
      s.core.rangeLocked true x.ea.toNat x.n x.kind.writes = true →
      exec i s = .next (s.trap { code := .rangelock, detail := x.ea }))

/-- A store of a thread that reaches memory at its L2 stores the low bytes of its value at the translated address,
little endian, and every other byte of memory reads as before (R146, R150, R177). A `vstg` that runs stores each active
element at its own translated address, and no other byte (R225). -/
def Obligations.GlobalStoreStoresItsBytesAndNoOther : Prop :=
  (∀ (s : State) (w : StWidth) (sc : Scope) (x y : Src) (off : Int) (t : Tlb) (pa : Nat) (ea : Word),
    s.core.CanRead [x, y] (namesOf [x, y]) → ea = s.core.value x + BitVec.ofInt 64 off →
    ea.toNat < 2 ^ 52 → ea.toNat % storeBytes w = 0 → s.core.rangeLocked true ea.toNat (storeBytes w) true = false →
    s.translate s.core.who s.core.asid false .wr ea.toNat = .ok (t, pa) → pa % storeBytes w = 0 → AtTheL2 s s.core.who pa →
    s.core.entries = [] → s.mem.wf = true →
    GoesOn (exec (.stg w false sc x y off) s) fun u =>
      u.core.pc = s.core.nextPc ∧ u.core.regs = s.core.regs ∧ u.core.scratch = s.core.scratch ∧
      (∀ j < storeBytes w, u.mem.read (pa + j) = BitVec.ofNat 8 ((s.core.value y).toNat / 256 ^ j)) ∧
      ∀ b, b < pa ∨ pa + storeBytes w ≤ b → u.mem.read b = s.mem.read b) ∧
  ∀ (s : State) (a : Agent) (e : Entry) (v : VReg) (x : Src) (pa : Nat → Nat), VectorMayRun s a e →
    e.instr = .vstg v x → ElementsAtTheL2 s a e .wr pa → s.mem.wf = true →
    let c := s.getCore a
    let w := vwidth (cfgType e.cfg0)
    (∀ i < 2048 / w, ∀ j < i, c.active e i = true → c.active e j = true → pa j ≠ pa i) →
    GoesOn (exec (.vectorExecution a) s) fun t =>
      (∀ i < 2048 / w, c.active e i = true → t.mem.readNat (pa i) (w / 8) = (lane (c.regs.v.get v) w i).toNat) ∧
      (∀ b, (∀ i < 2048 / w, c.active e i = true → b < pa i ∨ pa i + w / 8 ≤ b) → t.mem.read b = s.mem.read b) ∧
      (t.getCore a).entries = [] ∧ (t.getCore a).regs = c.regs ∧ (t.getCore a).scratch = c.scratch ∧
      (t.getCore a).csr = c.csr ∧ (t.getCore a).pc = c.pc

/-- A load of a thread that reaches memory at its L2 reads the bytes at the translated address, and its register stays
leased until the value returns; no byte of memory changes (R146, R176).
The value of a load returns: it is written to its register, among those that the core's code names now where the same
code issued it (R87), the lease ends and the entry is gone (R92, R176). A `vldg` that runs gives each active element
the bytes at its own translated address, and its register is free again; nothing else changes (R209, R225). -/
def Obligations.GlobalLoadReadsMemoryAndReturns : Prop :=
  (∀ (s : State) (w : Width) (sc : Scope) (d : Dst) (x : Src) (off : Int) (t : Tlb) (pa : Nat) (ea : Word),
     s.core.CanRead [x] (.scalar d :: namesOf [x]) → ea = s.core.value x + BitVec.ofInt 64 off →
     ea.toNat < 2 ^ 52 → ea.toNat % widthBytes w = 0 → s.core.rangeLocked true ea.toNat (widthBytes w) false = false →
     s.translate s.core.who s.core.asid false .rd ea.toNat = .ok (t, pa) → pa % widthBytes w = 0 → AtTheL2 s s.core.who pa →
     s.core.entries = [] →
     GoesOn (exec (.ldg w false sc d x off) s) fun u =>
       u.core.pc = s.core.nextPc ∧ u.core.regs = s.core.regs ∧ u.core.scratch = s.core.scratch ∧ u.mem = s.mem ∧
       u.core.leased (.scalar d) = true ∧
       ∃ e ∈ u.core.entries, e.tag = s.serial ∧ e.ready = true ∧ e.result = extension w (s.mem.readNat pa (widthBytes w))) ∧
  (∀ (s : State) (a : Agent) (e : Entry) w q sc d x off, (s.getCore a).entries = [e] → e.instr = .ldg w q sc d x off →
     e.ready = true → e.shadow = (s.getCore a).inHandler →
     GoesOn (exec (.globalLoadReturns a e.tag) s) fun t => t.mem = s.mem ∧ (t.getCore a).entries = [] ∧
       (t.getCore a).value (match d with | .k i => .k i | .m i => .m i) = e.result ∧
       (∀ l ∈ (t.getCore a).leases, l.own ≠ e.tag) ∧ (t.getCore a).pc = (s.getCore a).pc ∧
       (t.getCore a).regs.v = (s.getCore a).regs.v ∧ (t.getCore a).scratch = (s.getCore a).scratch) ∧
  ∀ (s : State) (a : Agent) (e : Entry) (v : VReg) (x : Src) (pa : Nat → Nat), VectorMayRun s a e →
    e.instr = .vldg v x → ElementsAtTheL2 s a e .rd pa →
    GoesOn (exec (.vectorExecution a) s) fun t =>
      let c := s.getCore a
      let d := t.getCore a
      let w := vwidth (cfgType e.cfg0)
      (∀ i < 2048 / w, (lane (d.regs.v.get v) w i).toNat =
        if c.active e i then s.mem.readNat (pa i) (w / 8) else (lane (c.regs.v.get v) w i).toNat) ∧
      d.regs = { c.regs with v := d.regs.v } ∧ (∀ r, r ≠ v → d.regs.v.get r = c.regs.v.get r) ∧ d.entries = [] ∧
      (∀ l ∈ d.leases, l.own ≠ e.tag) ∧ d.scratch = c.scratch ∧ d.csr = c.csr ∧ d.pc = c.pc ∧ t.mem = s.mem

namespace Sys2Proof.Machine

/-- The new value of R179's operations for an old word and the operand's low bits. -/
inductive AmoRule (w : Nat) : AmoOp → (BitVec w → BitVec w → BitVec w) → Prop where
  | add : AmoRule w .add (fun x v => x + v)
  | and : AmoRule w .and (fun x v => x &&& v)
  | or : AmoRule w .or (fun x v => x ||| v)
  | xor : AmoRule w .xor (fun x v => x ^^^ v)
  | min : AmoRule w .min (fun x v => if x.toInt ≤ v.toInt then x else v)
  | max : AmoRule w .max (fun x v => if x.toInt ≤ v.toInt then v else x)
  | minu : AmoRule w .minu (fun x v => if x.toNat ≤ v.toNat then x else v)
  | maxu : AmoRule w .maxu (fun x v => if x.toNat ≤ v.toNat then v else x)
  | swap : AmoRule w .swap (fun _ v => v)

/-- The atomics: their bytes, and the new value that R179 gives for an old one and the captured operands. The
floating sum and maximum are formed on exact values and rounded once (R66, R72). -/
inductive AtomicRule (o : Ops) : Instr → Nat → (Nat → Nat) → Prop where
  | amoW (op : AmoOp) (sc : Scope) (x y : Src) (f) (h : AmoRule 32 op f) : AtomicRule o (.amoW op sc x y) 4
      (fun v => (f (BitVec.ofNat 32 v) (o.b.setWidth 32)).toNat)
  | amoF (sc : Scope) (x y : Src) : AtomicRule o (.amoW .fadd sc x y) 4
      (fun v => (rne32 ((num32 (BitVec.ofNat 32 v)).add (num32 (o.b.setWidth 32)))).1.toNat)
  | amoM (sc : Scope) (x y : Src) : AtomicRule o (.amoW .fmax sc x y) 4
      (fun v => (rne32 ((num32 (BitVec.ofNat 32 v)).max (num32 (o.b.setWidth 32)))).1.toNat)
  | amoD (op : AmoOp) (sc : Scope) (x y : Src) (f) (h : AmoRule 64 op f) : AtomicRule o (.amoD op sc x y) 8
      (fun v => (f (BitVec.ofNat 64 v) o.b).toNat)
  | casW (sc : Scope) (x y z : Src) : AtomicRule o (.casW sc x y z) 4
      (fun v => if v = o.b.toNat % 2 ^ 32 then o.c.toNat % 2 ^ 32 else v)
  | casD (sc : Scope) (x y z : Src) : AtomicRule o (.casD sc x y z) 8
      (fun v => if v = o.b.toNat then o.c.toNat else v)

end Sys2Proof.Machine

/-- An atomic runs at the L2 as one step: the bytes of its word become the new value, its old value lands in the train,
and no other byte of memory changes (R158, R179). -/
def Obligations.AtomicsReadAndWriteOneWordAtOnce : Prop :=
  ∀ (s : State) (a : Agent) (e : Entry) (n : Nat) (f : Nat → Nat) (t : Tlb) (pa : Nat), (s.getCore a).entries = [e] →
    AtomicRule e.ops e.instr n f → e.tx = false → e.ready = false → (s.getCore a).going = true →
    s.translate a (s.getCore a).asid false .at_ e.ops.a.toNat = .ok (t, pa) → pa % n = 0 → AtTheL2 s a pa →
    s.mem.wf = true →
    GoesOn (exec (.atomicCompletes a e.tag) s) fun u => (u.getCore a).entries = [] ∧
      (∀ j < n, u.mem.read (pa + j) = BitVec.ofNat 8 (f (s.mem.readNat pa n) / 256 ^ j)) ∧
      (∀ b, b < pa ∨ pa + n ≤ b → u.mem.read b = s.mem.read b) ∧
      ∀ i : Fin 16, (u.getCore a).regs.train.get i =
        if ((s.getCore a).regs.train.get i).tag = some e.tag then
          { value := BitVec.ofNat 64 (s.mem.readNat pa n) } else (s.getCore a).regs.train.get i

/-- A fence and a releasing store hold their core: the chain is not retired, and nothing but the held chain is
recorded (R156, R182). A fence whose wait is over, and a release of `sig` or of a store whose acknowledgements are in,
let their core go on after the chain; `sig` steps its completion counter by one (R182, R183, R377). -/
def Obligations.FencesAndReleasesHoldTheirCoreUntilDone : Prop :=
  ((∀ (s : State) kind sc e, s.core.entryRoom = true →
     exec (.fence kind sc e) s = .next { s with core := { s.core with run := .held (.fence kind sc e) {} } }) ∧
   ∀ (s : State) (w : StWidth) (sc : Scope) (x y : Src) (off : Int) (ea : Word),
     s.core.CanRead [x, y] (namesOf [x, y]) → s.core.tx.depth = 0 → ea = s.core.value x + BitVec.ofInt 64 off →
     ea.toNat < 2 ^ 52 → ea.toNat % storeBytes w = 0 → s.core.rangeLocked true ea.toNat (storeBytes w) true = false →
     (∀ f, s.translate s.core.who s.core.asid false .wr ea.toNat ≠ .bad f) → s.core.entryRoom = true →
     GoesOn (exec (.stg w true sc x y off) s) fun t => t.core.pc = s.core.pc ∧ t.mem = s.mem ∧
       t.core.regs = s.core.regs ∧ t.core.run = .held (.stg w true sc x y off) { a := s.core.value x, b := s.core.value y }) ∧
  ((∀ (s s1 : State) (a : Agent) kind sc e ops, (s.getCore a).run = .held (.fence kind sc e) ops →
     (s.getCore a).accessesDone true = true → s1 = (if kind = .acq then s else s.release a sc) →
     s1.fenceReady a kind sc e = true →
     GoesOn (exec (.fenceCompletion a) s) fun t => (t.getCore a).run = .running ∧
       (t.getCore a).pc = (s.getCore a).nextPc ∧ (t.getCore a).regs = (s.getCore a).regs ∧
       (t.getCore a).scratch = (s.getCore a).scratch) ∧
   (∀ (s : State) (a : Agent) x ops, (s.getCore a).run = .held (.sig x) ops → (s.getCore a).entries = [] →
     GoesOn (exec (.releaseCompletion a) s) fun t => (t.getCore a).run = .running ∧
       (t.getCore a).pc = (s.getCore a).nextPc ∧ (t.getCore a).regs = (s.getCore a).regs ∧
       t.counter (fld ops.a 14 0) = s.counter (fld ops.a 14 0) + 1 ∧
       ∀ n, n ≠ fld ops.a 14 0 → t.counter n = s.counter n) ∧
   ∀ (s : State) (a : Agent) w sc x y off ops (e : Entry) (t : Tlb) (pa : Nat) (ea : Word),
     (s.getCore a).run = .held (.stg w true sc x y off) ops → (s.getCore a).entries = [e] →
     e.instr = .stg w true sc x y off → e.tx = false → e.ready = false → sc ≠ .sys →
     ea = e.ops.a + BitVec.ofInt 64 off → s.translate a (s.getCore a).asid false .wr ea.toNat = .ok (t, pa) →
     pa % storeBytes w = 0 → AtTheL2 s a pa → s.mem.wf = true →
     GoesOn (exec (.releaseCompletion a) s) fun u => (u.getCore a).run = .running ∧
       (u.getCore a).pc = (s.getCore a).nextPc ∧ (u.getCore a).entries = [] ∧
       (∀ j < storeBytes w, u.mem.read (pa + j) = BitVec.ofNat 8 (e.ops.b.toNat / 256 ^ j)) ∧
       ∀ b, b < pa ∨ pa + storeBytes w ≤ b → u.mem.read b = s.mem.read b)

/-- `ifence` discards the words fetched ahead; `flush` enters its walk; the hints `pref` and `resid` retire and change
no register; none of them touches the train (R185, R187, R190, R191). A `resid` whose pages are all translated changes
no byte of memory. Which lines a hint may bring in is the model's reading (log entries 42, 55). -/
def Obligations.CacheControlRetires : Prop :=
  (∀ s : State, s.core.tx.depth = 0 →
    GoesOn (exec .ifence s) fun t => OnlyCore s t ∧ t.core.pc = s.core.nextPc ∧ t.core.fetched = [] ∧
      t.core.regs = s.core.regs ∧ t.core.scratch = s.core.scratch) ∧
  (∀ (s : State) kind lvl x y, s.core.tx.depth = 0 → s.core.CanRead [x, y] (namesOf [x, y]) →
    (s.core.value y).toNat ≤ 2 ^ 32 → s.core.flushes < 4 → s.core.entryRoom = true →
    GoesOn (exec (.flush kind lvl x y) s) fun t => t.core.pc = s.core.nextPc ∧ t.mem = s.mem ∧
      t.core.regs = s.core.regs ∧ t.core.scratch = s.core.scratch ∧ t.core.csr = s.core.csr ∧
      ∃ e, t.core.entries = s.core.entries ++ [e] ∧ e.tag = s.serial ∧ e.instr = .flush kind lvl x y ∧
        e.ops = { a := s.core.value x, b := s.core.value y } ∧ e.tr = false) ∧
  ∀ (s : State) x y l, s.core.CanRead [x, y] (namesOf [x, y]) → s.core.tx.depth = 0 →
    (GoesOn (exec (.pref x y l) s) fun t => t.core.pc = s.core.nextPc ∧ t.core.regs = s.core.regs ∧
      t.core.scratch = s.core.scratch ∧ t.core.entries = s.core.entries) ∧
    GoesOn (exec (.resid x y l) s) fun t => t.core.pc = s.core.nextPc ∧ t.core.regs = s.core.regs ∧
      t.core.scratch = s.core.scratch ∧ t.core.entries = s.core.entries ∧
      ((∀ id, s.core.who = .tile id → ∀ va, (s.core.value x).toNat ≤ va → va < 2 ^ 52 →
          va < (s.core.value x).toNat + (s.core.value y).toNat →
          (s.tlbFind (dieOfCluster (clusterOf id)) (clusterOf id) s.core.asid va).isSome = true) → t.mem = s.mem)

namespace Sys2Proof.Machine

/-- The sets of its plot that a transactional access registers: a load R, a store W, an atomic both, a commutative write
D (R278, R283, R291). -/
def setsOf : Instr → Sets
  | .ldg _ _ _ _ _ _ => { r := true }
  | .stg _ _ _ _ _ _ => { w := true }
  | .amoW _ _ _ _ | .amoD _ _ _ _ | .casW _ _ _ _ | .casD _ _ _ _ => { r := true, w := true }
  | .tcaddW _ _ | .tcaddF _ _ | .tcmaxW _ _ | .tcminW _ _ | .tcorD _ _ => { d := true }
  | _ => {}

end Sys2Proof.Machine

/-- The steps of a flush, a page-table walk and a registration: a flush whose walk can be done leaves its core's
unfinished instructions; a walk that ends gives every waiting core the translation; and a registration leaves a
transaction that holds the plot in the sets of its access, or that a home aborts (R188, R278, R284, R398, R399). -/
def Obligations.MemoryUnitStepsComplete : Prop :=
  (∀ (s s1 : State) (a : Agent) (e : Entry) k l x y, (s.getCore a).entries = [e] → e.instr = .flush k l x y →
    e.ready = false → (s.getCore a).going = true → s.flushRun a k l e.ops.a e.ops.b = (s1, .ok ()) →
    (s1.getCore a).entries = [e] →
    GoesOn (exec (.flushWalkCompletes a e.tag) s) fun t => (t.getCore a).entries = [] ∧ t.mem = s1.mem) ∧
  (∀ (s s1 : State) die asid va (t : Tlb), s.waiters die asid va ≠ [] → s1 = s.walkTo die asid va →
    s1.walk die asid va = .ok t → (∀ w ∈ s.waiters die asid va, (s1.getCore w.1).entries = []) →
    GoesOn (exec (.pageTableWalk die asid va) s) fun u => t ∈ (u.die die).tlb ∧ u.mem = s1.mem ∧ u.core = s1.core ∧
      u.others = s1.others) ∧
  ∀ (s : State) (a : Agent) (e : Entry) (x : Access) (t : Tlb) (pa : Nat), (s.getCore a).entries = [e] →
    accessOf e.instr e.ops = some x → e.tx = true → e.ready = false → (s.getCore a).txLive = true →
    (s.getCore a).going = true → s.translate a (s.getCore a).asid false x.kind x.ea.toNat = .ok (t, pa) →
    let q := setsOf e.instr
    exec (.plotRegistration a e.tag) s = .next ((s.txEnter a x.ea.toNat pa q).settleAccesses a) ∧
      (((s.txEnter a x.ea.toNat pa q).getCore a).tx.doom.isSome = true ∨
        ∃ p ∈ ((s.txEnter a x.ea.toNat pa q).getCore a).tx.plots, p.plot = pa / 1024 ∧ p.va = x.ea.toNat / 1024 ∧
          (q.r = true → p.r = true) ∧ (q.w = true → p.w = true) ∧ (q.d = true → p.d = true))

/-! ## Transactions -/

/-- The transaction instructions outside a transaction or inside one: `tbegin` opens or nests, saving the train and the
scalar registers for an abort, and at the seventh level aborts with cause NEST; `tend` leaves a nested level, holds its
core at the outermost and only retires outside; `tabort` outside only retires; `tdepth` and `tstat` push what they read,
`tstat` in a transaction its ACT, its depth and the held copies so far (R281, R282, R287, R295). -/
def Obligations.TransactionInstructionsKeepTheirDepth : Prop :=
  ∀ s : State, s.core.inHandler = false →
    (s.core.tx.depth = 0 → s.core.quietScalars = true → s.core.loadsBack = true → ∀ off,
      GoesOn (exec (.tbegin off) s) fun t => t.core.tx.depth = 1 ∧ t.core.pc = s.core.nextPc ∧
        t.core.tx.train = s.core.regs.train ∧ t.core.tx.k = s.core.regs.k ∧ t.core.tx.m = s.core.regs.m ∧
        t.core.tx.sv = s.core.regs.sv ∧ t.core.tx.fallback = s.core.nextPc + BitVec.ofInt 64 (2 * off) ∧
        t.core.tx.plots = [] ∧ t.core.tx.spec = [] ∧ t.core.tx.deltas = [] ∧ t.core.tx.doom = none ∧
        t.core.regs = s.core.regs) ∧
    (1 ≤ s.core.tx.depth → s.core.tx.depth < 7 → ∀ off,
      GoesOn (exec (.tbegin off) s) fun t => OnlyCore s t ∧ t.core.pc = s.core.nextPc ∧
        t.core.tx = { s.core.tx with depth := s.core.tx.depth + 1 } ∧ t.core.regs = s.core.regs) ∧
    (s.core.tx.depth = 7 → ∀ off, GoesOn (exec (.tbegin off) s) fun t => t.mem = s.mem ∧ t.core.tx.depth = 0 ∧
      t.core.pc = s.core.tx.fallback ∧ t.core.regs.k = s.core.tx.k ∧ t.core.regs.m = s.core.tx.m ∧
      t.core.regs.sv = s.core.tx.sv ∧ t.core.regs.v = s.core.regs.v ∧
      (t.core.train.get 0).value = t.core.csr.txstat ∧
      (∀ i : Fin 15, t.core.train.get i.succ = s.core.tx.train.get i.castSucc) ∧ fld t.core.csr.txstat 11 0 = 9 ∧
      (s.core.heldCopies.length ≤ 16 → fld t.core.csr.txstat 14 12 = 7 ∧
        fld t.core.csr.txstat 20 16 = s.core.heldCopies.length ∧ fld t.core.csr.txstat 63 21 = 0)) ∧
    (s.core.tx.depth = 0 → GoesOn (exec .tend s) fun t =>
      OnlyCore s t ∧ s.core.RetiredFrom t.core ∧ s.core.TrainsKept t.core) ∧
    (1 < s.core.tx.depth → GoesOn (exec .tend s) fun t => OnlyCore s t ∧ t.core.pc = s.core.nextPc ∧
      t.core.tx = { s.core.tx with depth := s.core.tx.depth - 1 } ∧ t.core.regs = s.core.regs) ∧
    (s.core.tx.depth = 1 → exec .tend s = .next { s with core := { s.core with run := .held .tend {} } }) ∧
    (s.core.tx.depth = 0 → ∀ n, GoesOn (exec (.tabort n) s) fun t =>
      OnlyCore s t ∧ s.core.RetiredFrom t.core ∧ s.core.TrainsKept t.core) ∧
    (GoesOn (exec .tdepth s) fun t => OnlyCore s t ∧ s.core.RetiredFrom t.core ∧
      s.core.Inserted t.core { value := BitVec.ofNat 64 s.core.tx.depth }) ∧
    (s.core.tx.depth = 0 → GoesOn (exec .tstat s) fun t => OnlyCore s t ∧ s.core.RetiredFrom t.core ∧
      s.core.Inserted t.core { value := s.core.csr.txstat }) ∧
    (1 ≤ s.core.tx.depth → s.core.tx.depth ≤ 7 → s.core.heldCopies.length ≤ 16 → GoesOn (exec .tstat s) fun t =>
      OnlyCore s t ∧ s.core.RetiredFrom t.core ∧ ∃ v, s.core.Inserted t.core { value := v } ∧ fld v 3 0 = 0 ∧
        v.getLsbD 4 = true ∧ fld v 11 5 = 0 ∧ fld v 14 12 = s.core.tx.depth ∧
        fld v 20 16 = s.core.heldCopies.length ∧ fld v 63 21 = 0)

/-- `tabort` in a transaction, and an abort that a home decided, with held copies or without: no transaction is open,
the scalar and shape registers of its begin are back, TXSTAT stands in t0 with the cause before the train of the begin
(no handler holds a transaction, R281), control is at the fallback address, and no byte of memory has changed.
`tabort` shows its number where the nesting and the held copies are in the ranges that the machine keeps to (R282,
R293 to R295). In a transaction an exception aborts it: cause FAULT, no transaction open, the train's, k, m and shape
registers of its begin restored, and control at its fallback address (R294, R295). -/
def Obligations.AbortsRestoreTheBegin : Prop :=
  ((∀ (s : State) (n : Nat), 0 < s.core.tx.depth → n < 256 →
     GoesOn (exec (.tabort n) s) fun t => t.mem = s.mem ∧
       t.core.tx.depth = 0 ∧ t.core.pc = s.core.tx.fallback ∧ t.core.regs.k = s.core.tx.k ∧ t.core.regs.m = s.core.tx.m ∧
       t.core.regs.sv = s.core.tx.sv ∧ (t.core.train.get 0).value = t.core.csr.txstat ∧
       (s.core.inHandler = false → ∀ i : Fin 15, t.core.train.get i.succ = s.core.tx.train.get i.castSucc) ∧
       fld t.core.csr.txstat 11 0 = 4 ∧
       (s.core.tx.depth ≤ 7 → s.core.heldCopies.length ≤ 16 → fld t.core.csr.txstat 31 24 = n ∧
         fld t.core.csr.txstat 14 12 = s.core.tx.depth ∧ fld t.core.csr.txstat 20 16 = s.core.heldCopies.length) ∧
       t.core.regs.v = s.core.regs.v) ∧
   ∀ (s : State) (a : Agent) (cause other : Nat), (s.getCore a).tx.doom = some (cause, other) →
     0 < (s.getCore a).tx.depth → cause < 16 →
     GoesOn (exec (.transactionAbort a) s) fun t => t.mem = s.mem ∧
       (t.getCore a).tx.depth = 0 ∧ (t.getCore a).run = .running ∧ (t.getCore a).pc = (s.getCore a).tx.fallback ∧
       (t.getCore a).regs.k = (s.getCore a).tx.k ∧ (t.getCore a).regs.m = (s.getCore a).tx.m ∧
       (t.getCore a).regs.sv = (s.getCore a).tx.sv ∧ (t.getCore a).regs.v = (s.getCore a).regs.v ∧
       ((t.getCore a).train.get 0).value = (t.getCore a).csr.txstat ∧ fld (t.getCore a).csr.txstat 11 0 = cause ∧
       ((s.getCore a).inHandler = false →
         ∀ i : Fin 15, (t.getCore a).train.get i.succ = (s.getCore a).tx.train.get i.castSucc) ∧
       (∀ e ∈ (t.getCore a).entries, e.tx = false)) ∧
  (∀ (s : State) (f : Flt), 0 < s.core.tx.depth →
     let c := (s.trap f).getCore s.core.who
     c.tx.depth = 0 ∧ c.pc = s.core.tx.fallback ∧ c.regs.k = s.core.tx.k ∧ c.regs.m = s.core.tx.m ∧
       c.regs.sv = s.core.tx.sv ∧ fld c.csr.txstat 11 0 = 5 ∧ fld c.csr.txfault 63 56 = f.code.num ∧
       c.csr.txfpc = s.core.pc &&& 0xFFFFFFFFFFFFF ∧ (c.train.get 0).value = c.csr.txstat ∧ c.regs.v = s.core.regs.v ∧
       (s.core.inHandler = false → ∀ i : Fin 15, c.train.get i.succ = s.core.tx.train.get i.castSucc) ∧
       c.regs.acc = s.core.regs.acc ∧ (s.trap f).mem = s.mem)

namespace Sys2Proof.Machine

/-- A delta of a kind applied to a memory word (R291): INT32 add, FP32 add, signed INT32 max and min, 64-bit or. -/
def deltaApplied (kind : Fin 5) (x d : Nat) : Nat :=
  let a := BitVec.ofNat 32 x
  let b := BitVec.ofNat 32 d
  match kind with
  | 0 => (a + b).toNat
  | 1 => (rne32 ((num32 a).add (num32 b))).1.toNat
  | 2 => (if a.toInt ≤ b.toInt then b else a).toNat
  | 3 => (if a.toInt ≤ b.toInt then a else b).toNat
  | _ => x ||| d

/-- What a transaction has written lies in lines of this module that are not poisoned, no cluster holds a line of its
own and no peer owns one, and no other transaction is open; its stores are kept one to a byte, and its deltas, each of
its word's size, do not overlap (R278, R280, R291). -/
def CommitsHere (s : State) (a : Agent) : Prop :=
  let t := (s.getCore a).tx
  (∀ k ∈ s.clusters, k.lines = []) ∧ (∀ h ∈ s.ports.held, h.own = false) ∧
    (∀ c ∈ s.cores, c.who ≠ a → c.tx.depth = 0) ∧ (t.spec.map fun x : Host.Cell => x.1).Nodup ∧
    (∀ x ∈ t.spec, s.foreign x.1 = false ∧ s.poisoned x.1 = false) ∧
    (∀ d ∈ t.deltas, s.foreign d.pa = false ∧ s.poisoned d.pa = false ∧ d.value.toNat < 2 ^ (8 * deltaBytes d.kind)) ∧
    t.deltas.Pairwise fun d e => d.pa + deltaBytes d.kind ≤ e.pa ∨ e.pa + deltaBytes e.kind ≤ d.pa

end Sys2Proof.Machine

/-- A transaction commits at its commit point, where no home has aborted it, no access of it and none before it is
unfinished, and the held copies find free range locks: its core goes on outside any transaction, with VALID of TXTS
clear. With nothing registered no byte of memory changes. Its stores stand in memory, then each delta is applied to the
word that they leave, and every other byte reads as before (R286, R287, R291, R295). -/
def Obligations.CommitEndsTheTransaction : Prop :=
  ∀ (s : State) (a : Agent) ops, (s.getCore a).run = .held .tend ops → (s.getCore a).txLive = true →
    (s.getCore a).entries.any Entry.tx = false → (s.getCore a).accessesDone false = true →
    (s.getCore a).lockRoom ((s.getCore a).heldCopies.flatMap EngOp.spans) = true →
    GoesOn (exec (.commitPoint a) s) fun t => (t.getCore a).run = .running ∧ (t.getCore a).tx.depth = 0 ∧
      (t.getCore a).pc = (s.getCore a).nextPc ∧ (t.getCore a).regs = (s.getCore a).regs ∧
      (t.getCore a).csr.txts.getLsbD 63 = false ∧
      ((s.getCore a).tx.spec = [] → (s.getCore a).tx.deltas = [] → (∀ k ∈ s.clusters, k.lines = []) → t.mem = s.mem) ∧
      (CommitsHere s a → s.mem.wf = true →
        let x := (s.getCore a).tx
        (∀ b, (∀ d ∈ x.deltas, b < d.pa ∨ d.pa + deltaBytes d.kind ≤ b) →
          t.mem.read b = match x.spec.find? fun p : Host.Cell => p.1 == b with
            | some p => p.2
            | none => s.mem.read b) ∧
        ∀ d ∈ x.deltas, t.mem.readNat d.pa (deltaBytes d.kind) =
          deltaApplied d.kind (natOfBytes (x.view s.mem d.pa (deltaBytes d.kind))) d.value.toNat)

/-! ## Vectors -/

namespace Sys2Proof.Machine

/-- The instructions on three vector registers with no further check at issue. -/
def threeRegisters (d a b : VReg) (lo hi : Fin 16) (n : Fin 64) : List Instr :=
  [.vadd d a b, .vsub d a b, .vmul d a b, .vfma d a b, .vdiv d a b, .vmin d a b, .vmax d a b, .vand d a b, .vor d a b,
   .vxor d a b, .vbmux d a b lo hi, .vshl d a b, .vshr d a b, .vsra d a b, .vfshl d a b n, .vfshr d a b n, .vsel d a b,
   .vperm d a b]

/-- A vector instruction as it issues, with the conditions under which it enters the queue: the scalar operands, the
registers that it names in field order, the captured operands, its captured AWIN, whether a train position waits for a
value, and the register that is leased (R199 to R226, R304, R305). -/
inductive VectorForm (c : Core) :
    Instr → List Src → List LeaseReg → Ops → Word → Bool → Option LeaseReg → Prop where
  | three (d a b : VReg) (lo hi n) (i : Instr) (h : i ∈ threeRegisters d a b lo hi n) :
      VectorForm c i [] [.vec d, .vec a, .vec b] { a := vcode d, b := vcode a, c := vcode b } 0 false none
  | vmulh (d a b : VReg) (h : vfloat c.vtype = none) : VectorForm c (.vmulh d a b) [] [.vec d, .vec a, .vec b]
      { a := vcode d, b := vcode a, c := vcode b } 0 false none
  | real (d a : VReg) (i : Instr) (h : vfloat c.vtype ≠ none)
      (hi : i ∈ [.vsqrt d a, .vrcp d a, .vrsq d a, .vexp2 d a, .vlog2 d a]) :
      VectorForm c i [] [.vec d, .vec a] { a := vcode d, b := vcode a } 0 false none
  | two (d a : VReg) (f g r) (i : Instr) (hi : i ∈ [.vabs d a, .vpopc d a, .vclz d a, .vcvt f g r d a]) :
      VectorForm c i [] [.vec d, .vec a] { a := vcode d, b := vcode a } 0 false none
  | compare (fd : MReg) (a b : VReg) (i : Instr) (hi : i ∈ [.vceq fd a b, .vclt fd a b, .vcle fd a b]) :
      VectorForm c i [] [.vec a, .vec b] { a := vcode a, b := vcode b, c := fdCode fd } 0 false none
  | vsplat (d : VReg) (x : Src) : VectorForm c (.vsplat d x) [x] (.vec d :: namesOf [x])
      { a := vcode d, b := c.value x } 0 false none
  | vext (a : VReg) (x : Src) : VectorForm c (.vext a x) [x] (.vec a :: namesOf [x])
      { a := vcode a, b := c.value x } 0 true none
  | vins (d : VReg) (x y : Src) : VectorForm c (.vins d x y) [x, y] (.vec d :: namesOf [x, y])
      { a := vcode d, b := c.value x, c := c.value y } 0 false none
  | vslide (d a : VReg) (x : Src) : VectorForm c (.vslide d a x) [x] (.vec d :: .vec a :: namesOf [x])
      { a := vcode d, b := vcode a, c := c.value x } 0 false none
  | vred (op : RedOp) (a : VReg) : VectorForm c (.vred op a) [] [.vec a] { a := vcode a } 0 true none
  | vmask (t : Fin 16) (fd fa fb : MReg) : VectorForm c (.vmask t fd fa fb) [] []
      { a := BitVec.ofNat 64 fa.val, b := BitVec.ofNat 64 fb.val, c := fdCode fd } 0 false none
  | vld (d : VReg) (x : Src) (h : c.vlocalCheck c.vtype (c.windowOf (c.value x)) (c.value x) false = .ok ()) :
      VectorForm c (.vld d x) [x] (.vec d :: namesOf [x]) { a := vcode d, b := c.value x }
        (c.windowOf (c.value x)) false none
  | vst (a : VReg) (x : Src) (h : c.vlocalCheck c.vtype (c.windowOf (c.value x)) (c.value x) true = .ok ()) :
      VectorForm c (.vst a x) [x] (.vec a :: namesOf [x]) { a := vcode a, b := c.value x }
        (c.windowOf (c.value x)) false none
  | vldg (d : VReg) (x : Src) (h : c.vglobalCheck c.vtype (c.value x) false = .ok ()) :
      VectorForm c (.vldg d x) [x] (.vec d :: namesOf [x]) { a := vcode d, b := c.value x } 0 false (some (.vec d))
  | vstg (a : VReg) (x : Src) (h : c.vglobalCheck c.vtype (c.value x) true = .ok ()) :
      VectorForm c (.vstg a x) [x] (.vec a :: namesOf [x]) { a := vcode a, b := c.value x } 0 false none
  | vgath (d y : VReg) (x : Src) (h : vgatherCheck c.vtype (c.value x) = .ok ()) :
      VectorForm c (.vgath d x y) [x] (.vec d :: (namesOf [x] ++ [.vec y]))
        { a := vcode d, b := c.value x, c := vcode y } 0 false none
  | vscat (a y : VReg) (x : Src) (h : vgatherCheck c.vtype (c.value x) = .ok ()) :
      VectorForm c (.vscat a x y) [x] (.vec a :: (namesOf [x] ++ [.vec y]))
        { a := vcode a, b := c.value x, c := vcode y } 0 false none
  | hsift (x y z : Src) (h : (c.value x).toNat < 2 ^ 30) (hz : fld (c.value z) 31 0 ≠ 2 ^ 32 - 1)
      (ht : c.tx.depth = 0) : VectorForm c (.hsift x y z) [x, y, z] (namesOf [x, y, z])
      { a := c.value x, b := c.value y, c := c.value z } 0 false none
  | vhsift (x z : Src) (v : VReg) (h : (c.value x).toNat < 2 ^ 24) (hz : fld (c.value z) 31 0 ≠ 2 ^ 32 - 1)
      (ht : c.tx.depth = 0) : VectorForm c (.vhsift x v z) [x, z] (namesOf [x] ++ .vec v :: namesOf [z])
      { a := c.value x, b := vcode v, c := c.value z } 0 false none
  | hsort (x : Src) (h : (c.value x).toNat < 2 ^ 25) (ht : c.tx.depth = 0) :
      VectorForm c (.hsort x) [x] (namesOf [x]) { a := c.value x } 0 false none

/-- Nothing of a core has changed but its trains, its entries, its leases and the marks of the chain that issued. -/
def Core.EntersFrom (c d : Core) : Prop :=
  d.pc = c.nextPc ∧ { d.besidesTrain with entries := c.entries, leases := c.leases } = c.besidesTrain

end Sys2Proof.Machine

/-- A vector instruction enters its core's queue with its captured operands and the VCFG of its issue; `vcfg` itself
acts at issue. Neither reads or writes a vector register, a mask or memory yet; `vext` and `vred` make t0 pending, and
`vldg` leases its register (R197, R200, R209). An instruction that needs an integer or a floating type raises FORMAT
under the other one (R199). -/
def Obligations.VectorInstructionsEnterTheirQueue : Prop :=
  ((∀ (s : State) (i : Instr) xs names ops cfg1 tr lease, VectorForm s.core i xs names ops cfg1 tr lease →
     s.core.CanRead xs names → s.core.vqueue.length < 16 → s.core.entryRoom = true →
     GoesOn (exec i s) fun t => OnlyCore { s with serial := s.serial + 1 } t ∧ s.core.EntersFrom t.core ∧
       (if tr then s.core.Inserted t.core { value := 0, tag := some s.serial } else s.core.TrainsKept t.core) ∧
       (∀ r, t.core.leased r = (s.core.leased r || lease == some r)) ∧
       ∃ e, t.core.entries = s.core.entries ++ [e] ∧ e.tag = s.serial ∧ e.instr = i ∧ e.addr = s.core.pc ∧
         e.ops = ops ∧ e.cfg0 = s.core.csr.vcfg ∧ e.cfg1 = cfg1 ∧ e.tr = tr ∧ e.ready = false ∧ e.flt = false) ∧
   ∀ (s : State) ty fm, GoesOn (exec (.vcfg ty fm) s) fun t => OnlyCore s t ∧ t.core.pc = s.core.nextPc ∧
     s.core.TrainsKept t.core ∧ t.core.regs = s.core.regs ∧ t.core.entries = s.core.entries ∧
     t.core.scratch = s.core.scratch ∧ t.core.csr = { s.core.csr with vcfg := BitVec.ofNat 64 (ty.code + 16 * fm.val) } ∧
     t.core.vtype = ty ∧ cfgMask t.core.csr.vcfg = fm) ∧
  (∀ (s : State) (d a b : VReg), s.core.CanRead [] [.vec d, .vec a, .vec b] →
     (vfloat s.core.vtype ≠ none → exec (.vmulh d a b) s = .next (s.trap { code := .format })) ∧
     (vfloat s.core.vtype = none → ∀ i ∈ [Instr.vsqrt d a, .vrcp d a, .vrsq d a, .vexp2 d a, .vlog2 d a],
       exec i s = .next (s.trap { code := .format })))

namespace Sys2Proof.Machine

/-- Element operations: the destination, the sources, and the new element from those of the two sources and the old
one. The first eight hold for integer types, the others for every type (R199, R213, R214). -/
inductive LaneRule (t : VType) (o : Ops) : Instr → VReg → VReg → VReg →
    (BitVec (vwidth t) → BitVec (vwidth t) → BitVec (vwidth t) → BitVec (vwidth t)) → Prop where
  | vadd (d a b : VReg) (h : vfloat t = none) : LaneRule t o (.vadd d a b) d a b (fun x y _ => x + y)
  | vsub (d a b : VReg) (h : vfloat t = none) : LaneRule t o (.vsub d a b) d a b (fun x y _ => x - y)
  | vmul (d a b : VReg) (h : vfloat t = none) : LaneRule t o (.vmul d a b) d a b (fun x y _ => x * y)
  | vmulh (d a b : VReg) (h : vfloat t = none) : LaneRule t o (.vmulh d a b) d a b
      (fun x y _ => BitVec.ofInt _ (x.toInt * y.toInt / 2 ^ vwidth t))
  | vfma (d a b : VReg) (h : vfloat t = none) : LaneRule t o (.vfma d a b) d a b (fun x y z => x * y + z)
  | vdiv (d a b : VReg) (h : vfloat t = none) : LaneRule t o (.vdiv d a b) d a b
      (fun x y _ => if y = 0 then BitVec.allOnes _ else BitVec.ofInt _ (x.toInt.tdiv y.toInt))
  | vmin (d a b : VReg) (h : vfloat t = none) : LaneRule t o (.vmin d a b) d a b
      (fun x y _ => if x.toInt ≤ y.toInt then x else y)
  | vmax (d a b : VReg) (h : vfloat t = none) : LaneRule t o (.vmax d a b) d a b
      (fun x y _ => if x.toInt ≤ y.toInt then y else x)
  | vand (d a b : VReg) : LaneRule t o (.vand d a b) d a b (fun x y _ => x &&& y)
  | vor (d a b : VReg) : LaneRule t o (.vor d a b) d a b (fun x y _ => x ||| y)
  | vxor (d a b : VReg) : LaneRule t o (.vxor d a b) d a b (fun x y _ => x ^^^ y)
  | vshl (d a b : VReg) : LaneRule t o (.vshl d a b) d a b (fun x y _ => x <<< (y.toNat % vwidth t))
  | vshr (d a b : VReg) : LaneRule t o (.vshr d a b) d a b (fun x y _ => x >>> (y.toNat % vwidth t))
  | vsra (d a b : VReg) : LaneRule t o (.vsra d a b) d a b (fun x y _ => x.sshiftRight (y.toNat % vwidth t))
  | vpopc (d a : VReg) : LaneRule t o (.vpopc d a) d a a
      (fun x _ _ => BitVec.ofNat _ ((List.range (vwidth t)).filter fun k => x.getLsbD k).length)
  | vsplat (d : VReg) (x : Src) : LaneRule t o (.vsplat d x) d d d (fun _ _ _ => o.b.setWidth _)
  | vabs (d a : VReg) (h : vfloat t = none) : LaneRule t o (.vabs d a) d a a
      (fun x _ _ => if x.toInt < 0 then -x else x)
  | vabsF (d a : VReg) (f : FpFmt) (h : vfloat t = some f) : LaneRule t o (.vabs d a) d a a
      (fun x _ _ => if (f.decode x.toNat).isNan then BitVec.ofNat _ f.nan else BitVec.ofNat _ (x.toNat % 2 ^ (vwidth t - 1)))
  | vclz (d a : VReg) : LaneRule t o (.vclz d a) d a a
      (fun x _ _ => BitVec.ofNat _ ((List.range (vwidth t)).takeWhile fun k => !x.getLsbD (vwidth t - 1 - k)).length)
  | vbmux (d a b : VReg) (lo hi : Fin 16) (f) (h : ∀ x y z : BitVec (vwidth t), ∀ k < vwidth t,
      (f x y z : BitVec (vwidth t)).getLsbD k = (if z.getLsbD k then hi.val else lo.val).testBit
        (2 * (x.getLsbD k).toNat + (y.getLsbD k).toNat)) : LaneRule t o (.vbmux d a b lo hi) d a b f
  | vfshl (d a b : VReg) (n : Fin 64) : LaneRule t o (.vfshl d a b n) d a b (fun x y _ => BitVec.ofNat _
      ((x.toNat * 2 ^ vwidth t + y.toNat) * 2 ^ (n.val % vwidth t) / 2 ^ vwidth t))
  | vfshr (d a b : VReg) (n : Fin 64) : LaneRule t o (.vfshr d a b n) d a b (fun x y _ => BitVec.ofNat _
      ((x.toNat * 2 ^ vwidth t + y.toNat) / 2 ^ (n.val % vwidth t)))

/-- Floating element operations: the destination, the sources, the exact result from the values of the two sources and
the old element, and the operands that a NaN may come from (R213 to R215). -/
inductive FloatRule : Instr → VReg → VReg → VReg → (Num → Num → Num → Num) → (Num → Num → Num → List Num) → Prop where
  | vadd (d a b : VReg) : FloatRule (.vadd d a b) d a b (fun x y _ => x.add y) (fun x y _ => [x, y])
  | vsub (d a b : VReg) : FloatRule (.vsub d a b) d a b (fun x y _ => x.add y.neg) (fun x y _ => [x, y])
  | vmul (d a b : VReg) : FloatRule (.vmul d a b) d a b (fun x y _ => x.mul y) (fun x y _ => [x, y])
  | vfma (d a b : VReg) : FloatRule (.vfma d a b) d a b (fun x y z => (x.mul y).add z) (fun x y z => [x, y, z])
  | vdiv (d a b : VReg) : FloatRule (.vdiv d a b) d a b (fun x y _ => x.div y) (fun x y _ => [x, y])
  | vmin (d a b : VReg) : FloatRule (.vmin d a b) d a b (fun x y _ => x.min y) (fun x y _ => [x, y])
  | vmax (d a b : VReg) : FloatRule (.vmax d a b) d a b (fun x y _ => x.max y) (fun x y _ => [x, y])
  | vsqrt (d a : VReg) : FloatRule (.vsqrt d a) d a a (fun x _ _ => x.sqrt) (fun x _ _ => [x])
  | vrcp (d a : VReg) : FloatRule (.vrcp d a) d a a (fun x _ _ => (Num.ofInt 1).div x) (fun x _ _ => [x])
  | vrsq (d a : VReg) : FloatRule (.vrsq d a) d a a (fun x _ _ => x.rsqrt) (fun x _ _ => [x])
  | vexp2 (d a : VReg) : FloatRule (.vexp2 d a) d a a (fun x _ _ => x.exp2) (fun x _ _ => [x])
  | vlog2 (d a : VReg) : FloatRule (.vlog2 d a) d a a (fun x _ _ => x.log2) (fun x _ _ => [x])

/-- The instructions that move elements: the destination, and each new element from the registers as they stood
(R217 to R219). -/
inductive MoveRule (c : Core) (w : Nat) (o : Ops) (act : Nat → Bool) : Instr → VReg → (Nat → BitVec w) → Prop where
  | vsel (d a b : VReg) : MoveRule c w o act (.vsel d a b) d
      (fun i => lane (c.regs.v.get (if act i then a else b)) w i)
  | vperm (d a b : VReg) : MoveRule c w o act (.vperm d a b) d (fun i =>
      if act i then lane (c.regs.v.get a) w ((lane (c.regs.v.get b) w i).toNat % (2048 / w))
      else lane (c.regs.v.get d) w i)
  | vslide (d a : VReg) (x : Src) : MoveRule c w o act (.vslide d a x) d (fun i =>
      if act i then
        if 0 ≤ (i : Int) + o.c.toInt ∧ (i : Int) + o.c.toInt < (2048 / w : Nat) then
          lane (c.regs.v.get a) w ((i : Int) + o.c.toInt).toNat
        else 0
      else lane (c.regs.v.get d) w i)
  | vins (d : VReg) (x y : Src) : MoveRule c w o act (.vins d x y) d (fun i =>
      if i = o.c.toNat % (2048 / w) then o.b.setWidth w else lane (c.regs.v.get d) w i)

/-- The instructions that write a mask register: the destination, and each of its bits (R216, R221). -/
inductive MaskRule (c : Core) (t : VType) (act : Nat → Bool) : Instr → MReg → (Nat → Bool) → Prop where
  | vceq (fd : MReg) (a b : VReg) (h : vfloat t = none) : MaskRule c t act (.vceq fd a b) fd (fun k =>
      let i := 8 * k / vwidth t
      act i && lane (c.regs.v.get a) (vwidth t) i == lane (c.regs.v.get b) (vwidth t) i)
  | vclt (fd : MReg) (a b : VReg) (h : vfloat t = none) : MaskRule c t act (.vclt fd a b) fd (fun k =>
      let i := 8 * k / vwidth t
      act i && decide ((lane (c.regs.v.get a) (vwidth t) i).toInt < (lane (c.regs.v.get b) (vwidth t) i).toInt))
  | vcle (fd : MReg) (a b : VReg) (h : vfloat t = none) : MaskRule c t act (.vcle fd a b) fd (fun k =>
      let i := 8 * k / vwidth t
      act i && decide ((lane (c.regs.v.get a) (vwidth t) i).toInt ≤ (lane (c.regs.v.get b) (vwidth t) i).toInt))
  | float (fd : MReg) (a b : VReg) (f : FpFmt) (h : vfloat t = some f) (i : Instr) (cmp : Num → Num → Bool)
      (hi : i = .vceq fd a b ∧ cmp = Num.eq ∨ i = .vclt fd a b ∧ cmp = Num.lt ∨ i = .vcle fd a b ∧ cmp = Num.le) :
      MaskRule c t act i fd (fun k =>
      let i := 8 * k / vwidth t
      act i && cmp (f.decode (lane (c.regs.v.get a) (vwidth t) i).toNat)
        (f.decode (lane (c.regs.v.get b) (vwidth t) i).toNat))
  | vmask (tbl : Fin 16) (fd fa fb : MReg) : MaskRule c t act (.vmask tbl fd fa fb) fd (fun k =>
      tbl.val.testBit (2 * ((c.getF fa).getLsbD k).toNat + ((c.getF fb).getLsbD k).toNat))

/-- The ordered FP32 sum of the elements of a list, from the first, each partial sum rounded, with its flags (R220). -/
def orderedSum : List Num → Word32 × Flags
  | [] => (0, 0)
  | x :: rest => rest.foldl (fun acc y => let p := addF32 acc.1 (rne32 y).1
                                          (p.1, acc.2 ||| p.2)) ((rne32 x).1, 0)

/-- What a reduction of the active elements pushes, with the flags that it sets (R220). -/
inductive ReduceRule (t : VType) (xs : List (BitVec (vwidth t))) : RedOp → Word → Flags → Prop where
  | add (h : vfloat t = none) : ReduceRule t xs .add (BitVec.ofInt 64 (xs.map BitVec.toInt).sum) 0
  | min (h : vfloat t = none) : ReduceRule t xs .min
      (BitVec.ofInt 64 ((xs.map BitVec.toInt).foldl min (2 ^ (vwidth t - 1) - 1))) 0
  | max (h : vfloat t = none) : ReduceRule t xs .max
      (BitVec.ofInt 64 ((xs.map BitVec.toInt).foldl max (-(2 ^ (vwidth t - 1))))) 0
  | addF (f : FpFmt) (h : vfloat t = some f) : ReduceRule t xs .add
      ((orderedSum (xs.map fun x => f.decode x.toNat)).1.setWidth 64) (orderedSum (xs.map fun x => f.decode x.toNat)).2
  | minF (f : FpFmt) (h : vfloat t = some f) : ReduceRule t xs .min
      ((rne32 (match xs.map fun x => f.decode x.toNat with
        | [] => .inf false
        | x :: rest => rest.foldl Num.min x)).1.setWidth 64) 0
  | maxF (f : FpFmt) (h : vfloat t = some f) : ReduceRule t xs .max
      ((rne32 (match xs.map fun x => f.decode x.toNat with
        | [] => .inf true
        | x :: rest => rest.foldl Num.max x)).1.setWidth 64) 0

/-- A vector instruction has run: its entry is gone, and of its core nothing but vector registers, mask registers, the
trains and the control registers can have changed; memory has not. -/
def VectorRan (s : State) (a : Agent) (t : State) : Prop :=
  let c := s.getCore a
  let c' := t.getCore a
  c'.entries = [] ∧ c'.regs.k = c.regs.k ∧ c'.regs.m = c.regs.m ∧ c'.regs.acc = c.regs.acc ∧
    c'.scratch = c.scratch ∧ c'.pc = c.pc ∧ t.mem = s.mem

end Sys2Proof.Machine

/-- An element operation that runs gives each active element its result and keeps every other element; no other vector
register, mask, scalar register, flag or byte of memory changes, and its entry leaves the queue (R198, R201, R213 to
R215). Under a floating type each active element is the exact result rounded once to nearest even, and every flag that
one of them sets is set in NFLAGS (R66, R70, R72). `vsel`, `vperm`, `vslide` and `vins` move elements as R217 to R219
say and set no flag. The compares and `vmask` write each bit of their mask register; a write to f0 changes nothing
(R88, R216, R221). `vext` and `vred` put their value into the train position that waits for it: the element of the
index modulo the number of elements, sign extended for an integer type, or the reduction of the active elements, with
the flags of a floating sum (R218, R220). `vcvt` converts 64 elements between scalar formats under the mask, or all 64
where a block format takes part, packed from bit 0, and keeps every bit above them; each element under sr draws from
its own generator (R65, R222). The flags of `vmin`, `vmax`, `vabs` and of the minimum and maximum of `vred`, the rule
for NV, and the values of `vexp2` and `vlog2` are the model's readings (log entry 44). -/
def Obligations.VectorElementsTakeTheirResults : Prop :=
  (∀ (s : State) (a : Agent) (e : Entry) (d va vb : VReg) f, (s.getCore a).entries = [e] →
     LaneRule (cfgType e.cfg0) e.ops e.instr d va vb f → s.issueHalted = false → (s.getCore a).going = true →
     GoesOn (exec (.vectorExecution a) s) fun t =>
       let c := s.getCore a
       let c' := t.getCore a
       let w := vwidth (cfgType e.cfg0)
       (∀ i < 2048 / w, lane (c'.regs.v.get d) w i =
         if (c.getF (cfgMask e.cfg0)).getLsbD (i * w / 8) then
           f (lane (c.regs.v.get va) w i) (lane (c.regs.v.get vb) w i) (lane (c.regs.v.get d) w i)
         else lane (c.regs.v.get d) w i) ∧
       (∀ r, r ≠ d → c'.regs.v.get r = c.regs.v.get r) ∧ c'.entries = [] ∧ c'.regs.f = c.regs.f ∧
       c'.regs.train = c.regs.train ∧ c'.regs.k = c.regs.k ∧ c'.regs.m = c.regs.m ∧ c'.regs.acc = c.regs.acc ∧
       c'.csr = c.csr ∧ c'.scratch = c.scratch ∧ c'.pc = c.pc ∧ t.mem = s.mem) ∧
  (∀ (s : State) (a : Agent) (e : Entry) (d va vb : VReg) (f : FpFmt) r ops, VectorMayRun s a e →
     FloatRule e.instr d va vb r ops → vfloat (cfgType e.cfg0) = some f →
     GoesOn (exec (.vectorExecution a) s) fun t =>
       let c := s.getCore a
       let c' := t.getCore a
       let w := vwidth (cfgType e.cfg0)
       let at_ := fun (v : VReg) (i : Nat) => f.decode (lane (c.regs.v.get v) w i).toNat
       let res := fun i : Nat => f.encode .rne (r (at_ va i) (at_ vb i) (at_ d i))
       let nv := fun i : Nat => nvFlag (ops (at_ va i) (at_ vb i) (at_ d i)) (r (at_ va i) (at_ vb i) (at_ d i))
       (∀ i < 2048 / w, lane (c'.regs.v.get d) w i =
         if c.active e i then BitVec.ofNat w (res i).1 else lane (c.regs.v.get d) w i) ∧
       (∀ v, v ≠ d → c'.regs.v.get v = c.regs.v.get v) ∧ VectorRan s a t ∧ c'.regs.f = c.regs.f ∧
       c'.regs.train = c.regs.train ∧ c'.csr = { c.csr with nflags := c'.csr.nflags } ∧
       ∀ b < 64, c'.csr.nflags.getLsbD b = (c.csr.nflags.getLsbD b ||
         (List.range (2048 / w)).any fun i => c.active e i && ((res i).2.getLsbD b || (nv i).getLsbD b))) ∧
  (∀ (s : State) (a : Agent) (e : Entry) (d : VReg) x, VectorMayRun s a e →
     MoveRule (s.getCore a) (vwidth (cfgType e.cfg0)) e.ops ((s.getCore a).active e) e.instr d x →
     GoesOn (exec (.vectorExecution a) s) fun t =>
       let c := s.getCore a
       let c' := t.getCore a
       (∀ i < 2048 / vwidth (cfgType e.cfg0), lane (c'.regs.v.get d) (vwidth (cfgType e.cfg0)) i = x i) ∧
       (∀ v, v ≠ d → c'.regs.v.get v = c.regs.v.get v) ∧ VectorRan s a t ∧ c'.regs.f = c.regs.f ∧
       c'.regs.train = c.regs.train ∧ c'.csr = c.csr) ∧
  (∀ (s : State) (a : Agent) (e : Entry) (fd : MReg) x, VectorMayRun s a e →
     MaskRule (s.getCore a) (cfgType e.cfg0) ((s.getCore a).active e) e.instr fd x →
     GoesOn (exec (.vectorExecution a) s) fun t =>
       let c := s.getCore a
       let c' := t.getCore a
       (∀ k < 256, (c'.getF fd).getLsbD k = (fd == 0 || x k)) ∧ (∀ g, g ≠ fd → c'.getF g = c.getF g) ∧
       VectorRan s a t ∧ c'.regs.v = c.regs.v ∧ c'.regs.train = c.regs.train ∧ c'.csr = c.csr) ∧
  (∀ (s : State) (a : Agent) (e : Entry) (va : VReg) (v : Word) (fl : Flags), VectorMayRun s a e →
     (let c := s.getCore a
      let w := vwidth (cfgType e.cfg0)
      let x := lane (c.regs.v.get va) w (e.ops.b.toNat % (2048 / w))
      (∃ y, e.instr = .vext va y) ∧ fl = 0 ∧
          v = (if vfloat (cfgType e.cfg0) = none then x.signExtend 64 else x.setWidth 64) ∨
        ∃ op, e.instr = .vred op va ∧ ReduceRule (cfgType e.cfg0)
          (((List.range (2048 / w)).filter (c.active e)).map fun i => lane (c.regs.v.get va) w i) op v fl) →
     GoesOn (exec (.vectorExecution a) s) fun t =>
       (∀ i : Fin 16, (t.getCore a).regs.train.get i =
         if ((s.getCore a).regs.train.get i).tag = some e.tag then { value := v } else (s.getCore a).regs.train.get i) ∧
       VectorRan s a t ∧ (t.getCore a).regs.v = (s.getCore a).regs.v ∧ (t.getCore a).regs.f = (s.getCore a).regs.f ∧
       (t.getCore a).csr = { (s.getCore a).csr with nflags := (s.getCore a).csr.nflags ||| fl }) ∧
  ∀ (s : State) (a : Agent) (e : Entry) (f g : CFmt) (r : Rnd) (d va : VReg), VectorMayRun s a e →
    e.instr = .vcvt f g r d va →
    GoesOn (exec (.vectorExecution a) s) fun t =>
      let c := s.getCore a
      let c' := t.getCore a
      let block := (cfmtEl f).isBlock || (cfmtEl g).isBlock
      let sel := fun i : Nat => block || (c.getF (cfgMask e.cfg0)).getLsbD (4 * i)
      let xs := (cfmtEl f).decode 64 (c.regs.v.get va).toNat
      let (gens, modes) := c.gens.modes r 64 id sel
      let n := (cfmtEl g).extent 64
      c'.gens = gens ∧ (∀ b, n ≤ b → (c'.regs.v.get d).getLsbD b = (c.regs.v.get d).getLsbD b) ∧
      (block = true → (c'.regs.v.get d).toNat % 2 ^ n = ((cfmtEl g).encode modes xs).1 % 2 ^ n) ∧
      (block = false → ∀ i < 64, (c'.regs.v.get d).toNat / 2 ^ ((cfmtEl g).unit.2 * i) % 2 ^ (cfmtEl g).unit.2 =
        if sel i then ((cfmtEl g).encodeUnit [modes.getD i .rne] [xs.getD i (.fin false 0 0)]).1 % 2 ^ (cfmtEl g).unit.2
        else (c.regs.v.get d).toNat / 2 ^ ((cfmtEl g).unit.2 * i) % 2 ^ (cfmtEl g).unit.2) ∧
      (∀ v, v ≠ d → c'.regs.v.get v = c.regs.v.get v) ∧ VectorRan s a t ∧ c'.regs.f = c.regs.f ∧
      c'.regs.train = c.regs.train ∧ c'.csr = { c.csr with nflags := c'.csr.nflags }

namespace Sys2Proof.Machine

/-- A vector local access moves bytes unchanged: through window 0, or through a window whose format is that of its type
(R75). -/
def movesRaw (e : Entry) : Prop :=
  fld e.ops.b 23 21 = 0 ∨ rawWindow (cfgType e.cfg0) (awinEl e.cfg1) = true

/-- Where the element of index i of a `vgath` or `vscat` lies, by lane i of its index register (R226). -/
def gatherAddr (c : Core) (e : Entry) (y : VReg) (i : Nat) : Nat :=
  fld e.ops.b 20 0 + (lane (c.regs.v.get y) 32 i).toNat * (vwidth (cfgType e.cfg0) / 8)

/-- An element of a `vgath` or `vscat` passes the checks of R226. -/
def gatherOk (c : Core) (e : Entry) (y : VReg) (store : Bool) (i : Nat) : Prop :=
  let w := vwidth (cfgType e.cfg0)
  let a := gatherAddr c e y i
  a + w / 8 ≤ c.top ∧ (store = true → c.constOff a = false) ∧ c.rangeLocked false a (w / 8) store = false

/-- A block of heaps of k entries that passes the checks of R305, at the offset of an operand. -/
def HeapsAt (c : Core) (addr : Word) (sorted : Bool) (o k : Nat) : Prop :=
  let h := c.scratch.word o
  o = fld addr 20 0 ∧ o % 16 = 0 ∧ 0x800 ≤ o ∧ k = fld h 7 0 ∧ 1 ≤ k ∧ k ≤ 16 ∧ fld h 63 17 = 0 ∧
    (fld h 15 8 = 0 ∨ fld h 15 8 = 2 ∨ sorted = true ∧ fld h 15 8 = 1) ∧ o + 16 + 512 * k ≤ c.top ∧
    c.rangeLocked false o (16 + 512 * k) true = false

/-- Heap i of a block, after the clear that STATE 2 asks for (R301, R303). -/
def heapIn (c : Core) (o k i : Nat) : List HeapEntry :=
  if fld (c.scratch.word o) 15 8 = 2 then List.replicate k sentinel else readHeap c.scratch (o + 16 + 8 * k * i) k

/-- NANM of a block, after that clear. -/
def nanmIn (c : Core) (o : Nat) : Word := if fld (c.scratch.word o) 15 8 = 2 then 0 else c.scratch.word (o + 8)

/-- A block of heaps stands in local memory: its header, its NANM, and heap i of its 64; and every byte outside it, and
everything else of the core but its entry, is as it was. -/
def HeapsBecome (s : State) (a : Agent) (o k : Nat) (head : Word) (nanm : Nat → Bool) (heap : Nat → List HeapEntry)
    (t : State) : Prop :=
  let c := s.getCore a
  let d := t.getCore a
  d.scratch.word o = head ∧ (∀ i < 64, (d.scratch.word (o + 8)).getLsbD i = nanm i) ∧
    (∀ i < 64, readHeap d.scratch (o + 16 + 8 * k * i) k = heap i) ∧
    (∀ b, b < o ∨ o + 16 + 512 * k ≤ b → d.scratch.read b = c.scratch.read b) ∧
    d.regs = c.regs ∧ d.csr = c.csr ∧ d.entries = [] ∧ d.pc = c.pc ∧ t.mem = s.mem

/-- No entry of a heap of k ranks below its parent's place: the root ranks lowest (R302). -/
def HeapOrder (k : Nat) (h : List HeapEntry) : Prop :=
  ∀ j, 0 < j → j < k → ranksAbove (h.getD ((j - 1) / 2) sentinel) (h.getD j sentinel) = false

/-- No score is NaN (R302). -/
def NoNan (h : List HeapEntry) : Prop := ∀ x ∈ h, (num32 x.1).isNan = false

end Sys2Proof.Machine

/-- A `vst` that moves bytes unchanged, through window 0 or another, stores each active element, little endian, at its
place from the captured address, and every other byte of local memory reads as before; such a `vld` gives each active
element its bytes and stores nothing; through a window that converts, each element is converted, every element where the
format is a block's, with the flags of the conversions, and elements from n on keep their value; `vgath` and `vscat`
move their active elements by index, the highest of those that share an address staying, and where one fails a check
nothing is written and a tile core parks (R75, R210, R223, R224, R226). `hsift`, `vhsift` and `hsort` leave their
heaps as R303, R306 and R307 say; an insertion exchanges the root for the candidate and keeps the heap order, and a
sort keeps the entries and ranks them (R302). That every beat of an access moves in one step, and that an access
sees of an escapement the fields of one cycle, is the model's choice (log entries 7, 57). -/
def Obligations.VectorLocalAccessesMoveActiveElements : Prop :=
  (∀ (s : State) (a : Agent) (e : Entry) (v : VReg) (x : Src), VectorMayRun s a e → movesRaw e →
    (s.getCore a).scratch.wf = true →
    let w := vwidth (cfgType e.cfg0)
    let o := fld e.ops.b 20 0
    let c := s.getCore a
    let active := fun i : Nat => (c.getF (cfgMask e.cfg0)).getLsbD (i * w / 8)
    (e.instr = .vst v x → GoesOn (exec (.vectorExecution a) s) fun t =>
      (∀ i < 2048 / w, active i = true → (t.getCore a).scratch.readNat (o + i * (w / 8)) (w / 8) =
        (lane (c.regs.v.get v) w i).toNat) ∧
      (∀ b, (b < o ∨ o + 256 ≤ b ∨ active ((b - o) / (w / 8)) = false) →
        (t.getCore a).scratch.read b = c.scratch.read b) ∧
      (t.getCore a).regs = c.regs ∧ (t.getCore a).csr = c.csr ∧ t.mem = s.mem ∧ (t.getCore a).entries = []) ∧
    (e.instr = .vld v x → GoesOn (exec (.vectorExecution a) s) fun t =>
      (∀ i < 2048 / w, (lane ((t.getCore a).regs.v.get v) w i).toNat =
        if active i then (c.seen s.time).scratch.readNat (o + i * (w / 8)) (w / 8)
        else (lane (c.regs.v.get v) w i).toNat) ∧
      (∀ r, r ≠ v → (t.getCore a).regs.v.get r = c.regs.v.get r) ∧ VectorRan s a t ∧
      (t.getCore a).regs.f = c.regs.f ∧ (t.getCore a).regs.train = c.regs.train ∧ (t.getCore a).csr = c.csr)) ∧
  (∀ (s : State) (a : Agent) (e : Entry) (v : VReg) (x : Src), VectorMayRun s a e → ¬ movesRaw e →
    (s.getCore a).scratch.wf = true →
    let ty := cfgType e.cfg0
    let w := vwidth ty
    let f := awinEl e.cfg1
    let n := min (2048 / w) 64
    let o := fld e.ops.b 20 0
    let size := f.extent n / 8
    let c := s.getCore a
    let hit := fun i : Nat => decide (i < n) && (f.isBlock || c.active e i)
    (e.instr = .vld v x → GoesOn (exec (.vectorExecution a) s) fun t =>
      let xs := f.decode n ((c.seen s.time).scratch.readNat o size)
      let conv := fun i : Nat => (vtypeEl ty).encodeUnit [.rne] [xs.getD i (.fin false 0 0)]
      (∀ i < 2048 / w, lane ((t.getCore a).regs.v.get v) w i =
        if hit i then BitVec.ofNat w (conv i).1 else lane (c.regs.v.get v) w i) ∧
      (∀ r, r ≠ v → (t.getCore a).regs.v.get r = c.regs.v.get r) ∧ VectorRan s a t ∧
      (t.getCore a).regs.f = c.regs.f ∧ (t.getCore a).regs.train = c.regs.train ∧ (t.getCore a).gens = c.gens ∧
      (t.getCore a).csr = { c.csr with nflags := (t.getCore a).csr.nflags } ∧
      ∀ b < 64, (t.getCore a).csr.nflags.getLsbD b =
        (c.csr.nflags.getLsbD b || (List.range n).any fun i => hit i && (conv i).2.getLsbD b)) ∧
    (e.instr = .vst v x → GoesOn (exec (.vectorExecution a) s) fun t =>
      let m := c.gens.modes ((Rnd.ofCode (fld e.cfg1 5 4)).getD .rne) n (laneOf w) hit
      let xs := (List.range n).map fun i =>
        ((vtypeEl ty).decodeUnit (lane (c.regs.v.get v) w i).toNat).headD (.fin false 0 0)
      let conv := fun i : Nat => f.encodeUnit [m.2.getD i .rne] [xs.getD i (.fin false 0 0)]
      let k := f.unit.2 / 8
      (t.getCore a).gens = m.1 ∧ (t.getCore a).regs = c.regs ∧ t.mem = s.mem ∧ (t.getCore a).entries = [] ∧
      (t.getCore a).pc = c.pc ∧ (t.getCore a).csr = { c.csr with nflags := (t.getCore a).csr.nflags } ∧
      (∀ b, b < o ∨ o + size ≤ b → (t.getCore a).scratch.read b = c.scratch.read b) ∧
      (f.isBlock = true → (t.getCore a).scratch.readBytes o size = bytesOfNat size (f.encode m.2 xs).1 ∧
        (t.getCore a).csr.nflags = c.csr.nflags ||| (f.encode m.2 xs).2) ∧
      (f.isBlock = false →
        (∀ i < n, (t.getCore a).scratch.readNat (o + k * i) k =
          if c.active e i then (conv i).1 % 2 ^ (8 * k) else c.scratch.readNat (o + k * i) k) ∧
        ∀ b < 64, (t.getCore a).csr.nflags.getLsbD b =
          (c.csr.nflags.getLsbD b || (List.range n).any fun i => hit i && (conv i).2.getLsbD b)))) ∧
  (∀ (s : State) (a : Agent) (e : Entry) (v y : VReg) (x : Src), VectorMayRun s a e →
    let c := s.getCore a
    let w := vwidth (cfgType e.cfg0)
    let on := fun i : Nat => i < min (2048 / w) 64 ∧ c.active e i = true
    let addr := gatherAddr c e y
    (e.instr = .vgath v x y → (∀ i, on i → gatherOk c e y false i) → GoesOn (exec (.vectorExecution a) s) fun t =>
      (∀ i < 2048 / w, (lane ((t.getCore a).regs.v.get v) w i).toNat =
        if i < 64 ∧ c.active e i = true then (c.seen s.time).scratch.readNat (addr i) (w / 8)
        else (lane (c.regs.v.get v) w i).toNat) ∧
      (∀ r, r ≠ v → (t.getCore a).regs.v.get r = c.regs.v.get r) ∧ VectorRan s a t ∧
      (t.getCore a).regs.f = c.regs.f ∧ (t.getCore a).regs.train = c.regs.train ∧ (t.getCore a).csr = c.csr) ∧
    (e.instr = .vscat v x y → (∀ i, on i → gatherOk c e y true i) → c.scratch.wf = true →
      GoesOn (exec (.vectorExecution a) s) fun t =>
      (∀ i, on i → (∀ j, i < j → on j → addr j ≠ addr i) →
        (t.getCore a).scratch.readNat (addr i) (w / 8) = (lane (c.regs.v.get v) w i).toNat) ∧
      (∀ b, (∀ i, on i → b < addr i ∨ addr i + w / 8 ≤ b) → (t.getCore a).scratch.read b = c.scratch.read b) ∧
      (t.getCore a).regs = c.regs ∧ (t.getCore a).csr = c.csr ∧ (t.getCore a).entries = [] ∧
      (t.getCore a).pc = c.pc ∧ t.mem = s.mem) ∧
    ∀ store i, (e.instr = .vgath v x y ∧ store = false ∨ e.instr = .vscat v x y ∧ store = true) → on i →
      ¬ gatherOk c e y store i → c.isSup = false → c.tx.depth = 0 → (∀ j ops, c.run ≠ .held j ops) →
      GoesOn (exec (.vectorExecution a) s) fun t => (t.getCore a).run = .parked ∧ (t.getCore a).scratch = c.scratch ∧
        (t.getCore a).regs = c.regs ∧ t.mem = s.mem ∧
        ((t.getCore a).frame.code = .carve ∨ (t.getCore a).frame.code = .rangelock)) ∧
  (∀ (s : State) (a : Agent) (e : Entry) (o k : Nat) x y z v, VectorMayRun s a e → (s.getCore a).scratch.wf = true →
    let c := s.getCore a
    let sm := fld (c.scratch.word o) 16 16
    let id : Word32 := e.ops.c.setWidth 32
    (e.instr = .hsift x y z → HeapsAt c e.ops.a false o k →
      let score : Word32 := e.ops.b.setWidth 32
      let at_ := fun i : Nat => i == fld e.ops.a 29 24
      GoesOn (exec (.vectorExecution a) s) (HeapsBecome s a o k (BitVec.ofNat 64 (k + 2 ^ 16 * sm))
        (fun i => (nanmIn c o).getLsbD i || (at_ i && (num32 score).isNan))
        fun i => if at_ i && !(num32 score).isNan then heapInsert (heapIn c o k i) k (score, id) else heapIn c o k i)) ∧
    (e.instr = .vhsift x v z → HeapsAt c e.ops.a false o k →
      let score := fun i : Nat => lane (c.regs.v.get v) 32 i
      let on := fun i : Nat => (c.getF (cfgMask e.cfg0)).getLsbD (4 * i)
      GoesOn (exec (.vectorExecution a) s) (HeapsBecome s a o k (BitVec.ofNat 64 (k + 2 ^ 16 * sm))
        (fun i => (nanmIn c o).getLsbD i || (on i && (num32 (score i)).isNan))
        fun i => if on i && !(num32 (score i)).isNan then heapInsert (heapIn c o k i) k (score i, id)
          else heapIn c o k i)) ∧
    (e.instr = .hsort x → HeapsAt c e.ops.a true o k →
      let done := fun i : Nat => if fld (c.scratch.word o) 15 8 = 1 then heapIn c o k i else heapSort (heapIn c o k i)
      let weigh := e.ops.a.getLsbD 24 && sm == 0
      GoesOn (exec (.vectorExecution a) s) (HeapsBecome s a o k
        (BitVec.ofNat 64 (k + 2 ^ 8 + 2 ^ 16 * (if weigh then 1 else sm))) (fun i => (nanmIn c o).getLsbD i)
        fun i => if weigh then gateWeights (done i) else done i))) ∧
  ∀ (k : Nat) (h : List HeapEntry) (x : HeapEntry), h.length = k → 1 ≤ k → NoNan (x :: h) →
    (ranksAbove x (h.getD 0 sentinel) = false → heapInsert h k x = h) ∧
    (ranksAbove x (h.getD 0 sentinel) = true → (heapInsert h k x).Perm (x :: h.drop 1)) ∧
    (HeapOrder k h → HeapOrder k (heapInsert h k x)) ∧ (heapSort h).Perm h ∧
    ((heapSort h).filter fun e => e.2 != noId).Pairwise fun e f => ranksAbove f e = false

/-- `nop` changes nothing except the program counter, which moves past it, and the halfword 0x0000 is `nop` (R114).
`put` writes its register and `wrsv` its shape variable, and neither touches the train.
Mask register f0 reads as all ones whatever is written to it, and a write to any other one is what is read back;
no write touches another (R88). -/
def Obligations.RegisterMovesWriteOneRegister : Prop :=
  (decodeWords [0x0000] = .instr .nop 1 ∧
   ∀ s : State, GoesOn (exec .nop s) fun t => OnlyCore s t ∧ s.core.RetiredFrom t.core ∧ s.core.TrainsKept t.core) ∧
  (∀ s : State,
     (∀ d x, s.core.CanRead [x] (nameDst d :: namesOf [x]) → GoesOn (exec (.put d x) s) fun t =>
       OnlyCore s t ∧ t.core.pc = s.core.nextPc ∧ s.core.TrainsKept t.core ∧
       (∀ e : Dst, t.core.value (match e with | .k i => .k i | .m i => .m i) =
         if e = d then s.core.value x else s.core.value (match e with | .k i => .k i | .m i => .m i)) ∧
       t.core.regs.sv = s.core.regs.sv ∧ t.core.regs.v = s.core.regs.v ∧ t.core.regs.f = s.core.regs.f ∧
       t.core.regs.acc = s.core.regs.acc ∧ t.core.csr = s.core.csr ∧ t.core.scratch = s.core.scratch) ∧
     ∀ (i : Fin 32) x, s.core.CanRead [x] (namesOf [x]) → GoesOn (exec (.wrsv i x) s) fun t =>
       OnlyCore s t ∧ t.core.pc = s.core.nextPc ∧ s.core.TrainsKept t.core ∧
       (∀ j : Fin 32, t.core.regs.sv.get j = if j = i then s.core.value x else s.core.regs.sv.get j) ∧
       t.core.regs.k = s.core.regs.k ∧ t.core.regs.shadowK = s.core.regs.shadowK ∧ t.core.regs.m = s.core.regs.m ∧
       t.core.regs.v = s.core.regs.v ∧ t.core.regs.f = s.core.regs.f ∧ t.core.regs.acc = s.core.regs.acc ∧
       t.core.csr = s.core.csr ∧ t.core.scratch = s.core.scratch) ∧
  (∀ (c : Core) (i j : MReg) (v : MaskReg), c.getF 0 = BitVec.allOnes 256 ∧ c.setF 0 v = c ∧
     (c.setF i v).getF j = if j = i ∧ i ≠ 0 then v else c.getF j)

/-! ## The copy channel -/

namespace Sys2Proof.Machine

/-- The checks of R242 to R244 give the request of a chain of the channel: its operands, its registers in field order,
and what it captures. -/
inductive ChannelForm (s : State) : Instr → List Src → List LeaseReg → ChanReq → Prop where
  | copy (x y : Src) (q : ChanReq) (h : s.copyReq (.copy x y) (s.core.value x) (s.core.value y) [] = .ok q) :
      ChannelForm s (.copy x y) [x, y] (namesOf [x, y]) q
  | copyf (x y : Src) (m : MQuad) (two : Bool) (q : ChanReq) (w : Fin 4 → Word)
      (hw : ∀ i, w i = s.core.regs.m.get (quadReg m i)) (h3 : (w 3).toNat < 4)
      (hp : s.productCheck s.core false (w 0) (w 1) (w 2) = .ok ())
      (h : s.copyReq (.copyf x y m two) (s.core.value x) (s.core.value y) [w 0, w 1, w 2, w 3] = .ok q) :
      ChannelForm s (.copyf x y m two) [x, y]
        (namesOf [x, y] ++ namesQuad m ++ [.acc (⟨(w 3).toNat, by omega⟩ : Fin 4)])
        { q with command := some ((⟨(w 3).toNat, by omega⟩ : Fin 4), if two then 2 else 1) }
  | gath (x y z : Src) (q : ChanReq)
      (h : s.gathReq (.gath x y z) (s.core.value x) (s.core.value y) (s.core.value z) = .ok q) :
      ChannelForm s (.gath x y z) [x, y, z] (namesOf [x, y, z]) q

end Sys2Proof.Machine

/-- A `copy`, `copyf` or `gath` that passes its checks takes the next transfer id, pushes it, registers its spans, and
enters the channel with its captured records; `copyf` leases its bank. Nothing moves yet (R227, R241 to R244). -/
def Obligations.ChannelInstructionsTakeAnId : Prop :=
  ∀ (s : State) (i : Instr) xs names (q : ChanReq), ChannelForm s i xs names q → s.core.CanRead xs names →
    s.core.engineReady = true → s.core.accessesDone false = true → s.core.tx.depth = 0 → s.core.idFree = true →
    s.core.locks.length ≤ 62 →
    GoesOn (exec i s) fun t => t.mem = s.mem ∧ t.others = s.others ∧ t.core.pc = s.core.nextPc ∧
      s.core.Inserted t.core { value := s.core.csr.xnext.setWidth 64 } ∧ t.core.csr.xnext = s.core.csr.xnext + 1 ∧
      t.core.csr.xdone = s.core.csr.xdone ∧ t.core.scratch = s.core.scratch ∧ t.core.regs.k = s.core.regs.k ∧
      t.core.regs.m = s.core.regs.m ∧ t.core.regs.v = s.core.regs.v ∧ t.core.regs.acc = s.core.regs.acc ∧
      (∀ r, t.core.leased r = (s.core.leased r || q.command.any fun c => r == .acc c.1)) ∧
      ∃ op, t.core.chan = s.core.chan ++ [op] ∧ op.id = s.core.csr.xnext ∧ op.instr = i ∧ op.ops = q.ops ∧
        op.recs = q.src ++ q.dst ∧ op.held = false ∧ op.done = false ∧ op.addr = s.core.pc ∧
        t.core.locks = s.core.locks ++ (op.spans.filter fun p => p.len != 0).map fun p => p.lock s.serial

namespace Sys2Proof.Machine

/-- A record of n elements in a row in own scratch: rank 1, no origin, no interleave and no rotation, in a format of no
blocks (R232, R233). -/
def PlainRow (r : Layout) (base n : Nat) : Prop :=
  Lay.space r = 1 ∧ Lay.rank r = 1 ∧ Lay.orgN r 0 = 0 ∧ Lay.win r 0 = n ∧ Lay.ext r 0 = n ∧ Lay.ilv r = 0 ∧
    Lay.rot r = 0 ∧ Lay.estr r = 1 ∧ Lay.block r = false ∧ Lay.order r 0 = 0 ∧ fld (wordAt r 0) 23 0 = base ∧
    base + n * Lay.ub r ≤ 2 ^ 21

/-- The channel of a core holds this one operation, and its id is the next to complete. -/
def OnlyTransfer (c : Core) (op : EngOp) : Prop :=
  c.chan = [op] ∧ op.id = c.csr.xdone ∧ op.held = false ∧ op.done = false ∧ op.cancelled = false

end Sys2Proof.Machine

/-- A copy between two rows of own scratch in one format moves every byte, in order, and changes no other byte of local
memory and none of global memory; its id completes, its range locks end, and with IRQ its completion is flagged (R229,
R235, R238). -/
def Obligations.LocalCopyMovesItsBytes : Prop :=
  ∀ (s : State) (a : Agent) (op : EngOp) (src dst n : Nat), OnlyTransfer (s.getCore a) op → op.moved = false →
    op.wrote = false → ((∃ x y, op.instr = .copy x y) ∨ ∃ k, op.instr = .stage k) → PlainRow op.src src n → PlainRow op.dst dst n →
    Lay.fmt op.src = Lay.fmt op.dst → Lay.esc op.dst = false → (s.getCore a).scratch.wf = true →
    (let b := n * Lay.ub op.dst
     (src + b ≤ dst ∨ dst + b ≤ src) →
     GoesOn (exec (.channelOperationCompletes a op.id) s) fun t =>
      (∀ j < b, (t.getCore a).scratch.read (dst + j) = (s.getCore a).scratch.read (src + j)) ∧
      (∀ j, j < dst ∨ dst + b ≤ j → (t.getCore a).scratch.read j = (s.getCore a).scratch.read j) ∧
      t.mem = s.mem ∧ (t.getCore a).regs = (s.getCore a).regs ∧ (t.getCore a).chan = [] ∧
      (t.getCore a).csr.xdone = op.id + 1 ∧ (t.getCore a).csr.xstat = (s.getCore a).csr.xstat ∧
      (∀ l ∈ (t.getCore a).locks, l.own ≠ op.tag) ∧
      (t.getCore a).flagged = (s.getCore a).flagged ++
        if Lay.irq op.dst then [(op.id, 0, op.scope)] else [])

/-- `stage #n` with no entry of its schedule left below n pushes XNEXT; with one entry it issues the copy of its two
records, steps NEXTE, and pushes that copy's id; `xdone` pushes XDONE (R245, R246).
The command of a `copyf` whose copy has moved takes its place in its stream when the stream has room, and then the
copy's id completes; with no room nothing happens (R243, R257). -/
def Obligations.StagesAndCommandsTakeTheirPlace : Prop :=
  ((∀ (s : State) (n : Nat), s.core.engineReady = true → s.core.accessesDone false = true → s.core.tx.depth = 0 →
     s.core.stageId = none → s.core.idFree = true → s.core.locks.length ≤ 62 →
     (s.released n = [] → GoesOn (exec (.stage n) s) fun t => OnlyCore s t ∧ t.core.pc = s.core.nextPc ∧
       s.core.Inserted t.core { value := s.core.csr.xnext.setWidth 64 } ∧ t.core.csr.xnext = s.core.csr.xnext ∧
       t.core.chan = s.core.chan ∧ t.core.scratch = s.core.scratch) ∧
     ∀ (w : Word) (q : ChanReq), s.released n = [w] →
       s.copyReq (.stage n) (BitVec.ofNat 64 (fld w 31 8)) (BitVec.ofNat 64 (fld w 55 32)) [] = .ok q →
       GoesOn (exec (.stage n) s) fun t => t.core.pc = s.core.nextPc ∧ t.mem = s.mem ∧
         s.core.Inserted t.core { value := s.core.csr.xnext.setWidth 64 } ∧ t.core.csr.xnext = s.core.csr.xnext + 1 ∧
         t.core.nextE = (s.core.nextE + 1) % 512 ∧ t.core.scratch = s.core.scratch ∧
         ∃ op, t.core.chan = s.core.chan ++ [op] ∧ op.id = s.core.csr.xnext ∧ op.instr = .stage n ∧
           op.recs = q.src ++ q.dst) ∧
   ∀ s : State, s.core.tx.depth = 0 → GoesOn (exec .xdone s) fun t => OnlyCore s t ∧ s.core.RetiredFrom t.core ∧
     s.core.Inserted t.core { value := s.core.csr.xdone.setWidth 64 }) ∧
  (∀ (s : State) (a : Agent) (op : EngOp) x y m two, OnlyTransfer (s.getCore a) op → op.moved = true →
     op.instr = .copyf x y m two →
     let i : Fin 3 := if two then 1 else 0
     if ((s.getCore a).streams.get i).length < 8 then
       GoesOn (exec (.commandPlacement a op.id) s) fun t =>
         (t.getCore a).streams.get i = (s.getCore a).streams.get i ++ [{ commandEntry op with placed := s.serial }] ∧
         (t.getCore a).chan = [] ∧
         (t.getCore a).csr.xdone = op.id + 1 ∧ (t.getCore a).regs = (s.getCore a).regs ∧ t.mem = s.mem
     else exec (.commandPlacement a op.id) s = .next s)

/-- `uien` sets the handler's address and EN, and `uidis` clears EN; `uiret` goes back to UIRA with ACT clear and the
shadow registers empty, and outside a handler it takes PRIV; the interrupted train and registers are as they were. An
odd handler address takes ALIGN (R247). A user-level interrupt enters the handler between chains: its resume address
is saved, ACT is set, the shadow train is empty, shadow k8 and k9 hold the id and the status, and the interrupted
train is kept (R247). That `uiret` goes on while a lease of a shadow register
stands is the model's choice (log entry 65). -/
def Obligations.InterruptsEnterAndLeaveTheirHandler : Prop :=
  ((∀ (s : State) (x : Src), s.core.CanRead [x] (namesOf [x]) →
     if (s.core.value x).getLsbD 0 = true then exec (.uien x) s = .next (s.trap { code := .align })
     else GoesOn (exec (.uien x) s) fun t => OnlyCore s t ∧ t.core.pc = s.core.nextPc ∧ t.core.regs = s.core.regs ∧
       t.core.csr.uictl.getLsbD 63 = true ∧ t.core.inHandler = s.core.inHandler ∧
       fld t.core.csr.uictl 51 0 = fld (s.core.value x) 51 0 ∧ t.core.scratch = s.core.scratch) ∧
   (∀ s : State, GoesOn (exec .uidis s) fun t => OnlyCore s t ∧ t.core.pc = s.core.nextPc ∧
     t.core.regs = s.core.regs ∧ t.core.csr.uictl.getLsbD 63 = false ∧ t.core.inHandler = s.core.inHandler ∧
     fld t.core.csr.uictl 51 0 = fld s.core.csr.uictl 51 0 ∧ t.core.scratch = s.core.scratch) ∧
   ∀ s : State, s.core.tx.depth = 0 →
     (s.core.inHandler = false → exec .uiret s = .next (s.trap { code := .priv })) ∧
     (s.core.inHandler = true → GoesOn (exec .uiret s) fun t => OnlyCore s t ∧ t.core.pc = s.core.csr.uira ∧
       t.core.inHandler = false ∧ t.core.train = s.core.regs.train ∧ t.core.regs.k = s.core.regs.k ∧
       t.core.regs.m = s.core.regs.m ∧ (∀ i : Fin 16, t.core.regs.shadow.get i = {}) ∧
       (∀ i : Fin 8, t.core.regs.shadowK.get i = 0) ∧ t.core.uiReady = false)) ∧
  (∀ (s : State) (a : Agent) id st sc rest, (s.getCore a).flagged = (id, st, sc) :: rest →
     (s.getCore a).csr.uictl.getLsbD 63 = true → (s.getCore a).inHandler = false → (s.getCore a).uiReady = true →
     (s.getCore a).tx.depth = 0 → (s.getCore a).stalling = false →
     ((s.getCore a).run = .running ∨ ∃ b, (s.getCore a).run = .blocked b) →
     GoesOn (exec (.userLevelInterrupt a) s) fun t =>
       (t.getCore a).inHandler = true ∧ (t.getCore a).run = .running ∧ (t.getCore a).flagged = rest ∧
       (t.getCore a).csr.uira = (s.getCore a).pc &&& 0xFFFFFFFFFFFFF ∧
       (t.getCore a).regs.train = (s.getCore a).regs.train ∧ (t.getCore a).value (.k 8) = id.setWidth 64 ∧
       (t.getCore a).value (.k 9) = st ∧ (∀ i : Fin 16, (t.getCore a).train.get i = {}) ∧
       (t.getCore a).regs.k = (s.getCore a).regs.k ∧ (t.getCore a).regs.m = (s.getCore a).regs.m)

/-! ## The matrix array -/

namespace Sys2Proof.Machine

/-- The page-4 instructions as they issue, with the checks that they pass: their operands, their registers in field
order, what they capture, and what they lease (R252, R255, R262 to R271). -/
inductive MatrixForm (s : State) : Instr → List Src → List LeaseReg → Ops → Word → Option LeaseReg → Prop where
  | mma (a : Acc) (x : Src) (p : MPair) (y z : Word) (hy : y = s.core.regs.m.get (pairLo p))
      (hz : z = s.core.regs.m.get (pairHi p)) (h : s.productCheck s.core false (s.core.value x) y z = .ok ())
      (ht : s.core.tx.depth = 0 ∨ cwLA (s.core.value x) = false ∧ cwLB (s.core.value x) = false) :
      MatrixForm s (.mma a x p) [x] (.acc a :: (namesOf [x] ++ namesPair p)) { a := bankCode a, b := y, c := z }
        (s.core.value x) (some (.acc a))
  | mmat (a : Acc) (x : Src) (p : MPair) (y z : Word) (hy : y = s.core.regs.m.get (pairLo p))
      (hz : z = s.core.regs.m.get (pairHi p)) (h : s.productCheck s.core true (s.core.value x) y z = .ok ())
      (ht : s.core.tx.depth = 0) (hs : s.core.isSup = false) :
      MatrixForm s (.mmat a x p) [x] (.acc a :: (namesOf [x] ++ namesPair p)) { a := bankCode a, b := y, c := z }
        (s.core.value x) (some (.acc a))
  | mred (i32 : Bool) (a : Acc) (len : Nat) (ht : s.core.tx.depth = 0) (hs : s.core.isSup = false) :
      MatrixForm s (.mred i32 a len) [] [.acc a] { a := bankCode a } 0 (some (.acc a))
  | mzero (a : Acc) : MatrixForm s (.mzero a) [] [.acc a] { a := bankCode a } 0 none
  | mld (a : Acc) (x : Src) (h : s.core.mldCheck (s.core.value x) = .ok ()) : MatrixForm s (.mld a x) [x]
      (.acc a :: namesOf [x]) { a := bankCode a, b := s.core.value x } 0 (some (.acc a))
  | mst (f : Fmt) (r : Rnd) (a : Acc) (x : Src) (h : s.core.mstCheck f (s.core.value x) = .ok ()) :
      MatrixForm s (.mst f r a x) [x] (.acc a :: namesOf [x]) { a := bankCode a, b := s.core.value x } 0 none
  | amov (d : VReg) (a : Acc) (col : Nat) : MatrixForm s (.amov d a col) [] [.vec d, .acc a]
      { a := vcode d, b := bankCode a } 0 (some (.vec d))

end Sys2Proof.Machine

/-- A matrix instruction that passes its checks enters stream 0 with its captured operands and leases its destination;
a bank that is leased by stream 0 itself does not hold it back. No register and no memory changes yet (R91, R257,
R262). -/
def Obligations.MatrixInstructionsEnterStreamZero : Prop :=
  ∀ (s : State) (i : Instr) xs names ops cfg lease, MatrixForm s i xs names ops cfg lease →
    (∀ x ∈ xs, s.core.pending x = false) →
    (∀ r ∈ names, match r with
      | .acc _ => ∀ l ∈ s.core.leases, l.reg = r → l.stream = some 0
      | _ => s.core.leased r = false) →
    s.core.engineReady = true → s.core.accessesDone false = true → s.core.stream0.length < 8 →
    s.core.entryRoom = true → s.core.locks.length ≤ 62 →
    GoesOn (exec i s) fun t => OnlyCore { s with serial := s.serial + 1 } t ∧ t.core.pc = s.core.nextPc ∧
      t.core.regs = s.core.regs ∧ t.core.scratch = s.core.scratch ∧ t.core.run = s.core.run ∧
      (∀ r, t.core.leased r = (s.core.leased r || lease == some r)) ∧ (∀ l ∈ s.core.locks, l ∈ t.core.locks) ∧
      ∃ e, t.core.entries = s.core.entries ++ [e] ∧ e.tag = s.serial ∧ e.instr = i ∧ e.addr = s.core.pc ∧
        e.ops = ops ∧ e.cfg0 = cfg ∧ e.started = false ∧ e.tr = false

/-- The head of stream 0 starts when the array is free and no head placed before it could start: a plain operation, or a
team operation whose rendezvous has formed; nothing else changes (R258, R265).
The moves of a bank as they complete: `mzero` makes every element zero; `mld` loads the 64 rows of 80 little-endian
elements; `amov` copies a column into a vector register; `mst` stores each row, encoded in its format and rounding, at
its place and no other byte, in FP32 or INT32 every element unchanged, and in INT8 saturated, sets the flags of its
rows, and draws from the row generators under sr alone. No other bank, register, control register or byte of memory
changes, and the entry is gone (R62, R68, R74, R268 to R271). The values and flags of the encodings are the model's
readings (log entry 44). -/
def Obligations.BankMovesStartAndTakeTheirEffect : Prop :=
  (∀ (s : State) (a : Agent) (e : Entry), (s.getCore a).entries = [e] → e.started = false →
     s.issueHalted = false → (s.getCore a).going = true → (s.getCore a).arrayBusy = false → s.outrun a 0 e = false →
     (match e.instr with
       | .mzero _ | .mld _ _ | .mst _ _ _ _ | .amov _ _ _ => e.ready = false
       | .mmat _ _ _ | .mred _ _ _ => e.met = true
       | _ => False) →
     GoesOn (exec (.matrixOperationStart a 0) s) fun t =>
       t = s.setCore { s.getCore a with entries := [{ e with started := true }] }) ∧
  (∀ (s : State) (a : Agent) (e : Entry) (b : Acc), (s.getCore a).entries = [e] → e.started = true →
     (s.getCore a).scratch.wf = true →
     let c := s.getCore a
     let o := fld e.ops.b 20 0
     let kept := fun (t : State) => t.mem = s.mem ∧ (t.getCore a).entries = [] ∧ (t.getCore a).pc = c.pc ∧
       (t.getCore a).regs = { c.regs with acc := (t.getCore a).regs.acc, v := (t.getCore a).regs.v } ∧
       (t.getCore a).csr = { c.csr with nflags := (t.getCore a).csr.nflags } ∧
       ∀ x, x ≠ b → (t.getCore a).regs.acc.get x = c.regs.acc.get x
     (e.instr = .mzero b → GoesOn (exec (.matrixOperationCompletes a 0) s) fun t => kept t ∧
       (∀ (i : Fin 64) (j : Fin 80), (((t.getCore a).regs.acc.get b).get i).get j = 0) ∧
       (t.getCore a).scratch = c.scratch ∧ (t.getCore a).regs.v = c.regs.v ∧ (t.getCore a).csr = c.csr) ∧
     (∀ x, e.instr = .mld b x → GoesOn (exec (.matrixOperationCompletes a 0) s) fun t => kept t ∧
       (∀ (i : Fin 64) (j : Fin 80), (((t.getCore a).regs.acc.get b).get i).get j =
         BitVec.ofNat 32 (c.scratch.readNat (o + 320 * i.val + 4 * j.val) 4)) ∧
       (t.getCore a).scratch = c.scratch ∧ (t.getCore a).regs.v = c.regs.v ∧ (t.getCore a).csr = c.csr) ∧
     (∀ d (col : Fin 80), e.instr = .amov d b col.val → GoesOn (exec (.matrixOperationCompletes a 0) s) fun t =>
       kept t ∧ (∀ i : Fin 64, lane ((t.getCore a).regs.v.get d) 32 i.val = ((c.regs.acc.get b).get i).get col) ∧
       (∀ v, v ≠ d → (t.getCore a).regs.v.get v = c.regs.v.get v) ∧ (t.getCore a).regs.acc = c.regs.acc ∧
       (t.getCore a).scratch = c.scratch ∧ (t.getCore a).csr = c.csr) ∧
     ∀ f r x, e.instr = .mst f r b x → GoesOn (exec (.matrixOperationCompletes a 0) s) fun t =>
       let rb := rowBytes (fmtEl f) 80
       let row := fun i : Nat => encodeRow f c.gens r (c.regs.acc.get b) i
       kept t ∧ (t.getCore a).regs = c.regs ∧
       (∀ i < 64, (t.getCore a).scratch.readBytes (o + i * rb) rb = bytesOfNat rb (row i).2.1) ∧
       (∀ p, p < o ∨ o + 64 * rb ≤ p → (t.getCore a).scratch.read p = c.scratch.read p) ∧
       (∀ q < 64, (t.getCore a).csr.nflags.getLsbD q =
         (c.csr.nflags.getLsbD q || (List.range 64).any fun i => (row i).2.2.getLsbD q)) ∧
       (t.getCore a).gens = { c.gens with row := (t.getCore a).gens.row } ∧
       (∀ i : Fin 64, (t.getCore a).gens.row.get i = (row i.val).1.row.get i) ∧
       (r ≠ .sr → (t.getCore a).gens = c.gens) ∧
       (f = .fp32 ∨ f = .int32 → (t.getCore a).csr = c.csr ∧
         ∀ (i : Fin 64) (j : Fin 80), (t.getCore a).scratch.readNat (o + 320 * i.val + 4 * j.val) 4 =
           (((c.regs.acc.get b).get i).get j).toNat) ∧
       (f = .int8 → ∀ (i : Fin 64) (j : Fin 80), (t.getCore a).scratch.read (o + 80 * i.val + j.val) =
         BitVec.ofInt 8 (max (-128) (min 127 (((c.regs.acc.get b).get i).get j).toInt))))

namespace Sys2Proof.Machine

/-- An accumulator that takes one sum after another, each saturated, and whether a saturation changed a sum (R77). -/
def satSums (start : Int) (ds : List Int) : Int × Bool :=
  ds.foldl (fun p d => let v := max (-2 ^ 31) (min (2 ^ 31 - 1) (p.1 + d))
                       (v, p.2 || decide (v ≠ p.1 + d))) (start, false)

/-- An exact sum, from its first term (R72, R76). -/
def exactSum : List Num → Num
  | [] => .fin false 0 0
  | x :: rest => rest.foldl Num.add x

/-- An FP32 accumulator that takes one group of products after another, each sum rounded once, with its flags (R76). -/
def groupSums (start : Word32) (gs : List (List (Num × Num))) : Word32 × Flags :=
  gs.foldl (fun p xs =>
    let r := (num32 p.1).add (exactSum (xs.map fun q => q.1.mul q.2))
    ((rne32 r).1, p.2 ||| (rne32 r).2 ||| nvFlag (num32 p.1 :: xs.flatMap fun q => [q.1, q.2]) r)) (start, 0)

/-- What a function of k gives for each k-group below n, in ascending order (R76). -/
def kGroups {α : Type} (n : Nat) (f : Nat → α) : List (List α) :=
  (List.range ((n + 15) / 16)).map fun g => (List.range (min 16 (n - 16 * g))).map fun q => f (16 * g + q)

/-- Element (o, k) of a dense operand in scratch, of no rows across K and nk along it: its rows run along K, or across
it (R254). -/
def storedElement (m : Memory) (f : ElFmt) (base : Nat) (alongK : Bool) (no nk o k : Nat) : Num :=
  if alongK then (f.decode nk (m.readNat (base + o * rowBytes f nk) (rowBytes f nk))).getD k (.fin false 0 0)
  else (f.decode no (m.readNat (base + k * rowBytes f no) (rowBytes f no))).getD o (.fin false 0 0)

end Sys2Proof.Machine

/-- An `mma` of operands in scratch as it completes, in either layout and with any K: each element of its region becomes
its start with every k-group added, of INT8 operands with the sums saturated group by group, of two floating formats
with each group's exact sum rounded once; a saturation that changes a sum sets ISAT, and a rounding sets its flags.
Every element outside the region, every other bank, every register and control register and every byte of memory stay
(R76, R77, R254, R263). The order of an exact sum with zeros of both signs, and the rule for NV, are the model's
readings (log entry 44). -/
def Obligations.IntegerProductsFillTheirRegion : Prop :=
  ∀ (s : State) (a : Agent) (e : Entry) (b : Acc) x p, (s.getCore a).entries = [e] →
    e.started = true → e.instr = .mma b x p → cwLA e.cfg0 = false →
    cwLB e.cfg0 = false → cwM e.cfg0 ≤ 64 → cwN e.cfg0 ≤ 80 →
    let c := s.getCore a
    let cw := e.cfg0
    let start := fun i j : Nat => if cwACC cw then bankAt (c.regs.acc.get b) i j else 0
    let done := fun (element : Nat → Nat → Word32) (t : State) =>
      (∀ (i : Fin 64) (j : Fin 80), (((t.getCore a).regs.acc.get b).get i).get j =
        if i.val < cwM cw ∧ j.val < cwN cw then element i.val j.val else ((c.regs.acc.get b).get i).get j) ∧
      (∀ y, y ≠ b → (t.getCore a).regs.acc.get y = c.regs.acc.get y) ∧ (t.getCore a).entries = [] ∧
      (t.getCore a).regs = { c.regs with acc := (t.getCore a).regs.acc } ∧
      (t.getCore a).csr = { c.csr with nflags := (t.getCore a).csr.nflags } ∧
      (t.getCore a).pc = c.pc ∧ (t.getCore a).scratch = c.scratch ∧ t.mem = s.mem
    (∀ A B : Nat → Nat → Int, cwFA cw = 10 → cwFB cw = 10 →
      (∀ i k, A i k = (c.scratch.read (fld e.ops.b 20 0 +
        if cwTA cw then k * cwM cw + i else i * e.k + k)).toInt) →
      (∀ k j, B k j = (c.scratch.read (fld e.ops.c 20 0 +
        if cwTB cw then j * e.k + k else k * cwN cw + j)).toInt) →
      let sums := fun i j : Nat =>
        satSums (start i j).toInt ((kGroups e.k fun k => A i k * B k j).map List.sum)
      GoesOn (exec (.matrixOperationCompletes a 0) s) fun t =>
        done (fun i j => BitVec.ofInt 32 (sums i j).1) t ∧
        ∀ q < 64, (t.getCore a).csr.nflags.getLsbD q = (c.csr.nflags.getLsbD q ||
          (q == 5 && (List.range (cwM cw)).any fun i => (List.range (cwN cw)).any fun j => (sums i j).2))) ∧
    (cwFA cw ≤ 9 → cwFB cw ≤ 9 →
      let A := storedElement c.scratch (elOfCode (cwFA cw)) (fld e.ops.b 20 0) (!cwTA cw) (cwM cw) e.k
      let B := storedElement c.scratch (elOfCode (cwFB cw)) (fld e.ops.c 20 0) (cwTB cw) (cwN cw) e.k
      let sums := fun i j : Nat => groupSums (start i j) (kGroups e.k fun k => (A i k, B j k))
      GoesOn (exec (.matrixOperationCompletes a 0) s) fun t =>
        done (fun i j => (sums i j).1) t ∧
        ∀ q < 64, (t.getCore a).csr.nflags.getLsbD q = (c.csr.nflags.getLsbD q ||
          (List.range (cwM cw)).any fun i => (List.range (cwN cw)).any fun j => (sums i j).2.getLsbD q))

/-- Team instructions meet: when every member's instruction of one number stands ready, with equal fields and no
length above the team, their rendezvous forms, in one step and for every member. The first member of a chain of `mred`
sends its bank to the next rank as it completes; a message of the rank before, once there, is combined with the own
bank, and the sum goes on to the member of the next rank, or nowhere at the end of the chain; a member beyond the last
whole chain only completes (R265 to R267). -/
def Obligations.TeamInstructionsMeet : Prop :=
  (∀ (s : State) (t : Team) (n : Nat) key, s.teamOf t.id = some t → 0 < t.size → s.issueHalted = false →
    (∀ a ∈ t.members, ∃ e, (s.getCore a).teamHead = some e ∧ e.seq = n ∧ e.ready = true ∧ teamKey e = key ∧
      lenAbove t.size e = false) →
    GoesOn (exec (.teamRendezvous t.id) s) fun u => u.mem = s.mem ∧
      (∀ a ∈ t.members, ∃ e ∈ (u.getCore a).entries, e.seq = n ∧ e.met = true ∧ isTeamOp e.instr = true) ∧
      ∀ a, a ∉ t.members → u.getCore a = s.getCore a) ∧
  (∀ (s : State) (a : Agent) (e : Entry) i32 b len, (s.getCore a).entries = [e] → e.instr = .mred i32 b len →
    e.started = true → chainPlace (s.teamSize (s.getCore a)) len (s.getCore a).rank = none →
    GoesOn (exec (.matrixOperationCompletes a 0) s) fun u => u.mem = s.mem ∧ (u.getCore a).entries = [] ∧
      (u.getCore a).regs = (s.getCore a).regs ∧ ∀ x, x ≠ a → u.getCore x = s.getCore x) ∧
  ∀ (s : State) (a next : Agent) (e : Entry) (k : Task) (t : Team) i32 b len place, (s.getCore a).entries = [e] →
    e.instr = .mred i32 b len → e.started = true → (s.getCore a).task = some k → s.teamOf k.team = some t →
    next = t.member (k.rank + 1) → next ≠ a → chainPlace t.size len k.rank = some place →
    let c := s.getCore a
    let passesOn := fun (u : State) (bank : Bank) =>
      (u.getCore next).mredBanks =
          (s.getCore next).mredBanks ++ (if place + 1 < len then [(e.seq, bank)] else []) ∧
        ∀ x, x ≠ a → (x = next → ¬ place + 1 < len) → u.getCore x = s.getCore x
    (place = 0 → GoesOn (exec (.matrixOperationCompletes a 0) s) fun u => u.mem = s.mem ∧ (u.getCore a).entries = [] ∧
      (u.getCore a).regs = c.regs ∧ (u.getCore a).scratch = c.scratch ∧ (u.getCore a).mredBanks = c.mredBanks ∧
      passesOn u (c.regs.acc.get b)) ∧
    ∀ tag got, 0 < place → c.mredBanks.find? (fun m => m.1 == e.seq) = some (tag, got) →
      GoesOn (exec (.mredMessage a) s) fun u =>
        let sum := combine i32 got (c.regs.acc.get b)
        u.mem = s.mem ∧ (u.getCore a).entries = [] ∧ (u.getCore a).regs.acc.get b = sum.1 ∧
        (∀ x, x ≠ b → (u.getCore a).regs.acc.get x = c.regs.acc.get x) ∧
        (u.getCore a).csr = { c.csr with nflags := c.csr.nflags ||| sum.2 } ∧
        (u.getCore a).regs.v = c.regs.v ∧ (u.getCore a).scratch = c.scratch ∧
        (u.getCore a).mredBanks = c.mredBanks.filter (fun m => m.1 != e.seq) ∧ passesOn u sum.1

/-! ## Routing and merging -/

namespace Sys2Proof.Machine

/-- An engine operation issues after the core's earlier accesses, outside a transaction, with room in the range-lock
table (R163, R170, R208). -/
def EngineMayIssue (c : Core) : Prop :=
  c.engineReady = true ∧ c.accessesDone false = true ∧ c.tx.depth = 0 ∧ c.locks.length ≤ 60

end Sys2Proof.Machine

/-- `route` and `rtbl` that pass their checks enter the queue of their die's routing engine with their captured
record; `mrg` takes the merge engine, places its matrix work in stream 3, fills its map slot and leases a3; `umrg`
takes a transfer id and pushes it; `rmstat` makes t0 pending. None of them moves anything yet (R309, R311, R317, R320,
R327, R335). -/
def Obligations.RoutingAndMergeInstructionsEnterTheirEngine : Prop :=
  ∀ (s : State) (x : Src) (r : List Word), s.core.tx.depth = 0 →
    (s.core.CanRead [x] (namesOf [x]) → EngineMayIssue s.core →
      (∀ k, s.core.routeCheck (s.core.value x) = .ok (r, k) → GoesOn (exec (.route x) s) fun t =>
        t.core.pc = s.core.nextPc ∧ t.mem = s.mem ∧ t.core.regs = s.core.regs ∧ t.core.scratch = s.core.scratch ∧
        ∃ o : DieOp, (t.die (dieOf s.core.who)).routes = (s.die (dieOf s.core.who)).routes ++ [o] ∧
          o.who = s.core.who ∧ o.op.instr = .route x ∧ o.op.tag = s.serial ∧
          o.op.recs = r ++ s.activeTable s.core (rtSlot r)) ∧
      (∀ o, s.core.recordCheck (s.core.value x) 16 false = .ok o → r = s.core.scratch.words o 2 →
        tableRecOk r = true → (tbNow r = true ∨ ∀ k, s.core.task = some k → k.gang = true) →
        GoesOn (exec (.rtbl x) s) fun t =>
          t.core.pc = s.core.nextPc ∧ t.mem = s.mem ∧ t.core.regs = s.core.regs ∧ t.core.scratch = s.core.scratch ∧
          ∃ o : DieOp, (t.die (dieOf s.core.who)).routes = (s.die (dieOf s.core.who)).routes ++ [o] ∧
            o.who = s.core.who ∧ o.op.instr = .rtbl x ∧ o.op.tag = s.serial ∧ o.op.recs = r) ∧
      (∀ n0 ns, s.core.umrgCheck (s.core.value x) = .ok (r, n0, ns) → s.core.idFree = true →
        GoesOn (exec (.umrg x) s) fun t => t.core.pc = s.core.nextPc ∧ t.mem = s.mem ∧
          s.core.Inserted t.core { value := s.core.csr.xnext.setWidth 64 } ∧ t.core.csr.xnext = s.core.csr.xnext + 1 ∧
          t.core.scratch = s.core.scratch ∧
          ∃ op, t.core.chan = s.core.chan ++ [op] ∧ op.id = s.core.csr.xnext ∧ op.instr = .umrg x ∧ op.recs = r)) ∧
    (s.core.CanRead [x] (namesOf [x] ++ [.acc 3]) → EngineMayIssue s.core → s.core.mrgCheck (s.core.value x) = .ok r →
      mgSlot r < 8 → GoesOn (exec (.mrg x) s) fun t =>
        t.core.pc = s.core.nextPc ∧ t.mem = s.mem ∧ t.core.regs = s.core.regs ∧ t.core.scratch = s.core.scratch ∧
        t.core.leased (.acc 3) = true ∧ t.core.slotBusy (mgSlot r) = true ∧ t.core.slotLive (mgSlot r) = false ∧
        (∃ op, t.core.merge = some op ∧ op.instr = .mrg x ∧ op.recs = r ∧ op.tag = s.serial) ∧
        ∃ e, t.core.streams.get 2 = s.core.streams.get 2 ++ [e] ∧ e.instr = .mrg x ∧ e.tag = s.serial) ∧
    (∀ o, s.core.CanRead [x] (namesOf [x]) → s.core.recordOut (s.core.value x) 32 = .ok o → s.core.entryRoom = true →
      GoesOn (exec (.rmstat x) s) fun t => t.core.pc = s.core.nextPc ∧ t.mem = s.mem ∧
        s.core.Inserted t.core { value := 0, tag := some s.serial } ∧ t.core.scratch = s.core.scratch ∧
        ∃ e, t.core.entries = s.core.entries ++ [e] ∧ e.tag = s.serial ∧ e.instr = .rmstat x ∧
          e.ops.a = s.core.value x)

/-- A route places no pair at a destination at or above NDEST, and with a capacity no expert takes more pairs than it
(R312). The operations of the routing and merge engines complete: a route whose writes do not fault sets its shape
variables to the counts of its destinations and leaves the engine; a table that was read is staged or becomes active;
a merge that ran makes its slot live, clears a3 and ends its lease; a route and a merge do so once their writes are
performed at their scope, at once or later; and `rmstat` stores 32 bytes and returns the status of the latest route
(R156, R163, R314, R317, R320, R332). -/
def Obligations.RoutingAndMergeOperationsComplete : Prop :=
  (∀ (m : Memory) (r table : List Word) (k : Nat), (∀ p ∈ (routed m r table k).placed, p.1 < rtNdest r) ∧
     (rtCap r ≠ 0 → ∀ p ∈ (routed m r table k).used, p.2 ≤ rtCap r)) ∧
  ((∀ (s s1 : State) (die : Nat) (o : DieOp) x r k, (s.die die).routes = [o] → o.op.instr = .route x →
     r = o.op.recs.take 8 → k = (o.op.ops.getD 1 0).toNat → rtSv0 r + rtNsv r ≤ 32 →
     (let out := routed (s.getCore o.who).scratch r (o.op.recs.drop 8) k
      let ended := fun (u t : State) => t.mem = u.mem ∧
       (∀ i : Fin 32, (t.getCore o.who).regs.sv.get i =
         if rtSv0 r ≤ i.val ∧ i.val < rtSv0 r + rtNsv r then BitVec.ofNat 64 (out.count (i.val - rtSv0 r))
         else (u.getCore o.who).regs.sv.get i) ∧
       (∀ l ∈ (t.getCore o.who).locks, l.own ≠ o.op.tag) ∧
       (t.die die).routes = (u.die die).routes.drop 1
      (o.op.wrote = false → s.writeSpans o.who o.op.scope
         [(rtOut r, out.lists (rtNdest r)), (rtCnt r, out.table (rtNdest r) (rtNtok r))] = .ok (s1, none) →
       if s1.scopeDone true o.op.scope = true then GoesOn (exec (.routeCompletion die) s) (ended s1)
       else exec (.routeCompletion die) s = .next (s1.routeWrote die false)) ∧
      (o.op.wrote = true → o.op.status = 0 → s.scopeDone true o.op.scope = true →
       GoesOn (exec (.routeCompletion die) s) (ended s)))) ∧
   (∀ (s s1 : State) (o : DieOp) x bs die, die = dieOf o.who → (s.die die).routes = [o] → o.op.instr = .rtbl x →
     s.engRead o.who (s.getCore o.who).asid (tbImg o.op.recs) (8 * tbNexp o.op.recs) = .ok (s1, bs) →
     (wordsOf bs).all tableEntryOk = true →
     GoesOn (exec (.tableStaged die) s) fun t => t.mem = s1.mem ∧ (t.die die).routes = (s1.die die).routes.drop 1 ∧
       ∃ tb ∈ (t.die die).tables, tb.launch = (s.getCore o.who).launchId ∧ tb.slot = tbSlot o.op.recs ∧
         tb.active = tbNow o.op.recs ∧ tb.layer = tbLayer o.op.recs ∧ tb.words = wordsOf bs) ∧
   (∀ (s : State) (a : Agent) (e : Entry) x, (s.getCore a).entries = [e] → e.instr = .rmstat x →
     (s.getCore a).going = true → s.routesBefore a e.tag = true → (s.getCore a).scratch.wf = true →
     (let c := s.getCore a
      let o := fld e.ops.a 20 0
      GoesOn (exec (.rmstatCompletion a e.tag) s) fun t => t.mem = s.mem ∧ (t.getCore a).entries = [] ∧
       (∀ b, b < o ∨ o + 32 ≤ b → (t.getCore a).scratch.read b = c.scratch.read b) ∧
       (t.getCore a).scratch.word o = c.lastStat e.tag 0 ∧ (t.getCore a).scratch.word (o + 8) = c.lastStat e.tag 1 ∧
       (t.getCore a).scratch.word (o + 24) = c.lastStat e.tag 4 ∧
       ∀ i : Fin 16, (t.getCore a).regs.train.get i =
         if (c.regs.train.get i).tag = some e.tag then { value := c.lastStat e.tag 2 } else c.regs.train.get i)) ∧
   ∀ (s s1 : State) (a : Agent) (op : EngOp) (m : Merged) x, (s.getCore a).merge = some op → op.cancelled = false →
     let ended := fun (u t : State) => t.mem = u.mem ∧ (t.getCore a).merge = none ∧
       (∀ (i : Fin 64) (j : Fin 80), (((t.getCore a).regs.acc.get 3).get i).get j = 0) ∧
       (∀ b : Acc, b ≠ 3 → (t.getCore a).regs.acc.get b = (u.getCore a).regs.acc.get b) ∧
       (∀ l ∈ (t.getCore a).leases, l.own ≠ op.tag) ∧ (∀ l ∈ (t.getCore a).slotLocks, l.own ≠ op.tag) ∧
       (mgSlot op.recs < 8 → (t.getCore a).slotLive (mgSlot op.recs) = true ∧
         (t.getCore a).slotBusy (mgSlot op.recs) = false ∧ (t.getCore a).slotLost (mgSlot op.recs) = false)
     (op.wrote = false → s.issueHalted = false → (∀ e ∈ (s.getCore a).streams.get 2, e.tag ≠ op.tag) →
       s.mergeRun a op.recs op.scope = .ok (s1, x) → x.map = some m → x.fault = none →
       if s1.scopeDone true op.scope = true then GoesOn (exec (.mrgCompletion a) s) (ended s1)
       else GoesOn (exec (.mrgCompletion a) s) fun t => t.mem = s1.mem ∧
         (t.getCore a).merge = some { op with wrote := true, status := x.status, part := 1 }) ∧
     (op.wrote = true → op.part = 1 → s.scopeDone true op.scope = true →
       GoesOn (exec (.mrgCompletion a) s) (ended s)))

/-! ## Windows and the chime -/

/-- `xsend` and `xrecv` before their window starts queue their span in the window and make t0 pending; after it they
push its status at once (that it stands there at once, and not as a pending value, is the model's reading, log entry
32); the window takes what its source has queued, its payload leaves, and it stands at an armed destination, whose
header lands (R347, R350). -/
def Obligations.WindowsMoveTheirPayload : Prop :=
  (∀ (s : State) (l : Launch) (x y : Src) (w i : Nat) (win : Win), EngineMayIssue s.core → s.core.isSup = false →
    s.stand s.core = some l → s.core.entryRoom = true → fld (s.core.value x) 63 24 = 0 →
    (s.core.CanRead [x, y] (namesOf [x, y]) → s.winOf l w true = some (i, win) →
      (s.core.value y).toNat < 2 ^ 32 → win.send = none →
      (let o := fld (s.core.value x) 20 0
       let m := min (s.core.value y).toNat win.cap
       o + m ≤ s.core.top → s.core.rangeLocked false o m false = false →
       if l.reachedStart win s.time = true then
        GoesOn (exec (.xsend x y w) s) fun t => OnlyCore s t ∧ s.core.RetiredFrom t.core ∧
          s.core.Inserted t.core { value := 5 }
       else GoesOn (exec (.xsend x y w) s) fun t => t.core.pc = s.core.nextPc ∧ t.mem = s.mem ∧
          s.core.Inserted t.core { value := 0, tag := some s.serial } ∧ t.core.scratch = s.core.scratch ∧
          ∃ l', t.launchOf l.id = some l' ∧
            l'.wins[i]? = some { win with send := some (o, m, (s.core.value y).toNat, s.serial) })) ∧
    (s.core.CanRead [x] (namesOf [x]) → s.winOf l w false = some (i, win) → win.recv = none →
      (let o := fld (s.core.value x) 20 0
       0x4800 ≤ o → o + win.cap ≤ s.core.top → s.core.rangeLocked false o win.cap true = false →
       if l.reachedStart win s.time = true then
        GoesOn (exec (.xrecv x w) s) fun t => OnlyCore s t ∧ s.core.RetiredFrom t.core ∧
          s.core.Inserted t.core { value := BitVec.ofNat 64 (2 ^ 40) }
       else GoesOn (exec (.xrecv x w) s) fun t => t.core.pc = s.core.nextPc ∧ t.mem = s.mem ∧
          s.core.Inserted t.core { value := 0, tag := some s.serial } ∧ t.core.scratch = s.core.scratch ∧
          ∃ l', t.launchOf l.id = some l' ∧ l'.wins[i]? = some { win with recv := some (o, s.serial) }))) ∧
  ∀ (s : State) (l : Launch) (w : Nat) (x : Win),
    (s.winDue l.id w (fun _ => 0) = some (l, x) → x.header = none →
      GoesOn (exec (.windowStart l.id w) s) fun t => t.mem = s.mem ∧ ∃ l', t.launchOf l.id = some l' ∧
        l'.wins[w]? = some { x with header := some (match x.send with
          | none => header 5 0
          | some (_, m, n, _) => header (if x.cap < n then 4 else 0) m) }) ∧
    (∀ o m n tag a e, s.winDue l.id w (fun x => x.len - 1) = some (l, x) → x.header ≠ none → x.sent = false →
      x.send = some (o, m, n, tag) → s.standMember l.id x.src = some a → (s.getCore a).entry tag = some e →
      (∃ p q k, e.instr = .xsend p q k) →
      GoesOn (exec (.lastPayloadBeat l.id w) s) fun t => t.mem = s.mem ∧
        (∃ l', t.launchOf l.id = some l' ∧
          l'.wins[w]? = some { x with sent := true, data := (s.getCore a).scratch.readBytes o m }) ∧
        (∀ k ∈ (t.getCore a).locks, k.own ≠ tag) ∧ (t.getCore a).scratch = (s.getCore a).scratch ∧
        ∀ i : Fin 16, (t.getCore a).regs.train.get i =
          if ((s.getCore a).regs.train.get i).tag = some e.tag then { value := if x.cap < n then 4 else 0 }
          else (s.getCore a).regs.train.get i) ∧
    (∀ o tag a e h, s.winDue l.id w (fun x => x.len + s.winH l.id x) = some (l, x) → x.sent = true → x.ended = false →
      x.recv = some (o, tag) → x.header = some h → s.standMember l.id x.dst = some a →
      (s.getCore a).entry tag = some e → (∃ p k, e.instr = .xrecv p k) → (s.getCore a).scratch.wf = true →
      GoesOn (exec (.windowEnd l.id w) s) fun t => t.mem = s.mem ∧
        (∀ j < x.data.length, (t.getCore a).scratch.read (o + j) = x.data.getD j 0) ∧
        (∀ b, b < o ∨ o + x.data.length ≤ b → (t.getCore a).scratch.read b = (s.getCore a).scratch.read b) ∧
        (∃ l', t.launchOf l.id = some l' ∧ l'.wins[w]? = some { x with ended := true, data := [] }) ∧
        ∀ i : Fin 16, (t.getCore a).regs.train.get i =
          if ((s.getCore a).regs.train.get i).tag = some e.tag then { value := h }
          else (s.getCore a).regs.train.get i)

/-- `chime` and `chimex` block their core; once every member of the stand has arrived with one layer, and their
releases are performed, the superstep counts on and every member goes on after its chime in one step; the start
release starts every member of an admitted stand; where the chimes given differ every member at its chime takes TEAM
there; and the messages of a chime between modules are kept, or open the stand, as they arrive; a release that finds a
member not at its chime waits for it (R18 to R20, R26, R348, R352, R418). What the modules of a stand tell each other
is the model's reading (log entry 59). -/
def Obligations.ChimesReleaseTheirStand : Prop :=
  (∀ (s : State) (l : Launch), s.core.inHandler = false → s.core.tx.depth = 0 → s.core.isSup = false →
    s.stand s.core = some l →
    exec .chime s = .next { s with core := { s.core with run := .blocked (.chime none) } } ∧
    ∀ x, s.core.CanRead [x] (namesOf [x]) → (s.core.value x).toNat < 2 ^ 16 →
      exec (.chimex x) s =
        .next { s with core := { s.core with run := .blocked (.chime (some ((s.core.value x).setWidth 16))) } }) ∧
  (∀ (s s1 : State) (l : Launch) layer, s.launchOf l.id = some l → s.shareArrived l = true → s1 = s.shareRelease l →
    s1.releaseDone l.scope = true → s1.isRoot l = true → s1.modulesArrived l = true →
    s1.shareLayers l ++ (s1.chimesOf l.id).flatMap Prod.snd ≠ [] →
    (∀ x ∈ s1.shareLayers l ++ (s1.chimesOf l.id).flatMap Prod.snd, x = layer) →
    GoesOn (exec (.chimeRelease l.id) s) fun t =>
      (∃ l', t.launchOf l.id = some l' ∧ l'.superstep = l.superstep + 1 ∧ l'.released = some s.time ∧
        l'.wins = l.wins.map Win.fresh) ∧
      ∀ a ∈ s.standMembers l.id, (∃ y, (s.getCore a).run = .blocked (.chime y)) →
        (t.getCore a).run = .running ∧ (t.getCore a).pc = (s.getCore a).nextPc ∧
        (t.getCore a).regs = (s.getCore a).regs ∧ (t.getCore a).scratch = (s.getCore a).scratch) ∧
  (∀ (s : State) (l : Launch), s.launchOf l.id = some l → l.released = none → l.admitted = true →
    s.standMembers l.id ≠ [] → (∀ a ∈ s.standMembers l.id, (s.getCore a).awaitsStart = true) → s.isRoot l = true →
    s.modulesArrived l = true →
    GoesOn (exec (.startRelease l.id) s) fun t => t.mem = s.mem ∧
      (∃ l', t.launchOf l.id = some l' ∧ l'.released = some s.time) ∧
      ∀ a ∈ s.standMembers l.id, (t.getCore a).run = .running ∧ (t.getCore a).pc = (s.getCore a).pc ∧
        (t.getCore a).regs = (s.getCore a).regs) ∧
  (∀ (s : State) launch module given, exec (.chimearr launch module given) s =
    .next { s with ports := { s.ports with chimes := s.ports.chimes ++ [(launch, module, given)] } }) ∧
  (∀ (s : State) (l : Launch) (i : Instr), s.launchOf l.id = some l →
    (∀ a ∈ s.standMembers l.id, (s.getCore a).entries = [] ∧ (s.getCore a).isSup = false ∧ (s.getCore a).tx.depth = 0) →
    (i = .chimerel l.id none ∧ s.isRoot l = false ∧ l.chimeSent = true ∨
      i = .chimeRelease l.id ∧ (∀ k ∈ s.clusters, k.lines = []) ∧ s.releaseDone l.scope = true ∧
        s.shareArrived l = true ∧ s.isRoot l = true ∧ s.modulesArrived l = true ∧
        ∃ x ∈ s.shareLayers l ++ (s.chimesOf l.id).flatMap Prod.snd,
          ∃ y ∈ s.shareLayers l ++ (s.chimesOf l.id).flatMap Prod.snd, x ≠ y) →
    GoesOn (exec i s) fun t => t.mem = s.mem ∧ ∀ a ∈ s.standMembers l.id, ∀ y, (s.getCore a).run = .blocked (.chime y) →
      (t.getCore a).run = .parked ∧ (t.getCore a).frame.code = .team ∧ (t.getCore a).frame.resume = (s.getCore a).pc ∧
        (t.getCore a).regs = (s.getCore a).regs) ∧
  ∀ (s : State) (l : Launch) layer, s.launchOf l.id = some l → s.isRoot l = false → l.chimeSent = true →
    l.released ≠ none →
    (s.shareArrived l = true → GoesOn (exec (.chimerel l.id (some layer)) s) fun t =>
      (∃ l', t.launchOf l.id = some l' ∧ l'.superstep = l.superstep + 1 ∧ l'.released = some s.time) ∧
      ∀ a ∈ s.standMembers l.id, (∃ y, (s.getCore a).run = .blocked (.chime y)) →
        (t.getCore a).run = .running ∧ (t.getCore a).pc = (s.getCore a).nextPc) ∧
    (s.shareArrived l = false →
      exec (.chimerel l.id (some layer)) s = .next (s.setLaunch { l with told := some layer }))

/-! ## Counted transfers, remote scratch, queues and walks -/

namespace Sys2Proof.Machine

/-- The instructions that send from own scratch under a transfer id, with the record that their checks give (R353, R361,
R376). -/
inductive SendForm (s : State) : Instr → Src → Src → List Word → Prop where
  | xput (x y : Src) (r : List Word) (n : Nat) (h : s.xputCheck (s.core.value x) (s.core.value y) = .ok (r, n)) :
      SendForm s (.xput x y) x y r
  | renq (x y : Src) (r : List Word) (h : s.core.renqCheck (s.core.value x) (s.core.value y) = .ok r) :
      SendForm s (.renq x y) x y r
  | wenq (x y : Src) (r : List Word) (h : s.core.wenqCheck (s.core.value x) (s.core.value y) = .ok r) :
      SendForm s (.wenq x y) x y r
  | launch (x y : Src) (r : List Word) (h : s.core.renqCheck (s.core.value x) (s.core.value y) = .ok r) :
      SendForm s (.launch x y) x y r

end Sys2Proof.Machine

/-- A counted transfer, or a record for a queue, that passes its checks takes the next transfer id and pushes it;
nothing of memory, of a register but the train, or of a control register but XNEXT changes besides (R227, R353, R361,
R376). -/
def Obligations.SendingInstructionsTakeAnId : Prop :=
  ∀ (s : State) (i : Instr) x y r, SendForm s i x y r → s.core.CanRead [x, y] (namesOf [x, y]) →
    EngineMayIssue s.core → s.core.idFree = true →
    GoesOn (exec i s) fun t => t.core.pc = s.core.nextPc ∧ t.mem = s.mem ∧ t.others = s.others ∧
      s.core.Inserted t.core { value := s.core.csr.xnext.setWidth 64 } ∧
      t.core.csr = { s.core.csr with xnext := s.core.csr.xnext + 1 } ∧ t.core.scratch = s.core.scratch ∧
      t.core.regs = { s.core.regs with train := t.core.regs.train, shadow := t.core.regs.shadow } ∧
      t.core.leases = s.core.leases ∧
      ∃ op, t.core.chan = s.core.chan ++ [op] ∧ op.id = s.core.csr.xnext ∧ op.instr = i ∧ op.recs = r ∧
        op.moved = false ∧ op.done = false

/-- A remote store and a remote load to a core of the same team or stand enter with their captured operands, the load
leasing its register; the store, the first to land in its cycle, stands in the target's scratch and in no other byte
of it, its acknowledgement ends it, and the reply writes the load's register; a counted transfer that its destination
takes stands there with its header, and its locks end (R169, R353 to R356). A load sees of an escapement the fields
of one cycle: an update of the cycle at hand is not seen yet (R95, R101). -/
def Obligations.RemoteScratchIsReadAndWritten : Prop :=
  (∀ (s : State) (x y : Src) (d : Dst) (off : Int), s.core.tx.depth = 0 → s.core.entryRoom = true →
    (s.core.CanRead [x, y] (namesOf [x, y]) → s.handleCheck (s.core.value x) off = .ok () →
      GoesOn (exec (.rput x y off) s) fun t => OnlyCore { s with serial := s.serial + 1 } t ∧
        t.core.pc = s.core.nextPc ∧ t.core.regs = s.core.regs ∧ t.core.scratch = s.core.scratch ∧
        ∃ e, t.core.entries = s.core.entries ++ [e] ∧ e.tag = s.serial ∧ e.instr = .rput x y off ∧
          e.ops = { a := s.core.value x, b := s.core.value y } ∧ e.started = false) ∧
    (s.core.CanRead [x] (.scalar d :: namesOf [x]) → s.handleCheck (s.core.value x) 0 = .ok () →
      GoesOn (exec (.rget d x) s) fun t => OnlyCore { s with serial := s.serial + 1 } t ∧
        t.core.pc = s.core.nextPc ∧ t.core.regs = s.core.regs ∧ t.core.scratch = s.core.scratch ∧
        t.core.leased (.scalar d) = true ∧
        ∃ e, t.core.entries = s.core.entries ++ [e] ∧ e.tag = s.serial ∧ e.instr = .rget d x ∧
          e.ops.b = s.core.value x)) ∧
  (∀ (s : State) (a b : Agent) (e : Entry) x y off o, (s.getCore a).entries = [e] → e.instr = .rput x y off →
    e.started = false → (s.getCore a).going = true → b = .tile (fld e.ops.a 35 24) →
    o = fld (e.ops.a + BitVec.ofInt 64 off) 20 0 → 0x800 ≤ o → o + 8 ≤ (s.getCore b).top →
    (s.getCore b).rangeLocked false o 8 true = false → (∀ l ∈ (s.getCore b).landings, l.time ≠ s.time) →
    (s.getCore b).scratch.wf = true → a ≠ b →
    GoesOn (exec (.rputLanding a e.tag) s) fun t => t.mem = s.mem ∧ (t.getCore b).scratch.word o = e.ops.b ∧
      (∀ p, p < o ∨ o + 8 ≤ p → (t.getCore b).scratch.read p = (s.getCore b).scratch.read p) ∧
      (t.getCore a).entries = [{ e with started := true }]) ∧
  (∀ (s : State) (a : Agent) (e : Entry) x y off, (s.getCore a).entries = [e] → e.instr = .rput x y off →
    e.started = true → exec (.rputAcknowledgement a e.tag) s = .next (s.setCore { s.getCore a with entries := [] })) ∧
  (∀ (s : State) (a : Agent) (e : Entry) d x, (s.getCore a).entries = [e] → e.instr = .rget d x →
    (s.getCore a).going = true →
    (let b := s.getCore (.tile (fld e.ops.b 35 24))
     let o := fld e.ops.b 20 0
     o + 8 ≤ b.top → e.shadow = (s.getCore a).inHandler →
     GoesOn (exec (.rgetReply a e.tag) s) fun t => t.mem = s.mem ∧ (t.getCore a).entries = [] ∧
      (t.getCore a).value (match d with | .k i => .k i | .m i => .m i) =
        (b.seen s.time).scratch.word o ∧
      ∀ l ∈ (t.getCore a).leases, l.own ≠ e.tag)) ∧
  (∀ (c : Core) (time e : Nat) (d : Int), (∀ g ∈ c.gathers, g.time ≠ time) → c.seen time = c ∧
    (c.scratch.wf = true → e < 1024 →
      ∀ p, ((c.bytesOn e time d).seen time).scratch.read p = c.scratch.read p)) ∧
  ∀ (s : State) (a b : Agent) (op : EngOp) x y, (s.getCore a).chan = [op] → op.instr = .xput x y → op.moved = false →
    op.done = false → xpMod op.recs = s.self → b = .tile (xpCore op.recs) → a ≠ b →
    (s.getCore b).scratch.wf = true →
    (let count := (op.ops.getD 1 0).toNat
     let n := min count (xpCap op.recs - 8)
     let o := fld (wordAt op.recs 0) 20 0
     0x4800 ≤ o → (s.getCore b).refuses o (8 + n) = false →
     GoesOn (exec (.xputDelivery a op.id) s) fun t => t.mem = s.mem ∧
      (t.getCore b).scratch.word o = BitVec.ofNat 64 (count + if n < count then 2 ^ 63 else 0) ∧
      (∀ j < n, (t.getCore b).scratch.read (o + 8 + j) =
        (s.getCore a).scratch.read (fld (op.ops.getD 0 0) 20 0 + 8 + j)) ∧
      (∀ p, p < o ∨ o + 8 + n ≤ p → xpEsc op.recs = false ∨ 0x4800 ≤ p →
        (t.getCore b).scratch.read p = (s.getCore b).scratch.read p) ∧
      (∀ l ∈ (t.getCore a).locks, l.own ≠ op.tag) ∧
      (t.getCore a).chan = [{ op with moved := true, status := if n < count then 4 else 0
                                      part := if n < count then count - n else 0 }])

/-- A record of the channel reaches a queue of this module that takes it, and its id completes; another module's
record is kept and answered, the payload of a `wenq` written first, and its answer completes an id here; a pop takes
the oldest record of the core's bound queue and pushes how many are left, and a blocked one goes on when a record is
there (R361, R362, R418). When a value lands and a record enters is the model's reading (log entry 32). -/
def Obligations.QueuesAreFilledAndPopped : Prop :=
  (∀ (s : State) (a : Agent) (op : EngOp) x y (q : Queue), OnlyTransfer (s.getCore a) op → op.moved = false →
    op.instr = .renq x y ∨ op.instr = .launch x y → hdMod (wordAt op.ops 0) = s.self →
    s.queueFor (wordAt op.ops 0) op.instr = some q → q.room = true → s.releaseDone .sys = true →
    GoesOn (exec (.enqueue a op.id) s) fun t => t.mem = s.mem ∧ (t.getCore a).chan = [] ∧
      (t.getCore a).csr.xdone = op.id + 1 ∧ (t.queue q.idx).recs = q.recs ++ [q.keep op.record (op.ops.drop 2)]) ∧
  (∀ (s : State) from_ id handle bs sv, (s.queue (hdIdx handle)).en = true →
    (s.queue (hdIdx handle)).gen = hdGen handle → (s.queue (hdIdx handle)).room = true →
    ((sv = [] ∨ (s.queue (hdIdx handle)).teamBound = false) →
      GoesOn (exec (.qrec from_ handle ⟨id, bs, none⟩ sv) s) fun t => t.mem = s.mem ∧ t.core = s.core ∧
        (∃ l, t.ports.sent = s.ports.sent ++ [(l, .qack from_ id 0)]) ∧
        (t.queue (s.queue (hdIdx handle)).idx).recs =
          (s.queue (hdIdx handle)).recs ++ [(s.queue (hdIdx handle)).keep bs sv]) ∧
    ∀ va data s1, (s.queue (hdIdx handle)).teamBound = true →
      s.writePayload (s.queue (hdIdx handle)) va data = .ok (s1, none) → s1.releaseDone .sys = true →
      GoesOn (exec (.qrec from_ handle ⟨id, bs, some (va, data)⟩ sv) s) fun t => t.mem = s1.mem ∧
        (∃ l, t.ports.sent = s1.ports.sent ++ [(l, .qack from_ id 0)]) ∧
        (t.queue (s.queue (hdIdx handle)).idx).recs =
          (s.queue (hdIdx handle)).recs ++ [(s.queue (hdIdx handle)).keep bs sv]) ∧
  (∀ (s : State) (a : Agent) (op : EngOp), OnlyTransfer (s.getCore a) op → op.moved = true → op.isQueue = true →
    GoesOn (exec (.qack a op.id 0) s) fun t => t.mem = s.mem ∧ (t.getCore a).chan = [] ∧
      (t.getCore a).csr.xdone = op.id + 1 ∧ (t.getCore a).csr.xstat = (s.getCore a).csr.xstat) ∧
  (∀ (s : State) (x : Src) (q : Queue) (o : Nat), s.core.CanRead [x] (namesOf [x]) → s.core.engineReady = true →
    s.core.accessesDone false = true → s.core.inHandler = false → s.core.tx.depth = 0 → s.core.isSup = false →
    s.popCheck (s.core.value x) = .ok (q, o) →
    (q.recs = [] → exec (.qpop x) s = .next { s with core := { s.core with run := .blocked (.qpop (s.core.value x)) } } ∧
      GoesOn (exec (.qtry x) s) fun t => OnlyCore s t ∧ s.core.RetiredFrom t.core ∧
        s.core.Inserted t.core { value := 0 }) ∧
    ∀ r rest, q.recs = r :: rest → ∀ i ∈ [Instr.qpop x, .qtry x], GoesOn (exec i s) fun t =>
      t.core.pc = s.core.nextPc ∧ s.core.Inserted t.core { value := BitVec.ofNat 64 (2 ^ 32 + rest.length) } ∧
      (t.queue q.idx).recs = rest ∧ t.core.scratch = (s.core.storeLocal o r.bytes).scratch ∧
      t.core.regs.k = s.core.regs.k ∧ t.core.regs.m = s.core.regs.m) ∧
  ∀ (s : State) (a : Agent) dst (q : Queue) r rest, (s.getCore a).run = .blocked (.qpop dst) →
    s.boundQueue (s.getCore a) = some q → q.recs = r :: rest → s.popBefore (s.getCore a) = false →
    GoesOn (exec (.qpopWake a) s) fun t => (t.getCore a).run = .running ∧ (t.getCore a).pc = (s.getCore a).nextPc ∧
      (s.getCore a).Inserted (t.getCore a) { value := BitVec.ofNat 64 (2 ^ 32 + rest.length) } ∧
      (t.queue q.idx).recs = rest ∧ (t.getCore a).scratch = ((s.getCore a).storeLocal (fld dst 20 0) r.bytes).scratch

/-- `walk` starts a tile walk with the credit of its slots in every core of its rectangle and in no other; `permit` adds
credit to its own place in a walk; the next tile goes out when every core has credit, and each core then has one less;
the walk goes on once a store is performed at its scope (R163, R357 to R359). -/
def Obligations.WalksDeliverTilesByCredit : Prop :=
  (∀ (s : State) (x : Src) r lay, s.core.CanRead [x] (namesOf [x]) → EngineMayIssue s.core → s.core.isSup = false →
    s.walkCheck (s.core.value x) = .ok (r, lay) → s.clusterWalks (clusterOfAgent s.core.who) < 4 →
    GoesOn (exec (.walk x) s) fun t => OnlyCore s t ∧ t.core.pc = s.core.nextPc ∧ t.core.regs = s.core.regs ∧
      ∃ w, t.core.walks = s.core.walks ++ [w] ∧ w.wid = wkWid r ∧ w.words = r ∧ w.layout = lay ∧ w.next = 0 ∧
        ∀ id n, (id, n) ∈ w.credits ↔ n = (if wkStore r then 0 else wkSlots r) ∧ ∃ x y, wkX0 r ≤ x ∧ x < wkX0 r + wkW r ∧
          wkY0 r ≤ y ∧ y < wkY0 r + wkH r ∧ id = coreAt (dieOf s.core.who) x y) ∧
  (∀ (s : State) (x y : Src) owner w k, s.core.CanRead [x, y] (namesOf [x, y]) → s.core.tx.depth = 0 →
    s.core.isSup = false → s.core.engineReady = true → s.core.accessesDone false = true →
    s.permitWalk (s.core.value x) (s.core.value y) = some (owner, w, k) →
    GoesOn (exec (.permit x y) s) fun t => t.core.pc = s.core.nextPc ∧ t.core.regs = s.core.regs ∧
      t.core.scratch = s.core.scratch ∧ (t.getCore owner).walks = (s.getCore owner).walks.map fun v =>
        if v.wid = w.wid then
          { w with credits := w.credits.map fun p => if p.1 = coreId s.core.who then (p.1, p.2 + k) else p }
        else v) ∧
  ∀ (s s1 : State) (id : Nat) (w : Walk), (s.getCore (.tile id)).walks = [w] → w.wid < 8 →
    let ended := fun (credits : List (Nat × Nat)) (u t : State) => t.mem = u.mem ∧
      (t.getCore (.tile id)).walks = if w.next + 1 = wkNt w.words then [] else
        [{ w with next := w.next + 1, wrote := false, credits := credits }]
    let spent := w.credits.map fun p => (p.1, p.2 - 1)
    (w.wrote = false → (∀ p ∈ w.credits, p.2 ≠ 0) →
      s.moveTile (.tile id) w.words w.layout w.next (wkRing w.words + w.next % wkSlots w.words * wkSb w.words)
        (w.credits.map Prod.fst) = .ok (s1, none) → (s1.getCore (.tile id)).walks = [w] →
      if s1.scopeDone (wkStore w.words) (Lay.scope w.layout) = true then
        GoesOn (exec (.tileDelivery id (Fin.ofNat 8 w.wid)) s) (ended spent s1)
      else GoesOn (exec (.tileDelivery id (Fin.ofNat 8 w.wid)) s) fun t => t.mem = s1.mem ∧
        (t.getCore (.tile id)).walks = [{ w with wrote := true, credits := spent }]) ∧
    (w.wrote = true → s.scopeDone (wkStore w.words) (Lay.scope w.layout) = true →
      GoesOn (exec (.tileDelivery id (Fin.ofNat 8 w.wid)) s) (ended w.credits s))

/-! ## Dispatch -/

/-- `sig`, `carve` and `succ` that pass their checks hold their core until the team, or the release, is done: nothing
but the held chain is recorded (R377, R378, R380). -/
def Obligations.TeamChainsHoldTheirCore : Prop :=
  (∀ (s : State) (x : Src), s.core.CanRead [x] (namesOf [x]) → s.core.tx.depth = 0 → s.core.entryRoom = true →
    (s.core.value x).toNat < 2 ^ 15 →
    exec (.sig x) s = .next { s with core := { s.core with run := .held (.sig x) { a := s.core.value x } } }) ∧
  (∀ (s : State) (x : Src), s.core.CanRead [x] (namesOf [x]) → s.core.tx.depth = 0 → s.core.inHandler = false →
    s.core.isSup = false → s.core.entryRoom = true → carveOk (s.core.value x) = true →
    exec (.carve x) s = .next { s with core := { s.core with run := .held (.carve x) { a := s.core.value x } } }) ∧
  ∀ (s : State) (i : Fin 8) (x y : Src), s.core.CanRead [x, y] (namesOf [x, y]) → s.core.tx.depth = 0 →
    s.core.inHandler = false → s.core.isSup = false → s.core.entryRoom = true → (s.core.value x).toNat < 2 ^ 34 →
    (s.core.value y).toNat < 2 ^ 47 → (lrSucc (s.kernelRec s.core) i.val).getLsbD 63 = true →
    exec (.succ i x y) s = .next { s with core := { s.core with
      run := .held (.succ i x y) { a := BitVec.ofNat 64 i.val, b := s.core.value x, c := s.core.value y } } }

/-- A dispatcher takes the oldest record of its queue as a launch; a launch whose tokens are met and whose checks pass
is ready with all its teams to start; a dispatched team, picked once the probes' walks have read their entries, starts
with its members at the code of their record, with the shape variables of the launch, its constants and identity words
in the constant window, an empty escapement area, the carve of the record, and every other register, the train and the
flags cleared; an admitted gang leaves none of its teams to start; one that spans modules is admitted at the place it
has reserved, where no evicted stand of its level or above waits to return (R24, R81, R96, R97, R364, R365, R370, R372,
R373). The numbers of launches and teams are the model's choice (log entry 4), and the word of the other modules its
reading (log entries 23, 33). -/
def Obligations.LaunchesAreTakenAndStarted : Prop :=
  (∀ (s : State) (n : Nat) (r : QRec) rest, (s.queue n).en = true → (s.queue n).teamBound = false →
    s.dispatcherReady (s.queue n) = true → (s.queue n).recs = r :: rest → r.bytes ≠ [] →
    recordCode (wordsOf r.bytes) (s.queue n).home = 0 →
    GoesOn (exec (.launchRecordTaken n) s) fun t => t.mem = s.mem ∧ t.core = s.core ∧ (t.queue n).recs = rest ∧
      t.launchIds = s.launchIds + 1 ∧ ∃ l, t.launchOf s.launchIds = some l ∧ l.words = wordsOf r.bytes ∧ l.sv = r.sv ∧
        l.queue = n ∧ l.ready = false ∧ l.asid = (s.queue n).asid) ∧
  (∀ (s s1 : State) (l : Launch) sv wr nt cs sch xs, s.launchOf l.id = some l → l.ready = false →
    l.met.all id = true →
    s.prepare true (s.queue l.queue).die (s.queue l.queue).home l.asid l.words l.sv = .ok s1 sv wr nt cs sch xs → 0 < nt →
    GoesOn (exec (.dependencesMet l.id) s) fun t => t.mem = s1.mem ∧ ∃ l', t.launchOf l.id = some l' ∧ l'.ready = true ∧
      l'.sv = sv ∧ l'.nt = nt ∧ l'.todo = List.range nt ∧ l'.consts = cs ∧ l'.sched = sch) ∧
  (∀ (s s1 : State) (c : Cand) passed rounds (n die gx gy : Nat), s1 = s.probed die →
    s1.pick die = some (c, passed, rounds) → c.team = some n →
    s1.rectFree c.launch.id c.launch.prio die gx gy (lrW c.launch.words) (lrH c.launch.words) = true →
    GoesOn (exec (.dispatch c.launch.id n die gx gy) s) fun t => ∃ tm, t.teamOf s1.teamIds = some tm ∧
      tm.launch = c.launch.id ∧ tm.idx = n ∧ tm.die = die ∧ tm.gx = gx ∧ tm.gy = gy ∧
      ∀ a ∈ tm.members, let d := t.getCore a
        d.run = .running ∧ d.pc = lrCode c.launch.words ∧
        (∀ i : Fin 16, d.regs.k.get i = 0 ∧ d.regs.train.get i = {}) ∧ (∀ i : Fin 64, d.regs.m.get i = 0) ∧
        (∀ i, d.regs.v.get i = 0) ∧ (∀ i, i ≠ 0 → d.getF i = 0) ∧
        (∀ x (i : Fin 64) (j : Fin 80), ((d.regs.acc.get x).get i).get j = 0) ∧
        (∀ i : Fin 32, d.regs.sv.get i = c.launch.sv.getD i.val 0) ∧ d.csr.nflags = 0 ∧ d.csr.vcfg = 0 ∧
        d.csr.xnext = 0 ∧ d.csr.xdone = 0 ∧ d.tx.depth = 0 ∧ d.scr = lrScr c.launch.words ∧
        d.entries = [] ∧ d.leases = [] ∧ d.locks = [] ∧ d.chan = [] ∧ d.task.map Task.team = some s1.teamIds ∧
        (∀ j < 248, d.scratch.word (8 * j) = c.launch.consts.getD j 0) ∧
        (∃ r < tm.size, a = tm.member r ∧ d.scratch.word (8 * 248) = BitVec.ofNat 64 r ∧
          d.scratch.word (8 * 250) = BitVec.ofNat 64 (r % tm.w + r / tm.w * 2 ^ 16 + n % 2 ^ 16 * 2 ^ 32)) ∧
        d.scratch.word (8 * 249) = BitVec.ofNat 64 s1.teamIds ∧ d.scratch.word (8 * 251) = BitVec.ofNat 64 n ∧
        ∀ b, 0x800 ≤ b → b < 0x4800 → d.scratch.read b = 0) ∧
  ∀ (s s1 : State) (l : Launch) die passed rounds place, s.launchOf l.id = some l →
    s1 = (if l.spans then s else (List.range 8).foldl State.probed s) →
    (l.spans = false ∧ s1.pickedGang l.id = some (die, passed, rounds) ∨
      l.spans = true ∧ l.place = place ∧ place ≠ [] ∧ l.ready = true ∧ l.admitted = false ∧ s.returning l.prio = false) →
    s1.placeOk { l with place := [] } place = true →
    GoesOn (exec (.admission l.id place) s) fun t =>
      ∃ l', t.launchOf l.id = some l' ∧ l'.admitted = true ∧ l'.todo = [] ∧ l'.place = []

/-- A queued team whose members have ended and are quiet retires, once its release is done and what its launch has to
write can be written: it is gone, and its cores are as after reset, which is the model's choice with the values of log
entry 1, since no rule clears them. A `carve` that every member asks for in the same
words moves every member's granules in one step, or none where it names the carve that stands, and each goes on after
its chain. A team whose members all gave the same `succ`, with a record of the same shape, goes on at the successor's
code with what its masks pass on: of ma its k, m and v groups up to the lower VG of the two kernels, f1 to f7, banks,
and the arithmetic control registers and generators; of mb its scratch granules; with the shape variables, XNEXT,
XDONE, XSTAT and XPART whatever the masks hold, the train and the rest scrubbed, the successor's carve, and its constant
window loaded anew (R96, R98, R113, R374, R378, R380, R382, R383). When a hand-over's waits are over is the model's
reading (log entry 33). -/
def Obligations.TeamsRetireRenegotiateAndHandOver : Prop :=
  (∀ (s s1 : State) (t : Team) (l : Launch), s.teamOf t.id = some t → s.launchOf t.launch = some l →
    lrGang l.words = false → (∀ a ∈ t.members, s.memberDone a = true) → s.windowsEnded l = true →
    (s.releaseTeam t l.scope).releaseDone l.scope = true →
    (s.releaseTeam t l.scope).retireTeams l [t] t.words = .ok s1 →
    GoesOn (exec (.teamRetirement t.id) s) fun u => u = s1 ∧ u.teamOf t.id = none ∧
      ∀ a ∈ t.members, u.getCore a = Core.reset a) ∧
  (∀ (s : State) (t : Team) (v : Word), s.teamOf t.id = some t → 0 < t.size →
    (∀ a ∈ t.members, (s.getCore a).carveAsked = some v ∧ (s.getCore a).vqueue = [] ∧ (s.getCore a).mergesDone = true ∧
      (s.getCore a).topFree (fld v 5 0) = true ∧ (s.getCore a).accessesDone false = true) →
    GoesOn (exec (.carveRenegotiation t.id) s) fun u => ∀ a ∈ t.members,
      (u.getCore a).run = .running ∧ (u.getCore a).pc = (s.getCore a).nextPc ∧ (u.getCore a).scr = fld v 5 0 ∧
      (u.getCore a).regs = (s.getCore a).regs ∧
      if fld v 5 0 = (s.getCore a).scr then
        (u.getCore a).cacheGr = (s.getCore a).cacheGr ∧ (u.getCore a).scratch = (s.getCore a).scratch ∧
          (u.getCore a).granules = (s.getCore a).granules
      else (u.getCore a).cacheGr = 47 - fld v 5 0 ∧ (u.getCore a).granules = [] ∧
        (u.getCore a).scratch = (s.getCore a).scratch.filter fun p => p.1 < fld v 5 0 * 0x4000) ∧
  ∀ (s s1 s2 : State) (t : Team) (l : Launch) (i : Nat) (ma mb : Agent → Word) bs r sv wr n cs sch xs,
    s.teamOf t.id = some t → s.launchOf t.launch = some l → lrGang l.words = false → l.spans = false → 0 < t.size →
    (∀ a ∈ t.members, (s.getCore a).succAsked = some (i, ma a, mb a) ∧ (s.getCore a).accessesDone true = true) →
    s.windowsEnded l = true → s.dieRead t.die l.asid (fld (lrSucc t.words i) 51 0) 256 = .ok (s1, bs) →
    r = wordsOf bs → recordCode r (s.queue l.queue).home = 0 → lrW r = t.w → lrH r = t.h → lrGang r = false →
    (∀ a ∈ t.members, s1.handReady a (ma a) (mb a) (lrScr r) = true) →
    s1.prepare false t.die 15 l.asid r (s1.getCore (t.member 0)).regs.sv.toList = .ok s2 sv wr n cs sch xs →
    (∀ a ∈ t.members, (s2.getCore a).succAsked = some (i, ma a, mb a)) →
    GoesOn (exec (.handOver t.id) s) fun u => ∀ a ∈ t.members, (u.getCore a).run = .running ∧
      (u.getCore a).pc = lrCode r ∧
      let c := s2.getCore a
      let d := u.getCore a
      (∀ k : Fin 16, d.regs.k.get k = if (ma a).getLsbD k.val then c.regs.k.get k else 0) ∧
      (∀ m : Fin 64, d.regs.m.get m = if (ma a).getLsbD (16 + m.val / 8) then c.regs.m.get m else 0) ∧
      (∀ v, d.regs.v.get v =
        if (ma a).getLsbD (24 + v.val / 8) = true ∧ v.val / 8 ≤ lrVg t.words ∧ v.val / 8 ≤ lrVg r
        then c.regs.v.get v else 0) ∧
      (∀ f, f ≠ 0 → d.getF f = if (ma a).getLsbD 28 then c.getF f else 0) ∧
      (∀ x (i : Fin 64) (j : Fin 80), ((d.regs.acc.get x).get i).get j =
        if (ma a).getLsbD (29 + x.val) then ((c.regs.acc.get x).get i).get j else 0) ∧
      (∀ i : Fin 32, d.regs.sv.get i = if wr.contains i.val then sv.getD i.val 0 else c.regs.sv.get i) ∧
      (∀ i : Fin 16, d.regs.train.get i = {}) ∧ d.tx.depth = 0 ∧ d.inHandler = false ∧
      d.csr.uictl.getLsbD 63 = false ∧ d.scr = lrScr r ∧ d.csr.xnext = c.csr.xnext ∧
      (if (ma a).getLsbD 33 then d.csr.vcfg = c.csr.vcfg ∧ d.csr.awin = c.csr.awin ∧ d.csr.nflags = c.csr.nflags ∧
          d.csr.srseed = c.csr.srseed ∧ d.gens = c.gens
        else d.csr.vcfg = 0 ∧ (∀ i, d.csr.awin.get i = 0) ∧ d.csr.nflags = 0 ∧ d.csr.srseed = 0 ∧
          d.gens = Gens.seed 0) ∧
      ((∀ b ∈ t.members, (s2.getCore b).chan = [] ∧ (s2.getCore b).scratch.wf = true) →
        d.csr.xdone = c.csr.xdone ∧ d.csr.xstat = c.csr.xstat ∧ d.csr.xpart = c.csr.xpart ∧
        (∀ o, 0x800 ≤ o → d.scratch.read o =
          if o / 0x4000 < 47 ∧ (mb a).getLsbD (o / 0x4000) = true ∧ o / 0x4000 < lrScr r ∧ o / 0x4000 < c.scr
          then c.scratch.read o else 0) ∧
        (∀ j < 248, d.scratch.word (8 * j) = cs.getD j 0) ∧
        d.scratch.word (8 * 249) = BitVec.ofNat 64 t.id)

/-! ## The supervisor -/

namespace Sys2Proof.Machine

/-- What a register reads as after `wrcsr` of x, from what it read as before: the fields of its map that software
writes, sets anew or clears by ones (R5, R68, R70, R75, R102, R170, R191, R196, R231, R295, R323, R391, R401, R407). -/
inductive CsrRule (x old : Word) : Csr → Word → Prop where
  | nflags : CsrRule x old .nflags (old &&& ~~~(x &&& 0x3F))
  | srseed : CsrRule x old .srseed (x &&& 0xFFFFFFFF)
  | vcfg (h : fld x 2 0 ≠ 7) : CsrRule x old .vcfg (x &&& 0x77)
  | awin (i : Fin 7) (hm : fld x 5 4 ≠ 3) (hf : fld x 3 0 < 0xD) : CsrRule x old (.awin i) (x &&& 0x3F)
  | estat : CsrRule x old .estat (old &&& ~~~(x &&& 0x10000))
  | rlstat : CsrRule x old .rlstat ((x &&& 0xFFFF7F00) ||| (old &&& 0x7F))
  | hintdrop : CsrRule x old .hintdrop (x &&& 0xFFFFFFFF)
  | xstat : CsrRule x old .xstat (old &&& ~~~(x &&& 0x7F))
  | txts : CsrRule x old .txts (old &&& ~~~(x &&& 0x8000000000000000))
  | mstk (v : Word) (hb : fld x 20 4 = fld old 20 4 ∨ fld old 31 24 = 0 ∧ fld old 47 40 = 0)
      (h : ∀ i < 64, v.getLsbD i =
        if 4 ≤ i ∧ i ≤ 20 then x.getLsbD i
        else if 24 ≤ i ∧ i ≤ 31 then old.getLsbD i && !(x.getLsbD i && !old.getLsbD (i + 16))
        else if 32 ≤ i ∧ i ≤ 39 then old.getLsbD i && !x.getLsbD i
        else old.getLsbD i) : CsrRule x old .mstk v
  | deadline : CsrRule x old .deadline (x &&& 0xFFFFFFFF)
  | mbstat : CsrRule x old .mbstat (if fld x 47 32 = 0 then old else old &&& 0x1FF)
  | astab : CsrRule x old .astab (x &&& 0xFFFFFFFFF80000)
  | fixed (n : Csr) (h : n ∈ [Csr.carvew, .genval, .vshare, .xdone, .xnext, .xstage, .xpart, .uictl, .uira, .txstat,
      .txfault, .txfpc]) : CsrRule x old n old

/-- A value that the map of VCFG, of an AWIN or of MSTK does not allow (R75, R196, R323). -/
def csrBad (x old : Word) : Csr → Prop
  | .vcfg => fld x 2 0 = 7
  | .awin _ => fld x 5 4 = 3 ∨ 0xD ≤ fld x 3 0
  | .mstk => fld x 20 4 ≠ fld old 20 4 ∧ (fld old 31 24 ≠ 0 ∨ fld old 47 40 ≠ 0)
  | _ => False

end Sys2Proof.Machine

/-- `rdcsr` pushes what its register reads as. `wrcsr` leaves its register reading as its map says, a register without
writable fields as it was, and every other register as it was; nothing changes but the core's own control registers
and, for SRSEED, its generators. A value that a map does not allow raises FORMAT. A tile core that names a supervisor's
register takes ILLEGAL (R5, R50, R407, R408). That fault's code is the model's reading (log entry 14). -/
def Obligations.ControlRegistersAreReadAndWritten : Prop :=
  (∀ (s : State) (n : Csr), (supCsr n = true → s.core.isSup = true) → (n = .nflags → s.core.vqueue = []) →
    GoesOn (exec (.rdcsr n) s) fun t => OnlyCore s t ∧ s.core.RetiredFrom t.core ∧
      s.core.Inserted t.core { value := s.csrRead n }) ∧
  (∀ (s : State) (n : Csr) (x : Src) (v : Word), (supCsr n = true → s.core.isSup = true) →
    (n = .txts → s.core.tx.depth = 0) → s.core.CanRead [x] (namesOf [x]) →
    (CsrRule (s.core.value x) (s.csrRead n) n v →
      GoesOn (exec (.wrcsr n x) s) fun t => OnlyCore s t ∧ t.core.pc = s.core.nextPc ∧ t.core.regs = s.core.regs ∧
        t.core.scratch = s.core.scratch ∧ t.csrRead n = v ∧ (∀ m, m ≠ n → t.csrRead m = s.csrRead m) ∧
        t.core.gens = if n = .srseed then Gens.seed ((s.core.value x).setWidth 32) else s.core.gens) ∧
    (csrBad (s.core.value x) (s.csrRead n) n → exec (.wrcsr n x) s = .next (s.trap { code := .format }))) ∧
  ∀ (s : State) (n : Csr) (x : Src), supCsr n = true → s.core.isSup = false →
    exec (.rdcsr n) s = .next (s.trapDecode .illegal (s.core.nextPc - 2) s.core.nextPc) ∧
    exec (.wrcsr n x) s = .next (s.trapDecode .illegal (s.core.nextPc - 2) s.core.nextPc)

namespace Sys2Proof.Machine

/-- What an item of a parked core's frame reads as after `wpl` of y (R394). -/
def itemAfter (c : Core) (i : Nat) (y : Word) : Word :=
  if i = 1 then y &&& ~~~1
  else if 16 ≤ i ∧ i < 32 then (if (c.train.toList.getD (i - 16) {}).tag.isSome then 0 else y)
  else if 64 ≤ i ∧ (i - 64) / 8 < c.frameEntries.length then
    (if (i - 64) % 8 = 0 then setFld (c.frameItem i) 52 52 (fld y 52 52)
     else if (i - 64) % 8 ≤ 4 then y else c.frameItem i)
  else c.frameItem i

/-- The end of a park leaves the core at work at an address (R395). -/
def GoesOnAt (d : Core) (to_ : Word) : Prop := d.run = .running ∧ d.pc = to_

/-- An entry has left a core: its train positions hold a value, its leases have ended and others stand (R395). -/
def EntryLeft (c d : Core) (tag : Nat) (v : Word) : Prop :=
  d.entries = [] ∧ d.scratch = c.scratch ∧ (∀ l ∈ d.leases, l.own ≠ tag) ∧ (∀ l ∈ c.leases, l.own ≠ tag → l ∈ d.leases) ∧
  ∀ n : Fin 16, d.regs.train.get n = if (c.regs.train.get n).tag = some tag then { value := v } else c.regs.train.get n

end Sys2Proof.Machine

/-- A supervisor outside a transaction parks a thread of its die, and reads and writes the items of a parked core's
frame under their access codes, RESUME without its bit 0 (the model's choice, log entry 61). It ends a park: under
resume, replay and skip a core with no entry goes on at RESUME, or under skip, after a decode fault, at NEXT; an entry
that completes without replay delivers its RESULT, a discarded one delivers 0 and writes nothing, and a vector entry
that is issued again stands in its queue, or parks the core at RESUME with the fault of its checks; abort retires the
team with the code of an aborted launch. How far each goes is the model's reading (log entry 12). `tlbinv` and `pclr`
hold the supervisor until their completion: with no open transaction holding stores under them (log entry 18), the dies
of the reach drop the translations that the selection names and keep every other one; the line reads zero and loses its
poison mark, and the core goes on once every invalidation is acknowledged (log entry 17). `mbox` takes the oldest
messages into local memory and pushes their number, and on a tile core posts a message; a message moves on to a
mailbox that has room (R26, R391, R392, R394, R395, R400, R410 to R412). -/
def Obligations.SupervisorInstructionsTakeEffect : Prop :=
  (∀ (s : State) (x y : Src) (a : Agent), s.core.isSup = true → s.core.tx.depth = 0 →
    (s.core.CanRead [x] (namesOf [x]) → s.dieCore (s.core.value x) = .ok a →
      ((s.getCore a).hasThread = true → (s.getCore a).tx.depth = 0 → GoesOn (exec (.park x) s) fun t =>
        t.core.pc = s.core.nextPc ∧ t.core.regs = s.core.regs ∧ (t.getCore a).run = .parked ∧
        (t.getCore a).frame.code = .none) ∧
      ((s.getCore a).run = .parked →
        (∀ i, GoesOn (exec (.rpl x i) s) fun t => OnlyCore s t ∧ s.core.RetiredFrom t.core ∧
          s.core.Inserted t.core { value := (s.getCore a).frameItem i }) ∧
        (∀ (k : Task) (tm : Team) (l : Launch) (s1 : State), (s.getCore a).task = some k → s.teamOf k.team = some tm →
          s.launchOf tm.launch = some l → lrGang l.words = false → (s.releaseTeam tm l.scope).releaseDone l.scope = true →
          ((s.releaseTeam tm l.scope).setLaunch { l with code := 6 }).retireTeams l [tm] tm.words = .ok s1 →
          exec (.unpark x .abort) s = .next s1.retire ∧ s1.retire.teamOf k.team = none ∧
            ∀ b ∈ tm.members, s1.retire.getCore b = Core.reset b) ∧
        ∀ mode, mode ≠ .abort →
          let c := s.getCore a
          let to_ := if c.frame.dec && mode == .skip then c.frame.next else c.frame.resume
          (c.entries = [] → GoesOn (exec (.unpark x mode) s) fun t => t.core.pc = s.core.nextPc ∧
            GoesOnAt (t.getCore a) to_ ∧ (t.getCore a).regs = c.regs ∧ (t.getCore a).scratch = c.scratch) ∧
          ∀ e : Entry, c.entries = [e] → c.unfinished e = true → windowEntry e.instr = false → c.tx.depth = 0 →
            ((e.v = false ∨ e.flt = true ∧ mode = .resume) → GoesOn (exec (.unpark x mode) s) fun t =>
              t.core.pc = s.core.nextPc ∧ GoesOnAt (t.getCore a) to_ ∧ EntryLeft c (t.getCore a) e.tag e.result ∧
              ∀ w acq sc (k : Fin 16) z off, e.instr = .ldg w acq sc (.k k) z off → e.shadow = false →
                (t.getCore a).regs.k.get k = e.result) ∧
            (e.v = true → e.flt = true → mode = .skip → GoesOn (exec (.unpark x mode) s) fun t =>
              t.core.pc = s.core.nextPc ∧ GoesOnAt (t.getCore a) to_ ∧ EntryLeft c (t.getCore a) e.tag 0 ∧
              (t.getCore a).regs.k = c.regs.k ∧ (t.getCore a).regs.m = c.regs.m ∧ (t.getCore a).regs.v = c.regs.v ∧
              (t.getCore a).regs.f = c.regs.f ∧ (t.getCore a).regs.acc = c.regs.acc) ∧
            (e.v = true → (e.flt = false ∨ mode = .replay) → unitOf e.instr = 1 → e.isAccess = false → e.met = false →
              c.locks = [] →
              (c.vectorRecheck e = .ok () → GoesOn (exec (.unpark x mode) s) fun t => t.core.pc = s.core.nextPc ∧
                GoesOnAt (t.getCore a) to_ ∧ (t.getCore a).regs = c.regs ∧ (t.getCore a).leases = c.leases ∧
                ∃ e', (t.getCore a).entries = [e'] ∧ e'.tag = e.tag ∧ e'.instr = e.instr ∧ e'.ops = e.ops ∧
                  e'.cfg0 = e.cfg0 ∧ e'.cfg1 = e.cfg1 ∧ e'.flt = false ∧ e'.ready = false) ∧
              ∀ f, c.vectorRecheck e = .bad f → GoesOn (exec (.unpark x mode) s) fun t => t.core.pc = s.core.nextPc ∧
                (t.getCore a).run = .parked ∧ (t.getCore a).frame.code = f.code ∧ (t.getCore a).frame.resume = to_ ∧
                (t.getCore a).regs = c.regs ∧ ∃ e', (t.getCore a).entries = [e'] ∧ e'.tag = e.tag ∧ e'.flt = true))) ∧
    (s.core.CanRead [x, y] (namesOf [x, y]) → s.dieCore (s.core.value x) = .ok a → (s.getCore a).run = .parked →
      ((s.getCore a).entries.map Entry.tag).Nodup →
      ∀ i, GoesOn (exec (.wpl x i y) s) fun t => t.mem = s.mem ∧ t.core.pc = s.core.nextPc ∧
        let c := s.getCore a
        let d := t.getCore a
        d.run = .parked ∧ d.regs.k = c.regs.k ∧ d.regs.m = c.regs.m ∧ d.scratch = c.scratch ∧ d.csr = c.csr ∧
        d.leases = c.leases ∧ d.locks = c.locks ∧ d.frameItem i = itemAfter c i (s.core.value y) ∧
        ∀ j, j ≠ i → d.frameItem j = c.frameItem j) ∧
    (s.core.CanRead [x, y] (namesOf [x, y]) →
      (tlbinvOk (s.core.value x) (s.core.value y) = true →
        GoesOn (exec (.tlbinv x y) s) fun t => t.mem = s.mem ∧
          t.core = { s.core with run := .held (.tlbinv x y) { a := s.core.value x, b := s.core.value y } } ∧
          t.ports.tlbs = s.ports.tlbs ++
            if fld (s.core.value y) 19 18 = 3 ∧ s.ports.linkup ≠ 0 then s.otherModules else []) ∧
      (tlbinvOk (s.core.value x) (s.core.value y) = false → exec (.tlbinv x y) s = .next (s.trap { code := .format }))) ∧
    (s.core.CanRead [x] (namesOf [x]) →
      (s.pclrCheck (s.core.value x) = .ok () →
        exec (.pclr x) s = .next { s with core := { s.core with run := .held (.pclr x) { a := s.core.value x } } }) ∧
      ∀ f, s.pclrCheck (s.core.value x) = .bad f → exec (.pclr x) s = .next (s.trap f)) ∧
    (∀ o, s.core.CanRead [x, y] (namesOf [x, y]) → s.core.mboxCheck (s.core.value x) (s.core.value y) = .ok o →
      s.core.vectorHolds o (32 * (s.core.value y).toNat) = false →
      (let d := s.die (dieOf s.core.who)
       let got := d.mailbox.take (s.core.value y).toNat
       GoesOn (exec (.mbox x y) s) fun t => t.core.pc = s.core.nextPc ∧
        s.core.Inserted t.core { value := BitVec.ofNat 64 got.length } ∧
        (t.die (dieOf s.core.who)).mailbox = d.mailbox.drop (s.core.value y).toNat ∧
        t.core.scratch = s.core.scratch.writeBytes o (got.flatMap Msg.bytes)))) ∧
  (∀ (s : State) (x y : Src), s.core.isSup = false → s.core.tx.depth = 0 → s.core.CanRead [x, y] (namesOf [x, y]) →
    s.core.accessesDone false = true →
    (let m := s.core.message kindSoft 0 false (s.core.value x) (s.core.value y)
     ((s.release s.core.who .die).die (dieOf s.core.who)).sharedRoom m.row = true →
     GoesOn (exec (.mbox x y) s) fun t => t.core.pc = s.core.nextPc ∧ t.core.regs = s.core.regs ∧
      ∃ r, (t.die (dieOf s.core.who)).rows = r ++ [m])) ∧
  (∀ (s : State) (d : Nat) x y ops, d < 8 → (s.getCore (.sup d)).run = .held (.tlbinv x y) ops →
    (fld ops.b 19 18 = 3 → s.ports.tlbs = []) → tlbinvOk ops.a ops.b = true →
    s.txUnder (reachDies d ops.b) ops.a ops.b = false →
    let keeps (t : Tlb) : Bool :=
      !(if fld ops.b 17 16 = 0 then t.covers (fld ops.b 15 0) ops.a.toNat
        else fld ops.b 17 16 == 2 || t.asid == fld ops.b 15 0)
    let within (n : Nat) : Prop := n = d ∨ 1 < fld ops.b 19 18 ∧ n < 8
    GoesOn (exec (.tlbinvCompletion (.sup d)) s) fun t => t.mem = s.mem ∧ (t.getCore (.sup d)).run = .running ∧
      (t.getCore (.sup d)).pc = (s.getCore (.sup d)).nextPc ∧
      (∀ n, (within n → (t.die n).tlb = (s.die n).tlb.filter keeps) ∧ (¬ within n → (t.die n).tlb = (s.die n).tlb)) ∧
      ∀ n, (within (dieOfCluster n) → (t.cluster n).tlb = (s.cluster n).tlb.filter keeps) ∧
        (¬ within (dieOfCluster n) → (t.cluster n).tlb = (s.cluster n).tlb)) ∧
  (∀ (s : State) (d line : Nat) x ops, (s.getCore (.sup d)).run = .held (.pclr x) ops →
    (ops.b = 0 → ops.a.toNat = 128 * line → s.mem.wf = true → GoesOn (exec (.pclrCompletion (.sup d)) s) fun t =>
      line ∉ t.poison ∧ (∀ i < 128, t.mem.read (128 * line + i) = 0) ∧
      (t.ports.invs = [] → GoesOnAt (t.getCore (.sup d)) (s.getCore (.sup d)).nextPc) ∧
      (t.ports.invs ≠ [] → (t.getCore (.sup d)).run = .held (.pclr x) { ops with b := 1 })) ∧
    (ops.b = 1 → GoesOn (exec (.pclrCompletion (.sup d)) s) fun t => t.mem = s.mem ∧ t.poison = s.poison ∧
      (s.ports.invs = [] → GoesOnAt (t.getCore (.sup d)) (s.getCore (.sup d)).nextPc) ∧
      (s.ports.invs ≠ [] → (t.getCore (.sup d)).run = .held (.pclr x) ops))) ∧
  ∀ (s : State) (die row : Nat) (m : Msg) rest, (s.die die).rows = m :: rest → m.row = row →
    (s.die die).mailbox.length < 256 →
    GoesOn (exec (.messageDelivery die row false) s) fun t => t.mem = s.mem ∧ t.core = s.core ∧
      (t.die die).rows = rest ∧ (t.die die).mailbox = (s.die die).mailbox ++ [m]

/-- A `ctxsave` asks for a save, marked where a member has been stopped by force, and a `ctxload` for a saved context
back; `yield` with no save asked for only goes on, and with one, where every other member rests, stops its queued team
after the chain; at a forced stop a running member parks with DEADLINE and no message; a team that rests and is drained
is saved, its cores as after reset; and a context that was asked for, with no copy to run again, comes back to its
places when they are free, leaving the saved ones: an ended member stays so, a blocked or stopped one executes its
chain, one stopped by force goes on at its resume address, and one parked for another reason stays parked (R111, R112,
R401 to R406). What a record holds and a header names, and where a context returns, are the model's own (log entries 19,
20, 23), as are which members mark a save as forced and the word of other modules (log entries 24, 62). -/
def Obligations.ContextsAreSavedAndRestored : Prop :=
  (∀ (s : State) (x y : Src), s.core.isSup = true → s.core.tx.depth = 0 → s.core.CanRead [x, y] (namesOf [x, y]) →
    ((s.core.value x).toNat < 2 ^ 32 → fld (s.core.value y) 62 56 = 0 →
      s.teamOnDie (s.core.value x).toNat (dieOf s.core.who) = true → s.saveAsked (s.core.value x).toNat = false →
      s.areaReach (fld (s.core.value y) 55 0) (4096 + (s.saveMembers (s.core.value x).toNat).length *
        s.saveSize (s.core.value x).toNat) = .ok () →
      GoesOn (exec (.ctxsave x y) s) fun t => t.core.pc = s.core.nextPc ∧ t.core.regs = s.core.regs ∧
        ∃ v, t.saves = s.saves ++ [v] ∧ v.team = (s.core.value x).toNat ∧ v.area = fld (s.core.value y) 55 0 ∧
          v.disc = (s.core.value y).getLsbD 63 ∧ (v.forced = true ↔ ∃ a ∈ s.saveMembers (s.core.value x).toNat,
            (s.getCore a).run = .parked ∧ (s.getCore a).frame.code = .deadline)) ∧
    (∀ s1 st id, fld (s.core.value y) 63 56 = 0 →
      s.areaHeader (dieOf s.core.who) (fld (s.core.value y) 55 0) = .ok (s1, st, id) →
      (s.core.value x).toNat = id → (st = 1 ∨ st = 2) →
      s1.areaReach (fld (s.core.value y) 55 0) (s1.savedSize id) = .ok () →
      GoesOn (exec (.ctxload x y) s) fun t => t.core.pc = s.core.nextPc ∧ t.core.regs = s.core.regs ∧ t.mem = s1.mem ∧
        (∀ v ∈ s.saved, v.team = id → v.asked = false →
          { v with asked := true, area := fld (s.core.value y) 55 0 } ∈ t.saved) ∧
        ∀ v ∈ s.saved, v.team ≠ id → v ∈ t.saved)) ∧
  (∀ s : State, s.core.inHandler = false → s.core.tx.depth = 0 →
    ((∀ k, s.core.task = some k → k.gang = true ∨ s.saveAsked k.team = false) →
      GoesOn (exec .yield s) fun t => OnlyCore s t ∧ t.core.pc = s.core.nextPc ∧ t.core.run = s.core.run ∧
        t.core.regs = s.core.regs ∧ t.core.scratch = s.core.scratch ∧ t.core.csr = s.core.csr) ∧
    ∀ k, s.core.task = some k → k.gang = false → s.saveAsked k.team = true → s.core.merge = none →
      (∀ b ∈ s.saveMembers k.team, b ≠ s.core.who → (s.getCore b).rests false = true ∧ (s.getCore b).merge = none) →
      GoesOn (exec .yield s) fun t => t.mem = s.mem ∧ t.core.pc = s.core.nextPc ∧ t.core.run = .stopped ∧
        t.core.regs = s.core.regs ∧ t.core.scratch = s.core.scratch ∧
        ∀ b ∈ s.saveMembers k.team, b ≠ s.core.who → ∀ w, (s.getCore b).run = .blocked w →
          (t.getCore b).run = .stopped ∧ (t.getCore b).pc = (s.getCore b).pc ∧ (t.getCore b).regs = (s.getCore b).regs) ∧
  (∀ (s : State) (team due : Nat),
    ((∃ v, s.saves = [v] ∧ v.team = team ∧ v.due = some due ∧ due ≤ s.time) ∨
      s.saves = [] ∧ s.standSpans team = true ∧ due = s.time) →
    GoesOn (exec (.deadlineExpiry team) s) fun t =>
      (∀ a ∈ s.saveMembers team, (s.getCore a).run = .running → (s.getCore a).yieldAt ≠ some due →
        (s.getCore a).tx.depth = 0 → (t.getCore a).run = .parked ∧ (t.getCore a).frame.code = .deadline ∧
          (t.getCore a).frame.resume = (s.getCore a).pc) ∧
      t.saves = s.saves.map fun v => { v with due := none, forced := (v.forced ||
        (s.saveMembers v.team).any fun a => (s.getCore a).forced (s.gangOf v.team).isSome due) }) ∧
  (∀ (s s1 : State) (v : Save) (tm : Team) (l : Launch), s1 = s.sourcesWalked (s.saveMembers v.team) → s1.saves = [v] →
    s1.teamOf v.team = some tm → s1.launchOf tm.launch = some l → lrGang l.words = false →
    (v.forced = true ∨ s1.evictable v.team = true) → (∀ a ∈ tm.members, s1.drained a = true) →
    GoesOn (exec (.cooperativeEviction v.team) s) fun t => t.saves = [] ∧ t.teamOf v.team = none ∧
      (∀ a ∈ tm.members, t.getCore a = Core.reset a) ∧
      ∃ w ∈ t.saved, w.team = v.team ∧ w.area = v.area ∧ w.teams = [tm] ∧ w.launch = l.id ∧ w.forced = v.forced ∧ w.asked = false ∧
        w.cores.map Core.who = tm.members) ∧
  ∀ (s : State) (v : Saved) (l : Launch), s.saved.find? (fun w => w.area == v.area && w.asked) = some v →
    s.launchOf v.launch = some l → s.returnable v l = true → s.areaReach v.area v.bytes = .ok () →
    (∀ c ∈ v.cores, c.granules = []) →
    GoesOn (exec (.restore v.area) s) fun t => (∀ w ∈ t.saved, w.team ≠ v.team) ∧
      ((∀ i < v.bytes, s.foreign (v.area + i) = false) → (∀ k ∈ s.clusters, k.lines = []) →
        (∀ h ∈ s.ports.held, h.own = false) → s.mem.wf = true → (∀ k < v.cores.length, s.recordAt v k = v.written k) →
        (v.cores.map Core.who).Nodup → (∀ c ∈ v.cores, c.entries = [] ∧ c.scratch.wf = true) →
        ∀ c ∈ v.cores,
          let d := t.getCore c.who
          d.regs = c.regs ∧ d.task = c.task ∧
          (v.disc = false → ∀ o, o < 2040 ∨ 2048 ≤ o → d.scratch.read o = c.scratch.read o) ∧
          (c.run = .ended → d.run = .ended) ∧
          (c.run = .stopped ∨ (∃ b, c.run = .blocked b) → d.run = .running ∧ d.pc = c.pc) ∧
          (c.run = .parked → c.frame.code = .deadline → d.run = .running ∧ d.pc = c.frame.resume) ∧
          (c.run = .parked → c.frame.code ≠ .deadline → d.run = .parked ∧ d.pc = c.pc ∧ d.frame = c.frame))

/-! ## Ports -/

namespace Sys2Proof.Machine

/-- The bits of a word but one are as they were. -/
def OtherBitsKept (x y : BitVec n) (b : Nat) : Prop := ∀ i, i ≠ b → y.getLsbD i = x.getLsbD i

/-- Memory reads a list of bytes from an address upwards, and as before everywhere else. -/
def Holds (m0 m : Memory) (pa : Nat) (bs : List Byte) : Prop :=
  (∀ j < bs.length, m.read (pa + j) = bs.getD j 0) ∧ ∀ b, b < pa ∨ pa + bs.length ≤ b → m.read b = m0.read b

end Sys2Proof.Machine

/-- A poisoned line is marked and leaves every L2, with memory as it was, and its home is told; a home's invalidation
leaves no copy in an L2 and is answered; a peer that asks a home for a line is granted it with its bytes, or told that
it is poisoned; acknowledgements, granted and written-back lines, notices and translation messages take the effect of
R152, R192, R193, R400, R418 and R426; a link that comes up or goes down changes its own bit of LINKUP only, and with
the last one go the marks of what peers share; in power state off no link comes up (R421). How a peer's request shows,
that translations wait for open transactions, and what the last link's loss ends, are the model's own (log entries 18,
25, 26). -/
def Obligations.CoherenceAndLinkMessagesTakeTheirEffect : Prop :=
  ∀ (s : State) (line from_ : Nat) (data : List Byte), data.length = 128 → s.mem.wf = true →
    (∀ i ∈ [Instr.softError line, .poison line], GoesOn (exec i s) fun t => line ∈ t.poison ∧
      (∀ l ∈ s.poison, l ∈ t.poison) ∧ (∀ e ∈ t.l2, e.line ≠ line) ∧ t.mem = s.mem) ∧
    (s.foreign (line * 128) = true → GoesOn (exec (.softError line) s) fun t =>
      ∃ l, t.ports.sent.getLast? = some (l, .poison (modOf (line * 128)) line)) ∧
    (GoesOn (exec (.inv line from_) s) fun t => (∀ e ∈ t.l2, e.line ≠ line) ∧ t.poison = s.poison ∧
      ∃ l, t.ports.sent.getLast? = some (l, .invack from_ line)) ∧
    (GoesOn (exec (.invack line from_) s) fun t => t.ports.invs = s.ports.invs.erase (line, from_) ∧ t.mem = s.mem ∧
      t.core = s.core ∧ t.others = s.others ∧
      (t.ports.invs ≠ [] → t.ports.owed = s.ports.owed ∧ ∀ n, t.counter n = s.counter n) ∧
      (t.ports.invs = [] → t.ports.owed = [] ∧
        ∀ n, t.counter n = s.counter n + BitVec.ofNat 64 (s.ports.owed.count n))) ∧
    (∀ peer own, s.foreign (line * 128) = true →
      ((∀ e ∈ s.l2, e.line = line → e.st ≠ .m ∧ e.st ≠ .o) → GoesOn (exec (.grant line ⟨peer, own, data⟩) s) fun t =>
        Holds s.mem t.mem (line * 128) data ∧ line ∉ t.poison ∧ t.core = s.core ∧ t.others = s.others) ∧
      ((∃ e ∈ s.l2, e.line = line ∧ (e.st = .m ∨ e.st = .o)) → exec (.grant line ⟨peer, own, data⟩) s = .next s)) ∧
    (∀ peer own, s.foreign (line * 128) = false → s.ports.linkup ≠ 0 → peer ∈ s.otherModules →
      s.reach (line * 128) 0 = .ok () →
      (s.poisoned (line * 128) = true → GoesOn (exec (.grant line ⟨peer, own, data⟩) s) fun t => t.mem = s.mem ∧
        ∃ l, t.ports.sent = s.ports.sent ++ [(l, .poison peer line)]) ∧
      (s.poisoned (line * 128) = false → GoesOn (exec (.grant line ⟨peer, own, data⟩) s) fun t =>
        (∃ l, t.ports.sent.getLast? = some (l, .grant peer line (t.mem.readBytes (line * 128) 128))) ∧
        ({ line := line, mod := peer, own := own } : PeerLine) ∈ t.ports.held ∧
        (own = true → ∀ e ∈ t.l2, e.line ≠ line))) ∧
    (s.foreign (line * 128) = false → s.poisoned (line * 128) = true → exec (.wback line data) s = .next s) ∧
    (s.foreign (line * 128) = false → s.poisoned (line * 128) = false → (∀ c ∈ s.cores, c.tx.depth = 0) →
      GoesOn (exec (.wback line data) s) fun t => Holds s.mem t.mem (line * 128) data ∧ t.poison = s.poison ∧
        t.core = s.core ∧ t.others = s.others) ∧
    (∀ vector, GoesOn (exec (.notice vector) s) fun t => t.mem = s.mem ∧ t.core = s.core ∧
      (Config.bridging = true → t.ports.vectors = s.ports.vectors ++ [vector]) ∧ (Config.bridging = false → t = s)) ∧
    (∀ addr sel : Word, fld sel 17 16 = 2 → s.txUnder (List.range 8) addr sel = false →
      GoesOn (exec (.myzilTlbinv from_ addr sel) s) fun t => t.mem = s.mem ∧
      (∀ d ∈ t.dies, d.id < 8 → d.tlb = []) ∧ (∀ k ∈ t.clusters, dieOfCluster k.id < 8 → k.tlb = []) ∧
      ∃ l, t.ports.sent = s.ports.sent ++ [(l, .tlback from_)]) ∧
    (exec (.tlback from_) s = .next { s with ports := { s.ports with tlbs := s.ports.tlbs.erase from_ } }) ∧
    ∀ n : Fin 32,
      (s.ports.pst ≠ 3 → GoesOn (exec (.linkUp n) s) fun t => t.ports.linkup.getLsbD n.val = true ∧
        OtherBitsKept s.ports.linkup t.ports.linkup n.val ∧ t.mem = s.mem ∧ t.core = s.core) ∧
      (s.ports.pst = 3 → exec (.linkUp n) s = .next s) ∧
      GoesOn (exec (.linkDown n) s) fun t => t.ports.linkup.getLsbD n.val = false ∧
        OtherBitsKept s.ports.linkup t.ports.linkup n.val ∧
        (t.ports.linkup = 0 → s.ports.linkup ≠ 0 → t.ports.invs = [] ∧ t.ports.tlbs = [] ∧ t.ports.peers = [] ∧
          t.ports.held = [] ∧ ∀ h ∈ s.ports.held, h.own = true → h.line ∈ t.poison)

/-- A unit that is to be gated and runs no task empties, leaves coherence and sets its status bit; a module reset
keeps memory and the stored image and makes every register its reset value; a self-test sets its function's bit in
READY or FAIL, and a ready die's supervisor starts; a received frame is written and then steps its counter, and a
transmitted one is read and sent; the host reads and writes its windows, registers and memory, a write to memory that
is not READY waits, and every access behind a posted write waits for it; and doorbells and descriptor writes act on
their queue (R194, R369, R414, R420, R421, R424, R425, R427). The supervisor's first address is the model's choice
(log entry 3); a queue's ring arithmetic, its emptying and the step of GEN (log entry 31), what a reset keeps, the
recovery of a module, how a frame names its place and what waits for memory (log entries 27, 37, 50, 51) are its
readings. -/
def Obligations.BringUpFramesAndHostRequestsTakeTheirEffect : Prop :=
  (∀ (s : State) (die i : Nat), die < 8 →
    (i < 80 → s.gateWanted die (i / 64) (i % 64) = true → s.gateIs die (i / 64) (i % 64) = false →
      (s.taskOn fun id => clusterOf id == clusterId die i) = false →
      GoesOn (exec (.unitLeavesCoherence (.cluster die i)) s) fun t => t.gateIs die (i / 64) (i % 64) = true ∧
        (t.cluster (clusterId die i)).lines = [] ∧ (t.cluster (clusterId die i)).tlb = [] ∧
        (t.cluster (clusterId die i)).icache = []) ∧
    (s.gateWanted die 2 i = true → s.gateIs die 2 i = false →
      GoesOn (exec (.unitLeavesCoherence (.slice die i)) s) fun t => t.gateIs die 2 i = true ∧
        ∀ e ∈ t.l2, e.die = die → l2Slice (e.line * 128) ≠ i) ∧
    (s.gateWanted die 1 63 = true → s.gateIs die 1 63 = false → (s.taskOn fun id => dieOf (.tile id) == die) = false →
      GoesOn (exec (.unitLeavesCoherence (.die die)) s) fun t => t.gateIs die 1 63 = true ∧ (t.die die).tlb = [] ∧
        ∀ e ∈ t.l2, e.die ≠ die)) ∧
  (∀ (s : State) made, GoesOn (exec (.moduleReset made) s) fun t => t.mem = s.mem ∧ t.poison = s.poison ∧
    t.core = Core.reset (.tile 0) ∧ t.others = [] ∧ t.teams = [] ∧ t.launches = [] ∧ t.queues = [] ∧
    t.ports.ready = 0 ∧ t.ports.failed = 0 ∧ t.ports.modid = 0 ∧ t.ports.psctl = 0x0BB8151800645F00 ∧
    (s.ports.image ≠ [] → t.ports.image = s.ports.image) ∧ (s.ports.image = [] → t.ports.image = made) ∧
    t.ports.imageOk = imageGood t.ports.image ∧ t.ports.recovery = !imageGood t.ports.image) ∧
  (∀ (s : State) fn ok, s.comesUp fn = true → s.ports.ready.getLsbD (fnBit fn) = false →
    s.ports.failed.getLsbD (fnBit fn) = false → s.ports.posted = [] → s.ports.hostWait = [] →
    (∀ q ∈ s.queues, q.toTake = 0) → GoesOn (exec (.selfTestComplete fn ok) s) fun t => t.mem = s.mem ∧
      t.ports.ready.getLsbD (fnBit fn) = ok ∧ t.ports.failed.getLsbD (fnBit fn) = !ok ∧
      OtherBitsKept s.ports.ready t.ports.ready (fnBit fn) ∧ OtherBitsKept s.ports.failed t.ports.failed (fnBit fn) ∧
      (ok = false → t.core = s.core ∧ t.others = s.others) ∧
      (∀ d, fn = .die d → ok = true → (t.getCore (.sup d.val)).run = .running ∧ (t.getCore (.sup d.val)).pc = 0) ∧
      ∀ n split, fn = .eth n split → ok = true → split = true → t.ports.split.getLsbD n.val = true) ∧
  (∀ (s s1 : State) (port : Fin 8) (half : Bool) (pa len counter : Nat) (data bs : List Byte),
    s.ports.ready.getLsbD (26 + port.val) = true → (half = true → s.ports.split.getLsbD port.val = true) → counter < 32768 →
    (s.portWrite pa data = .ok s1 → GoesOn (exec (.frameReceive ⟨port, half⟩ pa data counter) s) fun t =>
      t.mem = s1.mem ∧ t.core = s1.core ∧ (∀ n, n ≠ counter → t.counter n = s1.counter n) ∧
      (s1.ports.invs = [] → t.counter counter = s1.counter counter + 1) ∧
      (s1.ports.invs ≠ [] → t.counter counter = s1.counter counter ∧ t.ports.owed = s1.ports.owed ++ [counter])) ∧
    (s.portRead pa len = .ok (s1, bs) → GoesOn (exec (.frameTransmit ⟨port, half⟩ pa len) s) fun t =>
      t.mem = s1.mem ∧ t.ports.sent = s1.ports.sent ++ [(none, .frame port.val half bs)])) ∧
  (∀ (s : State) (off len : Nat) (x : Word) (data : List Byte), s.bridgeOn = true →
    (s.ports.posted = [] → s.ports.hostWait = [] → GoesOn (exec (.hostRead 2 off len) s) fun t =>
      t = { s with ports := { s.ports with hostData := hwinBytes s.ports.hwin off len } }) ∧
    (s.ports.posted = [] → GoesOn (exec (.hostWrite 2 0 (bytesOfNat 8 x.toNat)) s) fun t => t.ports.hMod = fld x 8 0 ∧
      t.ports.hOff = fld x 15 12 ∧ t.ports.hBase = fld x 23 16 ∧ t.mem = s.mem) ∧
    (s.ports.hMod = s.self → off < 2 ^ 36 → s.ports.posted = [] →
      (s.ports.hostWait = [] → GoesOn (exec (.hostRead 0 off len) s) fun t =>
        t = { s with ports := { s.ports with hostData := s.regBytes (s.ports.hOff * 2 ^ 36 + off) len } }) ∧
      (off % 8 = 0 → ∀ s1 : State, s1 = { s with ports := { s.ports with
          posted := [(deviceOf s.self (s.ports.hOff * 2 ^ 36 + off), bytesOfNat 8 x.toNat)] } } →
        GoesOn (exec (.hostWrite 0 off (bytesOfNat 8 x.toNat)) s) fun t =>
          t = (s1.regWrite (s.ports.hOff * 2 ^ 36 + off) x).modPorts fun p => { p with posted := [] })) ∧
    (∀ bar, s.ports.posted ≠ [] →
       exec (.hostRead bar off len) s =
         .next { s with ports := { s.ports with hostWait := s.ports.hostWait ++ [(s.ports.ahead.place bar off, len)] } } ∧
       exec (.hostWrite bar off data) s =
         .next { s with ports := { s.ports with posted := s.ports.posted ++ [(s.ports.ahead.place bar off, data)] } }) ∧
    (let pa := s.ports.hMod * 2 ^ 47 + s.ports.hBase * 2 ^ 40 + off
     off < 2 ^ 40 → s.ports.hBase < 128 → s.foreign pa = false → s.reach pa 0 = .wait → s.ports.memoryOn = true → data ≠ [] →
       s.ports.posted = [] →
       exec (.hostWrite 1 off data) s =
         .next { s with ports := { s.ports with posted := [(pa, data)] } }) ∧
    (let pa := s.ports.hMod * 2 ^ 47 + s.ports.hBase * 2 ^ 40 + off
     off < 2 ^ 40 → s.ports.hBase < 128 → s.foreign pa = false → s.reach pa 0 = .ok () → s.poisoned pa = false → s.mem.wf = true →
     s.ports.memoryOn = true → s.ports.posted = [] → s.ports.hostWait = [] → (∀ h ∈ s.ports.held, h.own = false) →
     (∀ k ∈ s.clusters, k.lines = []) → (∀ c ∈ s.cores, c.tx.depth = 0) →
     (0 < len → pa % 128 + len ≤ 128 → GoesOn (exec (.hostRead 1 off len) s) fun t =>
        t.ports.hostData = s.mem.readBytes pa len ∧ t.mem = s.mem) ∧
     (data ≠ [] → pa % 128 + data.length ≤ 128 → GoesOn (exec (.hostWrite 1 off data) s) fun t =>
        Holds s.mem t.mem pa data))) ∧
  ∀ (s : State) (n : Nat) (x : Word), n < 32768 → s.ports.posted = [] → s.ports.recovery = false →
    ((s.queue n).en = false → exec (.doorbell n x) s = .next s) ∧
    ((s.queue n).en = true → x.toNat ≤ (s.queue n).ringSize.toNat →
      (s.queue n).prod < (s.queue n).ringSize.toNat →
      let k := (x.toNat + (s.queue n).ringSize.toNat - (s.queue n).prod) % (s.queue n).ringSize.toNat
      (k = 0 → exec (.doorbell n x) s = .next s) ∧
      (k ≠ 0 → GoesOn (exec (.doorbell n x) s) fun t => ∃ rs, (t.queue n).recs = (s.queue n).recs ++ rs ∧
        rs.length + (t.queue n).toTake = k ∧
        (t.queue n).prod = ((s.queue n).prod + rs.length) % (s.queue n).ringSize.toNat)) ∧
    ((s.queue n).en = false → x.getLsbD 63 = true → GoesOn (exec (.queueDescriptorWrite n 0 x) s) fun t =>
      (t.queue n).en = true ∧ (t.queue n).gen = (s.queue n).gen % 65535 + 1 ∧ (t.queue n).recs = [] ∧
      t.mem = s.mem ∧ t.core = s.core) ∧
    (GoesOn (exec (.queueDescriptorWrite n 1 x) s) fun t => (t.queue n).ringVa = x ∧ (t.queue n).d0 = (s.queue n).d0) ∧
    GoesOn (exec (.queueDescriptorWrite n 2 x) s) fun t => (t.queue n).ringSize = x ∧ (t.queue n).d0 = (s.queue n).d0

namespace Sys2Proof.Machine

/-- A span of this module's memory of which no cache, transaction or peer holds anything that memory does not. -/
def AtTheHome (s : State) (pa n : Nat) : Prop :=
  s.mem.wf = true ∧ (∀ b, pa ≤ b → b < pa + n → s.foreign b = false) ∧ (∀ k ∈ s.clusters, k.lines = []) ∧
  (∀ h ∈ s.ports.held, h.own = false) ∧ ∀ c ∈ s.cores, c.tx.depth = 0

end Sys2Proof.Machine

/-- Run brings any module to state 0, from off through a module reset, even one that a team occupies; idle, standby
and off come to stand in PST of a module with no team that is not off, where off loses memory; in power state off they
change the commanded state alone, since the way out of it is the bring-up (R414, R421; the model's choice, log entry
71); with a team resident or saved all but run are refused with BUSY. A gate command sets its bit, and clearing it
clears the status bit; the cap, the alarm, its fallback and its clearing change their fields; MODID takes a write only
with no link up; a firmware request starts, and ends with its status; and a register's write changes that register,
none of them in recovery but the mailbox and none behind a posted write that waits (R365, R413, R415, R421 to R423,
R425, R427, R428). What off loses and coming back keeps, which requests are refused, what waits and what an image
holds are the model's readings (log entries 37, 39, 48, 51, 64). -/
def Obligations.PowerAndFirmwareRequestsTakeTheirEffect : Prop :=
  (∀ s : State, s.ports.posted = [] → s.ports.recovery = false →
    (s.ports.pst ≠ 3 → GoesOn (exec .run s) fun t => t.ports.pst = 0 ∧ fld t.ports.psctl 1 0 = 0 ∧ t.mem = s.mem ∧
      t.core = s.core ∧ t.others = s.others) ∧
    (s.ports.pst = 3 → GoesOn (exec .run s) fun t => t.ports.pst = 0 ∧ t.ports.ready = 0 ∧ t.ports.linkup = 0 ∧
      t.mem = s.mem ∧ t.core = Core.reset (.tile 0) ∧ t.ports.image = s.ports.image) ∧
    (s.occupied = false → s.ports.pst ≠ 3 →
      (GoesOn (exec .idle s) fun t => t.ports.pst = 1 ∧ fld t.ports.psctl 1 0 = 1) ∧
      (GoesOn (exec .standby s) fun t => t.ports.pst = 2 ∧ fld t.ports.psctl 1 0 = 2) ∧
      GoesOn (exec .off s) fun t => t.ports.pst = 3 ∧ fld t.ports.psctl 1 0 = 3 ∧ t.mem = [] ∧ t.ports.linkup = 0) ∧
    (s.occupied = false → s.ports.pst = 3 → ∀ p ∈ [(Instr.idle, 1), (.standby, 2), (.off, 3)],
      GoesOn (exec p.1 s) fun t => t.ports.pst = 3 ∧ fld t.ports.psctl 1 0 = p.2 ∧ t.mem = s.mem ∧ t.core = s.core ∧
        t.ports.ready = s.ports.ready ∧ t.ports.linkup = s.ports.linkup) ∧
    (s.occupied = true → ∀ i ∈ [Instr.idle, .standby, .off], GoesOn (exec i s) fun t => t.ports.psctl.getLsbD 4 = true ∧
      t.ports.pst = s.ports.pst ∧ t.mem = s.mem ∧ t.core = s.core)) ∧
  (∀ (s : State) (die n : Nat) gate, die < 8 → s.ports.posted = [] → s.ports.recovery = false →
    (n < 80 → GoesOn (exec (.clusterGate die n gate) s) fun t => t.gateWanted die (n / 64) (n % 64) = gate ∧
      (gate = false → t.gateIs die (n / 64) (n % 64) = false) ∧ t.mem = s.mem ∧ t.core = s.core) ∧
    (GoesOn (exec (.dieGate die gate) s) fun t => t.gateWanted die 1 63 = gate ∧
      (gate = false → t.gateIs die 1 63 = false) ∧ t.mem = s.mem ∧ t.core = s.core) ∧
    (n < 32 → GoesOn (exec (.sliceGate die n gate) s) fun t => t.gateWanted die 2 n = gate ∧
      (gate = false → t.gateIs die 2 n = false) ∧ t.mem = s.mem ∧ t.core = s.core)) ∧
  (∀ (s : State) (x : BitVec 16),
    (s.ports.posted = [] → s.ports.recovery = false → GoesOn (exec (.pcapWrite x) s) fun t =>
      fld t.ports.psctl 47 32 = (if 500 ≤ x.toNat ∧ x.toNat ≤ 5400 then x.toNat else 5400) ∧
      fld t.ports.psctl 31 0 = fld s.ports.psctl 31 0 ∧ t.ports.tstat.getLsbD 62 = false ∧ t.mem = s.mem) ∧
    (GoesOn (exec (.thermalAlarm x) s) fun t => fld t.ports.tstat 15 0 = x.toNat ∧ t.mem = s.mem ∧
      t.ports.tstat.getLsbD 63 =
        (s.ports.tstat.getLsbD 63 || decide (fld s.ports.psctl 15 8 * 256 ≤ x.toNat)) ∧
      (fld s.ports.psctl 15 8 * 256 ≤ x.toNat → s.ports.tstat.getLsbD 63 = false → t.ports.alarmAt = some s.time)) ∧
    (∀ e, s.ports.holdEnd = some e → e < s.time → GoesOn (exec .fallback s) fun t =>
      t.ports.tstat.getLsbD 62 = true ∧ t.ports.alarmAt = none ∧ t.mem = s.mem) ∧
    (s.ports.posted = [] → s.ports.recovery = false → GoesOn (exec .alarmClear s) fun t => t.ports.tstat.getLsbD 63 = false ∧ t.ports.alarmAt = none ∧ t.mem = s.mem)) ∧
  (∀ (s : State) (id : BitVec 9), s.ports.posted = [] →
    (s.ports.linkup = 0 → s.ports.recovery = false → exec (.modidWrite id) s = .next { s with ports := { s.ports with modid := id } }) ∧
    (s.ports.linkup ≠ 0 → exec (.modidWrite id) s = .next s)) ∧
  (∀ (s : State) (buf len : Word) (i : Instr) (cmd : Nat),
    (i = .loadImage buf len ∧ cmd = 1 ∨ i = .attestationQuote buf len ∧ cmd = 2 ∨ i = .readIdentity buf len ∧ cmd = 3) →
    s.ports.posted = [] →
    (s.ports.fwSt = 0 → exec i s = .next s) ∧
    (s.ports.fwSt ≠ 0 → fld buf 5 0 = 0 → buf.toNat < 2 ^ 56 → exec i s = .next { s with ports := { s.ports with
      fwCmd := BitVec.ofNat 64 cmd, fwBuf := buf, fwLen := len, fwSt := 0, fwBusy := some cmd } }) ∧
    (s.ports.fwSt ≠ 0 → fld buf 5 0 ≠ 0 ∨ 2 ^ 56 ≤ buf.toNat → GoesOn (exec i s) fun t => t.ports.fwSt = 2 ∧
      t.ports.fwBusy = s.ports.fwBusy ∧ t.mem = s.mem ∧ t.core = s.core)) ∧
  (∀ (s : State) (cmd : Nat), s.ports.fwBusy = some cmd → s.ports.recovery = false →
    (let pa := s.ports.fwBuf.toNat
     let n := s.ports.fwLen.toNat
     AtTheHome s pa n → s.bufferOk pa n = true →
     (cmd = 2 → n < 32 → GoesOn (exec .firmwareRequestDone s) fun t => t.ports.fwSt = 2 ∧ t.mem = s.mem) ∧
     (cmd = 3 ∨ cmd = 2 ∧ 32 ≤ n → GoesOn (exec .firmwareRequestDone s) fun t => t.ports.fwSt = 1 ∧
        t.ports.fwBusy = none ∧ (∀ b, b < pa ∨ pa + n ≤ b → t.mem.read b = s.mem.read b) ∧
        (cmd = 2 → ∀ j < 32, t.mem.read (pa + j) = s.mem.read (pa + j))) ∧
     (cmd = 1 → imageGood (s.mem.readBytes pa n) = true → GoesOn (exec .firmwareRequestDone s) fun t =>
        t.ports.image = s.mem.readBytes pa n ∧ t.ports.imageOk = true ∧ t.mem = s.mem ∧
        t.core = Core.reset (.tile 0)) ∧
     (cmd = 1 → imageGood (s.mem.readBytes pa n) = false → GoesOn (exec .firmwareRequestDone s) fun t =>
        t.ports.fwSt = 3 ∧ t.ports.image = s.ports.image ∧ t.mem = s.mem ∧ t.core = s.core))) ∧
  ∀ (s : State) (n : Nat) (x : Word), n < 32768 → s.ports.posted = [] →
    (s.ports.recovery = false → GoesOn (exec (.registerWrite (0x1000000 + 8 * n) x) s) fun t => t.counter n = x ∧ t.mem = s.mem ∧
      t.core = s.core ∧ ∀ m, m ≠ n → t.counter m = s.counter m) ∧
    (exec (.registerWrite 0x40008 x) s = .next { s with ports := { s.ports with fwBuf := x } }) ∧
    exec (.registerWrite 0x40010 x) s = .next { s with ports := { s.ports with fwLen := x } }

/-! ## Decoding, stepping and invariants -/

/-- Decoding the words of a well-formed chain, whatever follows them, gives it back with its length, with every
operand at every value that the encoding admits (R29 to R48). -/
def Obligations.DecodingAnEncodedChainGivesItBack : Prop :=
  ∀ (i : Instr) (rest : List Nat), i.isChain = true → i.wf = true →
    decodeWords (encode i ++ rest) = .instr i (encode i).length

/-- Words formed from the spec's tables decode to the instruction they stand for, and reserved words are refused at the
word and with the resume address of R51 and R52. -/
def Obligations.SpecWordsDecodeToTheirInstruction : Prop :=
  decodeWords [0x0000] = .instr .nop 1 ∧
  decodeWords [0x73FD] = .instr (.li (-3)) 1 ∧
  decodeWords [0xF061, 0x72A0] = .instr (.li 100000) 2 ∧
  decodeWords [0xF500, 0x0902] = .instr (.put (.m 40) (.t 2)) 2 ∧
  decodeWords [0xFD11, 0x0C00] = .instr (.add (.t 0) (.c 17)) 2 ∧
  decodeWords [0xF841, 0xF404, 0x2C30] = .instr (.madd (.t 1) (.k 0) (.m 33)) 3 ∧
  decodeWords [0x9FE0] = .instr (.jr (.k 15)) 1 ∧
  decodeWords [0xF8A5, 0x0672] = .instr (.ldg .w true .die (.k 3) (.k 2) 0) 2 ∧
  decodeWords [0xF8C3, 0x0822] = .instr (.vadd 1 2 3) 2 ∧
  decodeWords [0xF922, 0xF410, 0x0400] = .instr (.mma 0 (.m 0) 1) 3 ∧
  decodeWords [0xF952, 0x0E11] = .instr (.gath (.k 0) (.k 1) (.k 2)) 2 ∧
  decodeWords [0xC800] = .bad ⟨.illegal, 0, 1⟩ ∧
  decodeWords [0xF800, 0x0C00] = .bad ⟨.illegal, 0, 1⟩

/-- With no input and no exact step before it, a thread's turn fetches its chain and executes it in the state that
issues it; a decode fault is taken; an input, a step whose cycle has come and an engine's turn each execute their own
step. The chain fetched is the one that the words at the program counter decode to, fetched ahead or read from memory,
and the next address is after its last word (R43, R45, R46). Whose turn it is is the model's choice (log entry 7). -/
def Obligations.AStepRunsTheDecodedChain : Prop :=
  (∀ (s : State) i rest, s.agenda = .event i :: rest → step s = exec i { s with agenda := rest }) ∧
  (∀ (s : State) a rest, s.agenda = .turn a :: rest → step s = .next (({ s with agenda := rest } : State).focus a)) ∧
  (∀ s : State, s.agenda = [] →
    (∀ i, s.exactEvent = some i → step s = exec i s) ∧
    (s.exactEvent = none → s.engTurn = true →
      (∀ i, s.engineEvent = some i → step s = exec i { s.toThread with rr := s.rr + 1 }) ∧
      (s.engineEvent = none → step s = .next s.toThread)) ∧
    (s.exactEvent = none → s.engTurn = false →
      (s.canIssue s.core = false → step s = .next { s with time := s.time + 1, engTurn := true }) ∧
      (s.canIssue s.core = true →
        (∀ s1 i next, s.fetchChain s.core.who = .chain s1 i next → step s = exec i
          { s1 with time := s1.time + 1, engTurn := true, core := { s1.core with nextPc := next } }) ∧
        (∀ s1 code word next, s.fetchChain s.core.who = .decode s1 code word next →
          step s = .next (({ s1 with time := s1.time + 1, engTurn := true } : State).trapDecode code word next)) ∧
        ∀ f, s.fetchChain s.core.who = .fault f →
          step s = .next (({ s with time := s.time + 1, engTurn := true } : State).trap f)))) ∧
  ∀ (s : State) (i : Instr) (ws : List Nat), decodeWords ws = .instr i ws.length → ws.length ≤ 5 →
    (∀ k < ws.length, decodeWords (ws.take k) = .more) →
    ((∀ k < ws.length, ∃ w, s.core.fetched.find? (fun p => p.1 == (s.core.pc + BitVec.ofNat 64 (2 * k)).toNat) =
        some ((s.core.pc + BitVec.ofNat 64 (2 * k)).toNat, w) ∧ w.toNat = ws.getD k 0) →
      s.fetchChain s.core.who = .chain s i (s.core.pc + BitVec.ofNat 64 (2 * ws.length))) ∧
    (∀ d, s.core.who = .sup d → s.core.fetched = [] → s.core.pc.toNat % 2 = 0 → s.core.pc.toNat + 10 < 2 ^ 56 →
      (∀ k < ws.length, AtTheL2 s s.core.who (s.core.pc.toNat + 2 * k) ∧
        s.reach (s.core.pc.toNat + 2 * k) 0 = .ok () ∧ s.mem.readNat (s.core.pc.toNat + 2 * k) 2 = ws.getD k 0) →
      ∃ s1, s.fetchChain s.core.who = .chain s1 i (s.core.pc + BitVec.ofNat 64 (2 * ws.length)) ∧ s1.mem = s.mem ∧
        s1.core.regs = s.core.regs ∧ s1.core.pc = s.core.pc ∧ s1.core.scratch = s.core.scratch)

/-- Every step keeps global memory in its canonical form. The form is the model's own (log entry 2). -/
def Obligations.EveryStepKeepsMemoryCanonical : Prop :=
  ∀ s t : State, s.MemoryOk → step s = .next t → t.MemoryOk

/-- Every step keeps every local memory, of a core or of a saved context, in its canonical form. The form is the
model's own (log entry 2). -/
def Obligations.EveryStepKeepsScratchCanonical : Prop :=
  ∀ s t : State, s.ScratchOk → step s = .next t → t.ScratchOk

/-- Every step keeps every transaction, of a core or of a saved context, within the seven levels of nesting that R282
allows. -/
def Obligations.EveryStepKeepsTransactionsWithinSevenLevels : Prop :=
  ∀ s t : State, s.DepthOk → step s = .next t → t.DepthOk

/-- Reset leaves the values that the maps of R369, R413, R414, R421 and R407 give, no team, launch or transaction, every
core without a task, and the invariants of the model. That the completion counters start at 0 is the model's choice (log
entry 1). -/
def Obligations.ResetLeavesTheSpecValues : Prop :=
  State.reset.MemoryOk ∧ State.reset.ScratchOk ∧ State.reset.HomesOk ∧ State.reset.DepthOk ∧
  State.reset.ports.modid = 0 ∧ State.reset.ports.ready = 0 ∧ State.reset.ports.failed = 0 ∧
  State.reset.ports.linkup = 0 ∧ State.reset.ports.tstat = 0 ∧ State.reset.ports.pst = 0 ∧
  fld State.reset.ports.psctl 63 48 = 3000 ∧ fld State.reset.ports.psctl 47 32 = 5400 ∧
  fld State.reset.ports.psctl 31 16 = 100 ∧ fld State.reset.ports.psctl 15 8 = 0x5F ∧
  State.reset.teams = [] ∧ State.reset.launches = [] ∧ State.reset.poison = [] ∧
  (∀ n < 32768, State.reset.counter n = 0 ∧ (State.reset.queue n).en = false ∧ (State.reset.queue n).weight = 1 ∧
    (State.reset.queue n).byp = 8 ∧ (State.reset.queue n).idx = n) ∧
  ∀ a : Agent, (State.reset.getCore a).run = .idle ∧ (State.reset.getCore a).task = none ∧
    (State.reset.getCore a).tx.depth = 0 ∧ (State.reset.getCore a).csr.nflags = 0 ∧
    (State.reset.getCore a).csr.vcfg = 0 ∧ (State.reset.getCore a).csr.xnext = 0 ∧
    (State.reset.getCore a).getF 0 = BitVec.allOnes 256

/-- A scalar chain that reads a pending train position stalls as a whole and changes nothing but that mark; one that
reads no pending position but names a leased register takes LEASE, with the register as the detail, for the first it
names; `put`, `call` and `dbnz` do so for the register they write as well (R84, R91, R116, R431). -/
def Obligations.PendingOperandsStallAndLeasedOnesFault : Prop :=
  (∀ (i : Instr) (s : State) xs p, ScalarRule s.core s.time i xs p →
    ((∃ x ∈ xs, s.core.pending x = true) → exec i s = .next { s with core := { s.core with stalling := true } }) ∧
    ((∀ x ∈ xs, s.core.pending x = false) → ∀ r, (namesOf xs).find? s.core.leased = some r →
      exec i s = .next (s.trap { code := .lease, detail := leaseDetail r }))) ∧
  (∀ (s : State) (d : Dst) (x : Src), s.core.leased (.scalar d) = true → s.core.pending x = false →
    exec (.put d x) s = .next (s.trap { code := .lease, detail := leaseDetail (.scalar d) })) ∧
  (∀ (s : State) (o : Int), s.core.leased (.scalar (.k 15)) = true →
    exec (.call o) s = .next (s.trap { code := .lease, detail := leaseDetail (.scalar (.k 15)) })) ∧
  (∀ (s : State) (k : Fin 16) (o : Int), s.core.leased (.scalar (.k k)) = true →
    exec (.dbnz k o) s = .next (s.trap { code := .lease, detail := leaseDetail (.scalar (.k k)) })) ∧
  (∀ k : Fin 16, leaseDetail (.scalar (.k k)) = BitVec.ofNat 64 (0x10 + k.val)) ∧
  ∀ m : Fin 64, leaseDetail (.scalar (.m m)) = BitVec.ofNat 64 (0x20 + m.val)
end

