-- ==== Sys2Proof/Laws/Core.lean ====
section
/-! SUPPORT. A core's train and registers: what each small update of a core reads as, and what a retired chain keeps. -/

namespace Sys2Proof.Machine

/-! ## The train -/

@[simp] theorem setTrain_inHandler (c : Core) (t : Train) : (c.setTrain t).inHandler = c.inHandler := by
  unfold Core.setTrain Core.inHandler; rfl

/-- The train reads as it was set. -/
@[simp] theorem setTrain_train (c : Core) (t : Train) : (c.setTrain t).train = t := by
  have h := setTrain_inHandler c t
  unfold Core.train
  rw [h]
  unfold Core.setTrain
  cases c.inHandler <;> rfl

theorem pushTrain_zero (t : Train) (p : Pos) : (pushTrain t p).get 0 = p := by
  simp [pushTrain, Vector.get_eq_getElem]

theorem pushTrain_succ (t : Train) (p : Pos) (i : Fin 15) : (pushTrain t p).get i.succ = t.get i.castSucc := by
  simp [pushTrain, Vector.get_eq_getElem]

@[simp] theorem retire_train (c : Core) : c.retire.train = c.train := rfl
@[simp] theorem retire_pc (c : Core) : c.retire.pc = c.nextPc := rfl
@[simp] theorem retire_regs (c : Core) : c.retire.regs = c.regs := rfl
@[simp] theorem retire_csr (c : Core) : c.retire.csr = c.csr := rfl
@[simp] theorem retire_scratch (c : Core) : c.retire.scratch = c.scratch := rfl
@[simp] theorem retire_run (c : Core) : c.retire.run = c.run := rfl
@[simp] theorem retire_entries (c : Core) : c.retire.entries = c.entries := rfl
@[simp] theorem retire_who (c : Core) : c.retire.who = c.who := rfl
@[simp] theorem retire_nextPc (c : Core) : c.retire.nextPc = c.nextPc := rfl

/-- A retired chain changes only the program counter and the marks of its issue. -/
theorem retire_retired (c : Core) : c.RetiredFrom c.retire ∧ c.TrainsKept c.retire := ⟨⟨rfl, rfl⟩, rfl, rfl⟩

/-- Setting the train changes nothing else of the core. -/
theorem setTrain_besides (c : Core) (t : Train) : (c.setTrain t).besidesTrain = c.besidesTrain := by
  unfold Core.setTrain Core.besidesTrain
  cases c.inHandler <;> rfl

theorem setTrain_other (c : Core) (t : Train) : c.OtherTrainKept (c.setTrain t) := by
  unfold Core.OtherTrainKept Core.setTrain
  cases c.inHandler <;> rfl

/-- A position inserted in the train of a core. -/
theorem setTrain_push (c : Core) (p : Pos) : c.Inserted (c.setTrain (pushTrain c.train p)) p := by
  refine ⟨?_, fun i => ?_, setTrain_other c _⟩
  · rw [setTrain_train]; exact pushTrain_zero _ _
  · rw [setTrain_train]; exact pushTrain_succ _ _ i

/-- A chain with a scalar result inserts it at t0 and changes nothing else (R82, R116). -/
theorem result_pushes (s : State) (v : Word) :
    OnlyCore s (s.result v) ∧ s.core.RetiredFrom (s.result v).core ∧ s.core.Inserted (s.result v).core { value := v } :=
  ⟨rfl, ⟨(by unfold State.result Core.push Core.setTrain; rfl), (setTrain_besides s.core _ : _)⟩, setTrain_push s.core _⟩

/-! ## How a chain issues -/

/-- With no leased register among the names, the check of R91 passes. -/
theorem leaseCheck_ok (c : Core) (names : List LeaseReg) (h : ∀ r ∈ names, c.leased r = false) :
    c.leaseCheck names = .ok () := by
  unfold Core.leaseCheck
  rw [List.find?_eq_none.mpr fun r hr => by simp [h r hr]]

/-- A chain whose operands can be read goes on. -/
theorem issue_ok (s : State) (xs : List Src) (names : List LeaseReg) (k : Out) (h : s.core.CanRead xs names) :
    s.issue xs names k = k := by
  have hp : xs.any s.core.pending = false := by
    rw [List.any_eq_false]
    intro x hx
    simp [h.1 x hx]
  unfold State.issue Core.ready
  rw [hp, leaseCheck_ok _ _ h.2]
  rfl

/-- A chain that computes a scalar result pushes it. -/
theorem compute_ok (s : State) (xs : List Src) (f : Core → Word) (h : s.core.CanRead xs (namesOf xs)) :
    s.compute xs f = .next (s.result (f s.core)) := issue_ok s xs (namesOf xs) _ h

/-- A chain that names a pending train position stalls as a whole (R84). -/
theorem issue_pending (s : State) (xs : List Src) (names : List LeaseReg) (k : Out) (x : Src) (hx : x ∈ xs)
    (h : s.core.pending x = true) : s.issue xs names k = s.stall := by
  have hp : xs.any s.core.pending = true := List.any_eq_true.mpr ⟨x, hx, h⟩
  unfold State.issue Core.ready
  rw [hp]
  rfl

/-- A chain that names a leased register takes LEASE, and the register's value is not read (R91). -/
theorem issue_leased (s : State) (xs : List Src) (names : List LeaseReg) (k : Out) (r : LeaseReg)
    (hp : ∀ x ∈ xs, s.core.pending x = false) (h : names.find? s.core.leased = some r) :
    s.issue xs names k = .next (s.trap { code := .lease, detail := leaseDetail r }) := by
  have hq : xs.any s.core.pending = false := by
    rw [List.any_eq_false]
    intro x hx
    simp [hp x hx]
  unfold State.issue Core.ready Core.leaseCheck
  rw [hq, h]
  rfl

@[simp] theorem check_ok {α : Type} (s : State) (x : α) (k : α → Out) : s.check (.ok x) k = k x := rfl
@[simp] theorem check_wait {α : Type} (s : State) (k : α → Out) : s.check .wait k = s.stall := rfl
@[simp] theorem check_bad {α : Type} (s : State) (f : Flt) (k : α → Out) : s.check (.bad f) k = .next (s.trap f) := rfl

theorem notInHandler_ok (s : State) (k : Out) (h : s.core.inHandler = false) : s.notInHandler k = k := by
  unfold State.notInHandler; rw [h]; rfl
theorem notInHandler_trap (s : State) (k : Out) (h : s.core.inHandler = true) :
    s.notInHandler k = .next (s.trap { code := .priv }) := by unfold State.notInHandler; rw [h]; rfl
theorem notInTx_ok (s : State) (k : Out) (h : s.core.tx.depth = 0) : s.notInTx k = k := by
  unfold State.notInTx; rw [h]; rfl
theorem notInTx_abort (s : State) (k : Out) (h : 0 < s.core.tx.depth) : s.notInTx k = .next s.disallow := by
  unfold State.notInTx; exact if_pos h
theorem inTeam_ok (s : State) (k : Out) (h : s.core.isSup = false) : s.inTeam k = k := by
  unfold State.inTeam; rw [h]; rfl
theorem supOnly_ok (s : State) (k : Out) (h : s.core.isSup = true) : s.supOnly k = k := by
  unfold State.supOnly; rw [h]; rfl
theorem supOnly_trap (s : State) (k : Out) (h : s.core.isSup = false) :
    s.supOnly k = .next (s.trap { code := .priv }) := by unfold State.supOnly; rw [h]; rfl

/-! ## Homes of cores, clusters and dies -/

/-- The number of an agent is its own. -/
theorem agentKey_inj (a b : Agent) (h : agentKey a = agentKey b) : a = b := by
  cases a <;> cases b <;> simp only [agentKey] at h <;> first | (congr 1; omega) | omega

theorem agentOf_key (a : Agent) : agentOf (agentKey a) = a := by
  cases a with
  | tile id =>
    have h1 : ¬ 2 * id % 2 = 1 := by omega
    have h2 : 2 * id / 2 = id := by omega
    simp only [agentKey, agentOf, if_neg h1, h2]
  | sup d =>
    have h1 : (2 * d + 1) % 2 = 1 := by omega
    have h2 : (2 * d + 1) / 2 = d := by omega
    simp only [agentKey, agentOf, if_pos h1, h2]

/-- A record put in a list under its key is found there. -/
theorem find_upsert_self {α : Type} (key : α → Nat) (p : α → Bool) (x : α) (hp : p x = true)
    (hk : ∀ y, p y = true → key y = key x) : ∀ xs : List α, (upsert key x xs).find? p = some x
  | [] => by simp [upsert, hp]
  | y :: t => by
    unfold upsert
    split_ifs with h1 h2
    · simp [hp]
    · simp [hp]
    · have hy : p y = false := by
        by_contra hc
        exact h1 (hk y (by simpa using hc)).symm
      rw [List.find?_cons_of_neg (by simp [hy])]
      exact find_upsert_self key p x hp hk t

/-- Putting a record under its key changes no other record's lookup. -/
theorem find_upsert_other {α : Type} (key : α → Nat) (p : α → Bool) (x : α)
    (hp : ∀ y, key y = key x → p y = false) : ∀ xs : List α, (upsert key x xs).find? p = xs.find? p
  | [] => by simp [upsert, hp x rfl]
  | y :: t => by
    unfold upsert
    split_ifs with h1 h2
    · rw [List.find?_cons_of_neg (by simp [hp x rfl]), List.find?_cons_of_neg (by simp [hp y h1.symm])]
    · rw [List.find?_cons_of_neg (by simp [hp x rfl])]
    · by_cases hy : p y = true
      · rw [List.find?_cons_of_pos hy, List.find?_cons_of_pos hy]
      · rw [List.find?_cons_of_neg hy, List.find?_cons_of_neg hy]
        exact find_upsert_other key p x hp t

theorem reset_who (a : Agent) : (Core.reset a).who = a := rfl

/-- The core of an agent bears its name. -/
@[simp] theorem getCore_who (s : State) (a : Agent) : (s.getCore a).who = a := by
  unfold State.getCore
  split_ifs with h
  · exact h.symm
  · split
    · next c hc => simpa using List.find?_some hc
    · rfl

/-- A core that was put back is found. -/
theorem getCore_setCore (s : State) (c : Core) : (s.setCore c).getCore c.who = c := by
  unfold State.setCore
  split_ifs with h
  · unfold State.getCore
    rw [if_pos rfl]
  · unfold State.getCore
    rw [if_neg h, find_upsert_self (fun c => agentKey c.who) (fun d => d.who == c.who) c (by simp)
      (fun y hy => by simp only [beq_iff_eq] at hy; rw [hy])]

/-- Putting a core back changes no other core. -/
theorem getCore_setCore_ne (s : State) (c : Core) (a : Agent) (h : a ≠ c.who) : (s.setCore c).getCore a = s.getCore a := by
  unfold State.setCore
  split_ifs with hc
  · unfold State.getCore
    show (if a = c.who then c else _) = _
    rw [if_neg h, if_neg (fun e => h (e.trans hc.symm))]
  · unfold State.getCore
    rw [find_upsert_other (fun c => agentKey c.who) (fun d => d.who == a) c
      (fun y hy => by
        have := agentKey_inj _ _ hy
        simp only [beq_eq_false_iff_ne, ne_eq, this]
        exact fun e => h e.symm)]

/-- A core that is changed keeps its name: it reads as changed. -/
theorem getCore_modCore (s : State) (a : Agent) (f : Core → Core) (h : (f (s.getCore a)).who = a) :
    (s.modCore a f).getCore a = f (s.getCore a) := by
  have := getCore_setCore s (f (s.getCore a))
  rw [h] at this
  exact this

theorem getCore_modCore_ne (s : State) (a b : Agent) (f : Core → Core) (h : (f (s.getCore a)).who = a) (hb : b ≠ a) :
    (s.modCore a f).getCore b = s.getCore b := getCore_setCore_ne s _ b (by rw [h]; exact hb)

/-- The focal core by its own name. -/
@[simp] theorem getCore_self (s : State) : s.getCore s.core.who = s.core := by
  unfold State.getCore; rw [if_pos rfl]

end Sys2Proof.Machine
end

