-- ==== Sys2Proof/Laws/Exec.lean ====
section
/-! SUPPORT. What exec does with each constructor: its meaning, by name. -/

namespace Sys2Proof.Machine

@[simp] theorem exec_nop (s : State) : exec (.nop) s = execNop s := rfl
@[simp] theorem exec_pick (x : Src) (s : State) : exec (.pick x) s = execPick x s := rfl
@[simp] theorem exec_put (d : Dst) (x : Src) (s : State) : exec (.put d x) s = execPut d x s := rfl
@[simp] theorem exec_add (x y : Src) (s : State) : exec (.add x y) s = execAdd x y s := rfl
@[simp] theorem exec_sub (x y : Src) (s : State) : exec (.sub x y) s = execSub x y s := rfl
@[simp] theorem exec_addi (x : Src) (imm : Int) (s : State) : exec (.addi x imm) s = execAddi x imm s := rfl
@[simp] theorem exec_mul (x y : Src) (s : State) : exec (.mul x y) s = execMul x y s := rfl
@[simp] theorem exec_and (x y : Src) (s : State) : exec (.and x y) s = execAnd x y s := rfl
@[simp] theorem exec_or (x y : Src) (s : State) : exec (.or x y) s = execOr x y s := rfl
@[simp] theorem exec_xor (x y : Src) (s : State) : exec (.xor x y) s = execXor x y s := rfl
@[simp] theorem exec_andi (x : Src) (imm : Nat) (s : State) : exec (.andi x imm) s = execAndi x imm s := rfl
@[simp] theorem exec_shl (x y : Src) (s : State) : exec (.shl x y) s = execShl x y s := rfl
@[simp] theorem exec_shr (x y : Src) (s : State) : exec (.shr x y) s = execShr x y s := rfl
@[simp] theorem exec_sra (x y : Src) (s : State) : exec (.sra x y) s = execSra x y s := rfl
@[simp] theorem exec_shli (x : Src) (n : Nat) (s : State) : exec (.shli x n) s = execShli x n s := rfl
@[simp] theorem exec_shri (x : Src) (n : Nat) (s : State) : exec (.shri x n) s = execShri x n s := rfl
@[simp] theorem exec_srai (x : Src) (n : Nat) (s : State) : exec (.srai x n) s = execSrai x n s := rfl
@[simp] theorem exec_ceq (x y : Src) (s : State) : exec (.ceq x y) s = execCeq x y s := rfl
@[simp] theorem exec_clt (x y : Src) (s : State) : exec (.clt x y) s = execClt x y s := rfl
@[simp] theorem exec_cltu (x y : Src) (s : State) : exec (.cltu x y) s = execCltu x y s := rfl
@[simp] theorem exec_clti (x : Src) (imm : Int) (s : State) : exec (.clti x imm) s = execClti x imm s := rfl
@[simp] theorem exec_min (x y : Src) (s : State) : exec (.min x y) s = execMin x y s := rfl
@[simp] theorem exec_max (x y : Src) (s : State) : exec (.max x y) s = execMax x y s := rfl
@[simp] theorem exec_minu (x y : Src) (s : State) : exec (.minu x y) s = execMinu x y s := rfl
@[simp] theorem exec_maxu (x y : Src) (s : State) : exec (.maxu x y) s = execMaxu x y s := rfl
@[simp] theorem exec_popc (x : Src) (s : State) : exec (.popc x) s = execPopc x s := rfl
@[simp] theorem exec_clz (x : Src) (s : State) : exec (.clz x) s = execClz x s := rfl
@[simp] theorem exec_ctz (x : Src) (s : State) : exec (.ctz x) s = execCtz x s := rfl
@[simp] theorem exec_li (imm : Int) (s : State) : exec (.li imm) s = execLi imm s := rfl
@[simp] theorem exec_ldc (n : Fin 256) (s : State) : exec (.ldc n) s = execLdc n s := rfl
@[simp] theorem exec_lld (w : Width) (addr : Src) (off : Int) (s : State) :
    exec (.lld w addr off) s = execLld w addr off s := rfl
@[simp] theorem exec_lstB (addr val : Src) (off : Int) (s : State) :
    exec (.lstB addr val off) s = execLstB addr val off s := rfl
@[simp] theorem exec_lstH (addr val : Src) (off : Int) (s : State) :
    exec (.lstH addr val off) s = execLstH addr val off s := rfl
@[simp] theorem exec_lstW (addr val : Src) (off : Int) (s : State) :
    exec (.lstW addr val off) s = execLstW addr val off s := rfl
@[simp] theorem exec_lstD (addr val : Src) (off : Int) (s : State) :
    exec (.lstD addr val off) s = execLstD addr val off s := rfl
@[simp] theorem exec_br (off : Int) (s : State) : exec (.br off) s = execBr off s := rfl
@[simp] theorem exec_bz (x : Src) (off : Int) (s : State) : exec (.bz x off) s = execBz x off s := rfl
@[simp] theorem exec_bnz (x : Src) (off : Int) (s : State) : exec (.bnz x off) s = execBnz x off s := rfl
@[simp] theorem exec_call (off : Int) (s : State) : exec (.call off) s = execCall off s := rfl
@[simp] theorem exec_jr (x : Src) (s : State) : exec (.jr x) s = execJr x s := rfl
@[simp] theorem exec_dbnz (k : Fin 16) (off : Int) (s : State) : exec (.dbnz k off) s = execDbnz k off s := rfl
@[simp] theorem exec_ewait (x : Src) (s : State) : exec (.ewait x) s = execEwait x s := rfl
@[simp] theorem exec_earr (x : Src) (s : State) : exec (.earr x) s = execEarr x s := rfl
@[simp] theorem exec_await (x : Src) (s : State) : exec (.await x) s = execAwait x s := rfl
@[simp] theorem exec_wlease (r : LeaseReg) (s : State) : exec (.wlease r) s = execWlease r s := rfl
@[simp] theorem exec_chime (s : State) : exec (.chime) s = execChime s := rfl
@[simp] theorem exec_yield (s : State) : exec (.yield) s = execYield s := rfl
@[simp] theorem exec_endTask (s : State) : exec (.endTask) s = execEnd s := rfl
@[simp] theorem exec_brk (n : Nat) (s : State) : exec (.brk n) s = execBrk n s := rfl
@[simp] theorem exec_svc (n : Nat) (s : State) : exec (.svc n) s = execSvc n s := rfl
@[simp] theorem exec_sel (x y cond : Src) (s : State) : exec (.sel x y cond) s = execSel x y cond s := rfl
@[simp] theorem exec_bmux (x y sc : Src) (lo hi : Fin 16) (s : State) :
    exec (.bmux x y sc lo hi) s = execBmux x y sc lo hi s := rfl
@[simp] theorem exec_fshl (x y n : Src) (s : State) : exec (.fshl x y n) s = execFshl x y n s := rfl
@[simp] theorem exec_fshr (x y n : Src) (s : State) : exec (.fshr x y n) s = execFshr x y n s := rfl
@[simp] theorem exec_mulh (x y : Src) (s : State) : exec (.mulh x y) s = execMulh x y s := rfl
@[simp] theorem exec_mulhu (x y : Src) (s : State) : exec (.mulhu x y) s = execMulhu x y s := rfl
@[simp] theorem exec_div (x y : Src) (s : State) : exec (.div x y) s = execDiv x y s := rfl
@[simp] theorem exec_divu (x y : Src) (s : State) : exec (.divu x y) s = execDivu x y s := rfl
@[simp] theorem exec_rem (x y : Src) (s : State) : exec (.rem x y) s = execRem x y s := rfl
@[simp] theorem exec_remu (x y : Src) (s : State) : exec (.remu x y) s = execRemu x y s := rfl
@[simp] theorem exec_madd (x y z : Src) (s : State) : exec (.madd x y z) s = execMadd x y z s := rfl
@[simp] theorem exec_lea (x y : Src) (sh : Fin 64) (s : State) : exec (.lea x y sh) s = execLea x y sh s := rfl
@[simp] theorem exec_bext (x pos len : Src) (s : State) : exec (.bext x pos len) s = execBext x pos len s := rfl
@[simp] theorem exec_bdep (x val : Src) (pos : Fin 64) (len : Nat) (s : State) :
    exec (.bdep x val pos len) s = execBdep x val pos len s := rfl
@[simp] theorem exec_sext (x : Src) (bits : Nat) (s : State) : exec (.sext x bits) s = execSext x bits s := rfl
@[simp] theorem exec_zext (x : Src) (bits : Nat) (s : State) : exec (.zext x bits) s = execZext x bits s := rfl
@[simp] theorem exec_rotl (x n : Src) (s : State) : exec (.rotl x n) s = execRotl x n s := rfl
@[simp] theorem exec_bswap (x : Src) (s : State) : exec (.bswap x) s = execBswap x s := rfl
@[simp] theorem exec_clamp (x lo hi : Src) (s : State) : exec (.clamp x lo hi) s = execClamp x lo hi s := rfl
@[simp] theorem exec_rdsv (ix : Fin 32) (s : State) : exec (.rdsv ix) s = execRdsv ix s := rfl
@[simp] theorem exec_wrsv (ix : Fin 32) (x : Src) (s : State) : exec (.wrsv ix x) s = execWrsv ix x s := rfl
@[simp] theorem exec_rdtime (s : State) : exec (.rdtime) s = execRdtime s := rfl
@[simp] theorem exec_ldg (w : Width) (acq : Bool) (sc : Scope) (d : Dst) (addr : Src) (off : Int) (s : State) :
    exec (.ldg w acq sc d addr off) s = execLdg w acq sc d addr off s := rfl
@[simp] theorem exec_stg (w : StWidth) (rel : Bool) (sc : Scope) (addr val : Src) (off : Int) (s : State) :
    exec (.stg w rel sc addr val off) s = execStg w rel sc addr val off s := rfl
@[simp] theorem exec_amoW (op : AmoOp) (sc : Scope) (addr val : Src) (s : State) :
    exec (.amoW op sc addr val) s = execAmoW op sc addr val s := rfl
@[simp] theorem exec_amoD (op : AmoOp) (sc : Scope) (addr val : Src) (s : State) :
    exec (.amoD op sc addr val) s = execAmoD op sc addr val s := rfl
@[simp] theorem exec_casW (sc : Scope) (addr expect new : Src) (s : State) :
    exec (.casW sc addr expect new) s = execCasW sc addr expect new s := rfl
@[simp] theorem exec_casD (sc : Scope) (addr expect new : Src) (s : State) :
    exec (.casD sc addr expect new) s = execCasD sc addr expect new s := rfl
@[simp] theorem exec_fence (kind : FenceKind) (sc : Scope) (e : Bool) (s : State) :
    exec (.fence kind sc e) s = execFence kind sc e s := rfl
@[simp] theorem exec_ifence (s : State) : exec (.ifence) s = execIfence s := rfl
@[simp] theorem exec_flush (kind : FlushKind) (lvl : FlushLevel) (addr len : Src) (s : State) :
    exec (.flush kind lvl addr len) s = execFlush kind lvl addr len s := rfl
@[simp] theorem exec_pref (addr len : Src) (lvl : Fin 3) (s : State) :
    exec (.pref addr len lvl) s = execPref addr len lvl s := rfl
@[simp] theorem exec_resid (addr len : Src) (mode : Fin 3) (s : State) :
    exec (.resid addr len mode) s = execResid addr len mode s := rfl
@[simp] theorem exec_vcfg (ty : VType) (fm : MReg) (s : State) : exec (.vcfg ty fm) s = execVcfg ty fm s := rfl
@[simp] theorem exec_vadd (d a b : VReg) (s : State) : exec (.vadd d a b) s = execVadd d a b s := rfl
@[simp] theorem exec_vsub (d a b : VReg) (s : State) : exec (.vsub d a b) s = execVsub d a b s := rfl
@[simp] theorem exec_vmul (d a b : VReg) (s : State) : exec (.vmul d a b) s = execVmul d a b s := rfl
@[simp] theorem exec_vmulh (d a b : VReg) (s : State) : exec (.vmulh d a b) s = execVmulh d a b s := rfl
@[simp] theorem exec_vfma (d a b : VReg) (s : State) : exec (.vfma d a b) s = execVfma d a b s := rfl
@[simp] theorem exec_vdiv (d a b : VReg) (s : State) : exec (.vdiv d a b) s = execVdiv d a b s := rfl
@[simp] theorem exec_vsqrt (d a : VReg) (s : State) : exec (.vsqrt d a) s = execVsqrt d a s := rfl
@[simp] theorem exec_vrcp (d a : VReg) (s : State) : exec (.vrcp d a) s = execVrcp d a s := rfl
@[simp] theorem exec_vrsq (d a : VReg) (s : State) : exec (.vrsq d a) s = execVrsq d a s := rfl
@[simp] theorem exec_vexp2 (d a : VReg) (s : State) : exec (.vexp2 d a) s = execVexp2 d a s := rfl
@[simp] theorem exec_vlog2 (d a : VReg) (s : State) : exec (.vlog2 d a) s = execVlog2 d a s := rfl
@[simp] theorem exec_vmin (d a b : VReg) (s : State) : exec (.vmin d a b) s = execVmin d a b s := rfl
@[simp] theorem exec_vmax (d a b : VReg) (s : State) : exec (.vmax d a b) s = execVmax d a b s := rfl
@[simp] theorem exec_vabs (d a : VReg) (s : State) : exec (.vabs d a) s = execVabs d a s := rfl
@[simp] theorem exec_vand (d a b : VReg) (s : State) : exec (.vand d a b) s = execVand d a b s := rfl
@[simp] theorem exec_vor (d a b : VReg) (s : State) : exec (.vor d a b) s = execVor d a b s := rfl
@[simp] theorem exec_vxor (d a b : VReg) (s : State) : exec (.vxor d a b) s = execVxor d a b s := rfl
@[simp] theorem exec_vbmux (d a b : VReg) (lo hi : Fin 16) (s : State) :
    exec (.vbmux d a b lo hi) s = execVbmux d a b lo hi s := rfl
@[simp] theorem exec_vshl (d a b : VReg) (s : State) : exec (.vshl d a b) s = execVshl d a b s := rfl
@[simp] theorem exec_vshr (d a b : VReg) (s : State) : exec (.vshr d a b) s = execVshr d a b s := rfl
@[simp] theorem exec_vsra (d a b : VReg) (s : State) : exec (.vsra d a b) s = execVsra d a b s := rfl
@[simp] theorem exec_vfshl (d a b : VReg) (n : Fin 64) (s : State) :
    exec (.vfshl d a b n) s = execVfshl d a b n s := rfl
@[simp] theorem exec_vfshr (d a b : VReg) (n : Fin 64) (s : State) :
    exec (.vfshr d a b n) s = execVfshr d a b n s := rfl
@[simp] theorem exec_vpopc (d a : VReg) (s : State) : exec (.vpopc d a) s = execVpopc d a s := rfl
@[simp] theorem exec_vclz (d a : VReg) (s : State) : exec (.vclz d a) s = execVclz d a s := rfl
@[simp] theorem exec_vceq (fd : MReg) (a b : VReg) (s : State) : exec (.vceq fd a b) s = execVceq fd a b s := rfl
@[simp] theorem exec_vclt (fd : MReg) (a b : VReg) (s : State) : exec (.vclt fd a b) s = execVclt fd a b s := rfl
@[simp] theorem exec_vcle (fd : MReg) (a b : VReg) (s : State) : exec (.vcle fd a b) s = execVcle fd a b s := rfl
@[simp] theorem exec_vsel (d a b : VReg) (s : State) : exec (.vsel d a b) s = execVsel d a b s := rfl
@[simp] theorem exec_vsplat (d : VReg) (x : Src) (s : State) : exec (.vsplat d x) s = execVsplat d x s := rfl
@[simp] theorem exec_vext (a : VReg) (idx : Src) (s : State) : exec (.vext a idx) s = execVext a idx s := rfl
@[simp] theorem exec_vins (d : VReg) (x idx : Src) (s : State) : exec (.vins d x idx) s = execVins d x idx s := rfl
@[simp] theorem exec_vperm (d a idx : VReg) (s : State) : exec (.vperm d a idx) s = execVperm d a idx s := rfl
@[simp] theorem exec_vslide (d a : VReg) (dist : Src) (s : State) :
    exec (.vslide d a dist) s = execVslide d a dist s := rfl
@[simp] theorem exec_vred (op : RedOp) (a : VReg) (s : State) : exec (.vred op a) s = execVred op a s := rfl
@[simp] theorem exec_vcvt (f g : CFmt) (r : Rnd) (d a : VReg) (s : State) :
    exec (.vcvt f g r d a) s = execVcvt f g r d a s := rfl
@[simp] theorem exec_vmask (tbl : Fin 16) (fd fa fb : MReg) (s : State) :
    exec (.vmask tbl fd fa fb) s = execVmask tbl fd fa fb s := rfl
@[simp] theorem exec_vld (d : VReg) (addr : Src) (s : State) : exec (.vld d addr) s = execVld d addr s := rfl
@[simp] theorem exec_vst (a : VReg) (addr : Src) (s : State) : exec (.vst a addr) s = execVst a addr s := rfl
@[simp] theorem exec_vldg (d : VReg) (addr : Src) (s : State) : exec (.vldg d addr) s = execVldg d addr s := rfl
@[simp] theorem exec_vstg (a : VReg) (addr : Src) (s : State) : exec (.vstg a addr) s = execVstg a addr s := rfl
@[simp] theorem exec_vgath (d : VReg) (base : Src) (idx : VReg) (s : State) :
    exec (.vgath d base idx) s = execVgath d base idx s := rfl
@[simp] theorem exec_vscat (a : VReg) (base : Src) (idx : VReg) (s : State) :
    exec (.vscat a base idx) s = execVscat a base idx s := rfl
@[simp] theorem exec_mma (a : Acc) (cw : Src) (p : MPair) (s : State) : exec (.mma a cw p) s = execMma a cw p s := rfl
@[simp] theorem exec_mmat (a : Acc) (cw : Src) (p : MPair) (s : State) :
    exec (.mmat a cw p) s = execMmat a cw p s := rfl
@[simp] theorem exec_mred (i32 : Bool) (a : Acc) (len : Nat) (s : State) :
    exec (.mred i32 a len) s = execMred i32 a len s := rfl
@[simp] theorem exec_mzero (a : Acc) (s : State) : exec (.mzero a) s = execMzero a s := rfl
@[simp] theorem exec_mld (a : Acc) (addr : Src) (s : State) : exec (.mld a addr) s = execMld a addr s := rfl
@[simp] theorem exec_mst (f : Fmt) (r : Rnd) (a : Acc) (addr : Src) (s : State) :
    exec (.mst f r a addr) s = execMst f r a addr s := rfl
@[simp] theorem exec_amov (d : VReg) (a : Acc) (col : Nat) (s : State) :
    exec (.amov d a col) s = execAmov d a col s := rfl
@[simp] theorem exec_mwait (a : Acc) (s : State) : exec (.mwait a) s = execMwait a s := rfl
@[simp] theorem exec_copy (src dst : Src) (s : State) : exec (.copy src dst) s = execCopy src dst s := rfl
@[simp] theorem exec_copyf (src dst : Src) (q : MQuad) (stream2 : Bool) (s : State) :
    exec (.copyf src dst q stream2) s = execCopyf src dst q stream2 s := rfl
@[simp] theorem exec_gath (table idx dst : Src) (s : State) :
    exec (.gath table idx dst) s = execGath table idx dst s := rfl
@[simp] theorem exec_stage (n : Nat) (s : State) : exec (.stage n) s = execStage n s := rfl
@[simp] theorem exec_xdone (s : State) : exec (.xdone) s = execXdone s := rfl
@[simp] theorem exec_einit (x n : Src) (s : State) : exec (.einit x n) s = execEinit x n s := rfl
@[simp] theorem exec_eexp (x bytes : Src) (s : State) : exec (.eexp x bytes) s = execEexp x bytes s := rfl
@[simp] theorem exec_earrn (x n : Src) (s : State) : exec (.earrn x n) s = execEarrn x n s := rfl
@[simp] theorem exec_etest (x : Src) (s : State) : exec (.etest x) s = execEtest x s := rfl
@[simp] theorem exec_uien (x : Src) (s : State) : exec (.uien x) s = execUien x s := rfl
@[simp] theorem exec_uidis (s : State) : exec (.uidis) s = execUidis s := rfl
@[simp] theorem exec_uiret (s : State) : exec (.uiret) s = execUiret s := rfl
@[simp] theorem exec_tbegin (off : Int) (s : State) : exec (.tbegin off) s = execTbegin off s := rfl
@[simp] theorem exec_tend (s : State) : exec (.tend) s = execTend s := rfl
@[simp] theorem exec_tabort (code : Nat) (s : State) : exec (.tabort code) s = execTabort code s := rfl
@[simp] theorem exec_tstat (s : State) : exec (.tstat) s = execTstat s := rfl
@[simp] theorem exec_tcaddW (addr val : Src) (s : State) : exec (.tcaddW addr val) s = execTcaddW addr val s := rfl
@[simp] theorem exec_tcaddF (addr val : Src) (s : State) : exec (.tcaddF addr val) s = execTcaddF addr val s := rfl
@[simp] theorem exec_tcmaxW (addr val : Src) (s : State) : exec (.tcmaxW addr val) s = execTcmaxW addr val s := rfl
@[simp] theorem exec_tcminW (addr val : Src) (s : State) : exec (.tcminW addr val) s = execTcminW addr val s := rfl
@[simp] theorem exec_tcorD (addr val : Src) (s : State) : exec (.tcorD addr val) s = execTcorD addr val s := rfl
@[simp] theorem exec_tdepth (s : State) : exec (.tdepth) s = execTdepth s := rfl
@[simp] theorem exec_hsift (heap score id : Src) (s : State) :
    exec (.hsift heap score id) s = execHsift heap score id s := rfl
@[simp] theorem exec_vhsift (block : Src) (score : VReg) (id : Src) (s : State) :
    exec (.vhsift block score id) s = execVhsift block score id s := rfl
@[simp] theorem exec_hsort (block : Src) (s : State) : exec (.hsort block) s = execHsort block s := rfl
@[simp] theorem exec_route (r : Src) (s : State) : exec (.route r) s = execRoute r s := rfl
@[simp] theorem exec_rtbl (r : Src) (s : State) : exec (.rtbl r) s = execRtbl r s := rfl
@[simp] theorem exec_mrg (r : Src) (s : State) : exec (.mrg r) s = execMrg r s := rfl
@[simp] theorem exec_umrg (r : Src) (s : State) : exec (.umrg r) s = execUmrg r s := rfl
@[simp] theorem exec_rmstat (r : Src) (s : State) : exec (.rmstat r) s = execRmstat r s := rfl
@[simp] theorem exec_xsend (src count : Src) (w : Nat) (s : State) :
    exec (.xsend src count w) s = execXsend src count w s := rfl
@[simp] theorem exec_xrecv (dst : Src) (w : Nat) (s : State) : exec (.xrecv dst w) s = execXrecv dst w s := rfl
@[simp] theorem exec_xput (src drec : Src) (s : State) : exec (.xput src drec) s = execXput src drec s := rfl
@[simp] theorem exec_rput (sh val : Src) (off : Int) (s : State) :
    exec (.rput sh val off) s = execRput sh val off s := rfl
@[simp] theorem exec_rget (d : Dst) (sh : Src) (s : State) : exec (.rget d sh) s = execRget d sh s := rfl
@[simp] theorem exec_renq (handle r : Src) (s : State) : exec (.renq handle r) s = execRenq handle r s := rfl
@[simp] theorem exec_wenq (target r : Src) (s : State) : exec (.wenq target r) s = execWenq target r s := rfl
@[simp] theorem exec_qpop (dst : Src) (s : State) : exec (.qpop dst) s = execQpop dst s := rfl
@[simp] theorem exec_qtry (dst : Src) (s : State) : exec (.qtry dst) s = execQtry dst s := rfl
@[simp] theorem exec_permit (walk n : Src) (s : State) : exec (.permit walk n) s = execPermit walk n s := rfl
@[simp] theorem exec_walk (r : Src) (s : State) : exec (.walk r) s = execWalk r s := rfl
@[simp] theorem exec_chimex (layer : Src) (s : State) : exec (.chimex layer) s = execChimex layer s := rfl
@[simp] theorem exec_succ (ix : Fin 8) (ma mb : Src) (s : State) :
    exec (.succ ix ma mb) s = execSucc ix ma mb s := rfl
@[simp] theorem exec_carve (word : Src) (s : State) : exec (.carve word) s = execCarve word s := rfl
@[simp] theorem exec_launch (handle r : Src) (s : State) : exec (.launch handle r) s = execLaunch handle r s := rfl
@[simp] theorem exec_sig (ctr : Src) (s : State) : exec (.sig ctr) s = execSig ctr s := rfl
@[simp] theorem exec_rdcsr (n : Csr) (s : State) : exec (.rdcsr n) s = execRdcsr n s := rfl
@[simp] theorem exec_wrcsr (n : Csr) (x : Src) (s : State) : exec (.wrcsr n x) s = execWrcsr n x s := rfl
@[simp] theorem exec_mbox (x y : Src) (s : State) : exec (.mbox x y) s = execMbox x y s := rfl
@[simp] theorem exec_park (c : Src) (s : State) : exec (.park c) s = execPark c s := rfl
@[simp] theorem exec_unpark (c : Src) (mode : UnparkMode) (s : State) :
    exec (.unpark c mode) s = execUnpark c mode s := rfl
@[simp] theorem exec_rpl (c : Src) (ix : Nat) (s : State) : exec (.rpl c ix) s = execRpl c ix s := rfl
@[simp] theorem exec_wpl (c : Src) (ix : Nat) (x : Src) (s : State) : exec (.wpl c ix x) s = execWpl c ix x s := rfl
@[simp] theorem exec_tlbinv (addr sel : Src) (s : State) : exec (.tlbinv addr sel) s = execTlbinv addr sel s := rfl
@[simp] theorem exec_pclr (line : Src) (s : State) : exec (.pclr line) s = execPclr line s := rfl
@[simp] theorem exec_ctxsave (team area : Src) (s : State) :
    exec (.ctxsave team area) s = execCtxsave team area s := rfl
@[simp] theorem exec_ctxload (team area : Src) (s : State) :
    exec (.ctxload team area) s = execCtxload team area s := rfl
@[simp] theorem exec_pendingArrival (a : Agent) (tag : Nat) (s : State) :
    exec (.pendingArrival a tag) s = execPendingArrival a tag s := rfl
@[simp] theorem exec_ewaitWake (a : Agent) (s : State) : exec (.ewaitWake a) s = execEwaitWake a s := rfl
@[simp] theorem exec_awaitWake (a : Agent) (s : State) : exec (.awaitWake a) s = execAwaitWake a s := rfl
@[simp] theorem exec_wleaseWake (a : Agent) (s : State) : exec (.wleaseWake a) s = execWleaseWake a s := rfl
@[simp] theorem exec_mwaitWake (a : Agent) (s : State) : exec (.mwaitWake a) s = execMwaitWake a s := rfl
@[simp] theorem exec_qpopWake (a : Agent) (s : State) : exec (.qpopWake a) s = execQpopWake a s := rfl
@[simp] theorem exec_chimeRelease (launch : Nat) (s : State) :
    exec (.chimeRelease launch) s = execChimeRelease launch s := rfl
@[simp] theorem exec_startRelease (launch : Nat) (s : State) :
    exec (.startRelease launch) s = execStartRelease launch s := rfl
@[simp] theorem exec_remoteArrival (n : Nat) (s : State) : exec (.remoteArrival n) s = execRemoteArrival n s := rfl
@[simp] theorem exec_userLevelInterrupt (a : Agent) (s : State) :
    exec (.userLevelInterrupt a) s = execUserLevelInterrupt a s := rfl
@[simp] theorem exec_pageTableWalk (die asid va : Nat) (s : State) :
    exec (.pageTableWalk die asid va) s = execPageTableWalk die asid va s := rfl
@[simp] theorem exec_messageDelivery (die row : Nat) (merge : Bool) (s : State) :
    exec (.messageDelivery die row merge) s = execMessageDelivery die row merge s := rfl
@[simp] theorem exec_globalLoadReturns (a : Agent) (tag : Nat) (s : State) :
    exec (.globalLoadReturns a tag) s = execGlobalLoadReturns a tag s := rfl
@[simp] theorem exec_atomicCompletes (a : Agent) (tag : Nat) (s : State) :
    exec (.atomicCompletes a tag) s = execAtomicCompletes a tag s := rfl
@[simp] theorem exec_fenceCompletion (a : Agent) (s : State) :
    exec (.fenceCompletion a) s = execFenceCompletion a s := rfl
@[simp] theorem exec_flushWalkCompletes (a : Agent) (tag : Nat) (s : State) :
    exec (.flushWalkCompletes a tag) s = execFlushWalkCompletes a tag s := rfl
@[simp] theorem exec_releaseCompletion (a : Agent) (s : State) :
    exec (.releaseCompletion a) s = execReleaseCompletion a s := rfl
@[simp] theorem exec_pclrCompletion (a : Agent) (s : State) :
    exec (.pclrCompletion a) s = execPclrCompletion a s := rfl
@[simp] theorem exec_tlbinvCompletion (a : Agent) (s : State) :
    exec (.tlbinvCompletion a) s = execTlbinvCompletion a s := rfl
@[simp] theorem exec_vectorExecution (a : Agent) (s : State) :
    exec (.vectorExecution a) s = execVectorExecution a s := rfl
@[simp] theorem exec_channelOperationCompletes (a : Agent) (id : Word32) (s : State) :
    exec (.channelOperationCompletes a id) s = execChannelOperationCompletes a id s := rfl
@[simp] theorem exec_commandPlacement (a : Agent) (id : Word32) (s : State) :
    exec (.commandPlacement a id) s = execCommandPlacement a id s := rfl
@[simp] theorem exec_matrixOperationStart (a : Agent) (stream : Fin 4) (s : State) :
    exec (.matrixOperationStart a stream) s = execMatrixOperationStart a stream s := rfl
@[simp] theorem exec_matrixOperationCompletes (a : Agent) (stream : Fin 4) (s : State) :
    exec (.matrixOperationCompletes a stream) s = execMatrixOperationCompletes a stream s := rfl
@[simp] theorem exec_teamRendezvous (team : Nat) (s : State) :
    exec (.teamRendezvous team) s = execTeamRendezvous team s := rfl
@[simp] theorem exec_mredMessage (a : Agent) (s : State) : exec (.mredMessage a) s = execMredMessage a s := rfl
@[simp] theorem exec_commitPoint (a : Agent) (s : State) : exec (.commitPoint a) s = execCommitPoint a s := rfl
@[simp] theorem exec_transactionAbort (a : Agent) (s : State) :
    exec (.transactionAbort a) s = execTransactionAbort a s := rfl
@[simp] theorem exec_routeCompletion (die : Nat) (s : State) :
    exec (.routeCompletion die) s = execRouteCompletion die s := rfl
@[simp] theorem exec_tableStaged (die : Nat) (s : State) : exec (.tableStaged die) s = execTableStaged die s := rfl
@[simp] theorem exec_rmstatCompletion (a : Agent) (tag : Nat) (s : State) :
    exec (.rmstatCompletion a tag) s = execRmstatCompletion a tag s := rfl
@[simp] theorem exec_mrgCompletion (a : Agent) (s : State) : exec (.mrgCompletion a) s = execMrgCompletion a s := rfl
@[simp] theorem exec_windowStart (launch w : Nat) (s : State) :
    exec (.windowStart launch w) s = execWindowStart launch w s := rfl
@[simp] theorem exec_lastPayloadBeat (launch w : Nat) (s : State) :
    exec (.lastPayloadBeat launch w) s = execLastPayloadBeat launch w s := rfl
@[simp] theorem exec_windowEnd (launch w : Nat) (s : State) :
    exec (.windowEnd launch w) s = execWindowEnd launch w s := rfl
@[simp] theorem exec_xputDelivery (a : Agent) (id : Word32) (s : State) :
    exec (.xputDelivery a id) s = execXputDelivery a id s := rfl
@[simp] theorem exec_rputLanding (a : Agent) (tag : Nat) (s : State) :
    exec (.rputLanding a tag) s = execRputLanding a tag s := rfl
@[simp] theorem exec_rputAcknowledgement (a : Agent) (tag : Nat) (s : State) :
    exec (.rputAcknowledgement a tag) s = execRputAcknowledgement a tag s := rfl
@[simp] theorem exec_rgetReply (a : Agent) (tag : Nat) (s : State) :
    exec (.rgetReply a tag) s = execRgetReply a tag s := rfl
@[simp] theorem exec_tileDelivery (owner : Nat) (wid : Fin 8) (s : State) :
    exec (.tileDelivery owner wid) s = execTileDelivery owner wid s := rfl
@[simp] theorem exec_enqueue (a : Agent) (id : Word32) (s : State) :
    exec (.enqueue a id) s = execEnqueue a id s := rfl
@[simp] theorem exec_launchRecordTaken (queue : Nat) (s : State) :
    exec (.launchRecordTaken queue) s = execLaunchRecordTaken queue s := rfl
@[simp] theorem exec_dependencesMet (launch : Nat) (s : State) :
    exec (.dependencesMet launch) s = execDependencesMet launch s := rfl
@[simp] theorem exec_dispatch (launch team die gx gy : Nat) (s : State) :
    exec (.dispatch launch team die gx gy) s = execDispatch launch team die gx gy s := rfl
@[simp] theorem exec_admission (launch : Nat) (place : List (Nat × Nat × Nat)) (s : State) :
    exec (.admission launch place) s = execAdmission launch place s := rfl
@[simp] theorem exec_teamRetirement (team : Nat) (s : State) :
    exec (.teamRetirement team) s = execTeamRetirement team s := rfl
@[simp] theorem exec_handOver (team : Nat) (s : State) : exec (.handOver team) s = execHandOver team s := rfl
@[simp] theorem exec_carveRenegotiation (team : Nat) (s : State) :
    exec (.carveRenegotiation team) s = execCarveRenegotiation team s := rfl
@[simp] theorem exec_deadlineExpiry (save : Nat) (s : State) :
    exec (.deadlineExpiry save) s = execDeadlineExpiry save s := rfl
@[simp] theorem exec_cooperativeEviction (save : Nat) (s : State) :
    exec (.cooperativeEviction save) s = execCooperativeEviction save s := rfl
@[simp] theorem exec_restore (save : Nat) (s : State) : exec (.restore save) s = execRestore save s := rfl
@[simp] theorem exec_unitLeavesCoherence (u : CohUnit) (s : State) :
    exec (.unitLeavesCoherence u) s = execUnitLeavesCoherence u s := rfl
@[simp] theorem exec_softError (line : Nat) (s : State) : exec (.softError line) s = execSoftError line s := rfl
@[simp] theorem exec_inv (line from_ : Nat) (s : State) : exec (.inv line from_) s = execInv line from_ s := rfl
@[simp] theorem exec_invack (line from_ : Nat) (s : State) :
    exec (.invack line from_) s = execInvack line from_ s := rfl
@[simp] theorem exec_grant (line : Nat) (to_ : Granted) (s : State) :
    exec (.grant line to_) s = execGrant line to_ s := rfl
@[simp] theorem exec_wback (line : Nat) (data : List Byte) (s : State) :
    exec (.wback line data) s = execWback line data s := rfl
@[simp] theorem exec_poison (line : Nat) (s : State) : exec (.poison line) s = execPoison line s := rfl
@[simp] theorem exec_chimearr (launch module : Nat) (given : List (Option (BitVec 16))) (s : State) :
    exec (.chimearr launch module given) s = execChimearr launch module given s := rfl
@[simp] theorem exec_chimerel (launch : Nat) (release : Option (Option (BitVec 16))) (s : State) :
    exec (.chimerel launch release) s = execChimerel launch release s := rfl
@[simp] theorem exec_qrec (from_ : Nat) (handle : Word) (r : FarRecord) (sv : List Word) (s : State) :
    exec (.qrec from_ handle r sv) s = execQrec from_ handle r sv s := rfl
@[simp] theorem exec_qack (a : Agent) (id : Word32) (code : Fin 4) (s : State) :
    exec (.qack a id code) s = execQack a id code s := rfl
@[simp] theorem exec_myzilTlbinv (from_ : Nat) (addr sel : Word) (s : State) :
    exec (.myzilTlbinv from_ addr sel) s = execMyzilTlbinv from_ addr sel s := rfl
@[simp] theorem exec_tlback (from_ : Nat) (s : State) : exec (.tlback from_) s = execTlback from_ s := rfl
@[simp] theorem exec_notice (vector : Nat) (s : State) : exec (.notice vector) s = execNotice vector s := rfl
@[simp] theorem exec_linkUp (n : Fin 32) (s : State) : exec (.linkUp n) s = execLinkUp n s := rfl
@[simp] theorem exec_linkDown (n : Fin 32) (s : State) : exec (.linkDown n) s = execLinkDown n s := rfl
@[simp] theorem exec_moduleReset (made : List Byte) (s : State) :
    exec (.moduleReset made) s = execModuleReset made s := rfl
@[simp] theorem exec_selfTestComplete (fn : ModFn) (ok : Bool) (s : State) :
    exec (.selfTestComplete fn ok) s = execSelfTestComplete fn ok s := rfl
@[simp] theorem exec_frameReceive (port : EthPort) (pa : Nat) (data : List Byte) (counter : Nat) (s : State) :
    exec (.frameReceive port pa data counter) s = execFrameReceive port pa data counter s := rfl
@[simp] theorem exec_frameTransmit (port : EthPort) (pa len : Nat) (s : State) :
    exec (.frameTransmit port pa len) s = execFrameTransmit port pa len s := rfl
@[simp] theorem exec_hostRead (bar : Fin 3) (off len : Nat) (s : State) :
    exec (.hostRead bar off len) s = execHostRead bar off len s := rfl
@[simp] theorem exec_hostWrite (bar : Fin 3) (off : Nat) (data : List Byte) (s : State) :
    exec (.hostWrite bar off data) s = execHostWrite bar off data s := rfl
@[simp] theorem exec_doorbell (queue : Nat) (index : Word) (s : State) :
    exec (.doorbell queue index) s = execDoorbell queue index s := rfl
@[simp] theorem exec_queueDescriptorWrite (queue : Nat) (word : Fin 4) (x : Word) (s : State) :
    exec (.queueDescriptorWrite queue word x) s = execQueueDescriptorWrite queue word x s := rfl
@[simp] theorem exec_run (s : State) : exec (.run) s = execRun s := rfl
@[simp] theorem exec_idle (s : State) : exec (.idle) s = execIdle s := rfl
@[simp] theorem exec_standby (s : State) : exec (.standby) s = execStandby s := rfl
@[simp] theorem exec_off (s : State) : exec (.off) s = execOff s := rfl
@[simp] theorem exec_clusterGate (die cluster : Nat) (gate : Bool) (s : State) :
    exec (.clusterGate die cluster gate) s = execClusterGate die cluster gate s := rfl
@[simp] theorem exec_dieGate (die : Nat) (gate : Bool) (s : State) :
    exec (.dieGate die gate) s = execDieGate die gate s := rfl
@[simp] theorem exec_sliceGate (die slice : Nat) (gate : Bool) (s : State) :
    exec (.sliceGate die slice gate) s = execSliceGate die slice gate s := rfl
@[simp] theorem exec_pcapWrite (cap : BitVec 16) (s : State) : exec (.pcapWrite cap) s = execPcapWrite cap s := rfl
@[simp] theorem exec_thermalAlarm (temp : BitVec 16) (s : State) :
    exec (.thermalAlarm temp) s = execThermalAlarm temp s := rfl
@[simp] theorem exec_fallback (s : State) : exec (.fallback) s = execFallback s := rfl
@[simp] theorem exec_alarmClear (s : State) : exec (.alarmClear) s = execAlarmClear s := rfl
@[simp] theorem exec_modidWrite (id : BitVec 9) (s : State) : exec (.modidWrite id) s = execModidWrite id s := rfl
@[simp] theorem exec_loadImage (buf len : Word) (s : State) :
    exec (.loadImage buf len) s = execLoadImage buf len s := rfl
@[simp] theorem exec_attestationQuote (buf len : Word) (s : State) :
    exec (.attestationQuote buf len) s = execAttestationQuote buf len s := rfl
@[simp] theorem exec_readIdentity (buf len : Word) (s : State) :
    exec (.readIdentity buf len) s = execReadIdentity buf len s := rfl
@[simp] theorem exec_firmwareRequestDone (s : State) :
    exec (.firmwareRequestDone) s = execFirmwareRequestDone s := rfl
@[simp] theorem exec_registerWrite (off : Nat) (x : Word) (s : State) :
    exec (.registerWrite off x) s = execRegisterWrite off x s := rfl
@[simp] theorem exec_plotRegistration (a : Agent) (tag : Nat) (s : State) :
    exec (.plotRegistration a tag) s = execPlotRegistration a tag s := rfl

end Sys2Proof.Machine
end

