-- ==== Sys2Proof/Laws/Memory.lean ====
section
/-! SUPPORT. Memories: reading after writing, and the canonical form that every memory operation keeps. -/

namespace Sys2Proof.Machine

/-- A memory canonical above a bound is canonical above a lower one. -/
theorem wfFrom_le {lo lo' : Nat} (m : Memory) (h : lo' ≤ lo) (hm : Memory.wfFrom lo m = true) :
    Memory.wfFrom lo' m = true := by
  cases m with
  | nil => rfl
  | cons p t =>
    obtain ⟨k, v⟩ := p
    simp only [Memory.wfFrom, Bool.and_eq_true, decide_eq_true_eq] at hm ⊢
    exact ⟨⟨by omega, hm.1.2⟩, hm.2⟩

/-- A write at or above the bound keeps the canonical form. -/
theorem wfFrom_write (m : Memory) : ∀ (lo a : Nat) (v : Byte), lo ≤ a → Memory.wfFrom lo m = true →
    Memory.wfFrom lo (m.write a v) = true := by
  induction m with
  | nil =>
    intro lo a v h _
    simp only [Memory.write]
    split_ifs with hv
    · rfl
    · simp only [Memory.wfFrom, Bool.and_eq_true, decide_eq_true_eq]
      exact ⟨⟨h, hv⟩, trivial⟩
  | cons p t ih =>
    intro lo a v h hm
    obtain ⟨k, w⟩ := p
    have hm' := hm
    simp only [Memory.wfFrom, Bool.and_eq_true, decide_eq_true_eq] at hm
    obtain ⟨⟨hk, hw⟩, ht⟩ := hm
    simp only [Memory.write]
    split_ifs with hak hv hak' hv
    · exact hm'
    · simp only [Memory.wfFrom, Bool.and_eq_true, decide_eq_true_eq]
      exact ⟨⟨h, hv⟩, ⟨hak, hw⟩, ht⟩
    · exact wfFrom_le t (by omega) ht
    · simp only [Memory.wfFrom, Bool.and_eq_true, decide_eq_true_eq]
      exact ⟨⟨h, hv⟩, hak' ▸ ht⟩
    · simp only [Memory.wfFrom, Bool.and_eq_true, decide_eq_true_eq]
      exact ⟨⟨hk, hw⟩, ih (k + 1) a v (by omega) ht⟩

/-- A write keeps the canonical form. -/
theorem wf_write (m : Memory) (a : Nat) (v : Byte) (h : m.wf = true) : (m.write a v).wf = true :=
  wfFrom_write m 0 a v (Nat.zero_le a) h

/-- A write of bytes keeps the canonical form. -/
theorem wf_writeBytes (bs : List Byte) : ∀ (m : Memory) (a : Nat), m.wf = true → (m.writeBytes a bs).wf = true := by
  induction bs with
  | nil => intro m a h; exact h
  | cons b t ih => intro m a h; exact ih _ _ (wf_write m a b h)

/-- A write of a number keeps the canonical form. -/
theorem wf_writeNat (m : Memory) (a n v : Nat) (h : m.wf = true) : (m.writeNat a n v).wf = true :=
  wf_writeBytes _ m a h

/-- Writes one after another keep the canonical form. -/
theorem wf_foldWrite (cells : List (Nat × Byte)) : ∀ m : Memory, m.wf = true →
    Memory.wf (cells.foldl (fun (m : Memory) (c : Nat × Byte) => m.write c.1 c.2) m) = true := by
  induction cells with
  | nil => intro m h; exact h
  | cons c t ih => intro m h; exact ih _ (wf_write m c.1 c.2 h)

/-- Dropping entries keeps the canonical form. -/
theorem wfFrom_filter (p : Host.Cell → Bool) (m : Memory) : ∀ lo, Memory.wfFrom lo m = true →
    Memory.wfFrom lo (m.filter p) = true := by
  induction m with
  | nil => intro lo _; rfl
  | cons q t ih =>
    intro lo h
    obtain ⟨k, v⟩ := q
    simp only [Memory.wfFrom, Bool.and_eq_true, decide_eq_true_eq] at h
    by_cases hp : p (k, v) = true
    · simp only [List.filter_cons_of_pos hp, Memory.wfFrom, Bool.and_eq_true, decide_eq_true_eq]
      exact ⟨h.1, ih _ h.2⟩
    · rw [List.filter_cons_of_neg hp]
      exact wfFrom_le _ (by omega) (ih _ h.2)

/-- Dropping entries keeps the canonical form. -/
theorem wf_filter (p : Host.Cell → Bool) (m : Memory) (h : m.wf = true) : Memory.wf (m.filter p) = true :=
  wfFrom_filter p m 0 h

/-- Below its bound a memory lists nothing. -/
theorem read_below (m : Memory) : ∀ (lo a : Nat), a < lo → Memory.wfFrom lo m = true → m.read a = 0 := by
  cases m with
  | nil => intro lo a _ _; rfl
  | cons p t =>
    intro lo a h hm
    obtain ⟨k, v⟩ := p
    simp only [Memory.wfFrom, Bool.and_eq_true, decide_eq_true_eq] at hm
    have h1 : ¬ a = k := by omega
    have h2 : a < k := by omega
    simp [Memory.read, h1, h2]

/-- Reading a listed memory, by the place of the address against the first entry. -/
theorem read_cons (k : Nat) (w : Byte) (t : Memory) (b : Nat) :
    Memory.read ((k, w) :: t) b = if b = k then w else if b < k then 0 else t.read b := rfl

/-- Reading after a write: the byte written, and every other byte as before. -/
theorem read_write_from (m : Memory) : ∀ (lo a b : Nat) (v : Byte), Memory.wfFrom lo m = true →
    (m.write a v).read b = if b = a then v else m.read b := by
  induction m with
  | nil =>
    intro lo a b v _
    simp only [Memory.write]
    split_ifs with hv hb hb
    · exact hv.symm
    · rfl
    · rw [read_cons, if_pos hb]
    · rw [read_cons, if_neg hb]
      split_ifs <;> rfl
  | cons p t ih =>
    intro lo a b v hm
    obtain ⟨k, w⟩ := p
    simp only [Memory.wfFrom, Bool.and_eq_true, decide_eq_true_eq] at hm
    obtain ⟨-, ht⟩ := hm
    have below : ∀ x, x < k + 1 → Memory.read t x = 0 := fun x hx => read_below t (k + 1) x hx ht
    simp only [Memory.write]
    split_ifs with hak hv hb hb hak' hv hb hb hb
    · rw [read_cons, if_neg (by omega), if_pos (by omega), hv]
    · rfl
    · rw [read_cons, if_pos hb]
    · rw [read_cons, if_neg hb, read_cons]
      split_ifs <;> first | rfl | omega
    · rw [below b (by omega), hv]
    · rw [read_cons, if_neg (by omega)]
      split_ifs with hlt
      · exact below b (by omega)
      · rfl
    · rw [read_cons, if_pos hb]
    · rw [read_cons, if_neg hb, read_cons, if_neg (by omega : ¬ b = k), hak']
    · rw [read_cons, if_neg (by omega), if_neg (by omega), ih (k + 1) a b v ht, if_pos hb]
    · rw [read_cons, read_cons, ih (k + 1) a b v ht, if_neg hb]

/-- Reading after a write of one byte. -/
theorem read_write (m : Memory) (a b : Nat) (v : Byte) (h : m.wf = true) :
    (m.write a v).read b = if b = a then v else m.read b := read_write_from m 0 a b v h

/-- A write of bytes leaves every byte outside its span as it was. -/
theorem read_writeBytes_outside (bs : List Byte) : ∀ (m : Memory) (a b : Nat), m.wf = true →
    (b < a ∨ a + bs.length ≤ b) → (m.writeBytes a bs).read b = m.read b := by
  induction bs with
  | nil => intro m a b _ _; rfl
  | cons x t ih =>
    intro m a b h hb
    simp only [List.length_cons] at hb
    have hne : ¬ b = a := by omega
    show ((m.write a x).writeBytes (a + 1) t).read b = m.read b
    rw [ih (m.write a x) (a + 1) b (wf_write m a x h) (by omega), read_write m a b x h]
    simp [hne]

/-- A write of bytes stores each byte at its own address. -/
theorem read_writeBytes_inside (bs : List Byte) : ∀ (m : Memory) (a i : Nat), m.wf = true → i < bs.length →
    (m.writeBytes a bs).read (a + i) = bs.getD i 0 := by
  induction bs with
  | nil => intro m a i _ h; simp at h
  | cons x t ih =>
    intro m a i h hi
    show ((m.write a x).writeBytes (a + 1) t).read (a + i) = (x :: t).getD i 0
    cases i with
    | zero =>
      have := read_writeBytes_outside t (m.write a x) (a + 1) a (wf_write m a x h) (by omega)
      simp [this, read_write m a a x h]
    | succ j =>
      have hj : j < t.length := by simpa using hi
      have e : a + (j + 1) = a + 1 + j := by omega
      rw [e, ih (m.write a x) (a + 1) j (wf_write m a x h) hj]
      simp

end Sys2Proof.Machine
end

