-- ==== Sys2Proof/Laws/State.lean ====
section
/-! SUPPORT. What each small update of the state, and of a core, leaves as it was: one lemma for each field, so that no
proof unfolds a record update. -/

namespace Sys2Proof.Machine

/-! ## State.setCluster -/

@[simp] theorem state_setCluster_core (s : State) (c : Cluster) : (s.setCluster c).core = s.core := rfl
@[simp] theorem state_setCluster_others (s : State) (c : Cluster) : (s.setCluster c).others = s.others := rfl
@[simp] theorem state_setCluster_dies (s : State) (c : Cluster) : (s.setCluster c).dies = s.dies := rfl
@[simp] theorem state_setCluster_time (s : State) (c : Cluster) : (s.setCluster c).time = s.time := rfl
@[simp] theorem state_setCluster_mem (s : State) (c : Cluster) : (s.setCluster c).mem = s.mem := rfl
@[simp] theorem state_setCluster_l2 (s : State) (c : Cluster) : (s.setCluster c).l2 = s.l2 := rfl
@[simp] theorem state_setCluster_pins (s : State) (c : Cluster) : (s.setCluster c).pins = s.pins := rfl
@[simp] theorem state_setCluster_tileLines (s : State) (c : Cluster) : (s.setCluster c).tileLines = s.tileLines := rfl
@[simp] theorem state_setCluster_poison (s : State) (c : Cluster) : (s.setCluster c).poison = s.poison := rfl
@[simp] theorem state_setCluster_arrivals (s : State) (c : Cluster) : (s.setCluster c).arrivals = s.arrivals := rfl
@[simp] theorem state_setCluster_queues (s : State) (c : Cluster) : (s.setCluster c).queues = s.queues := rfl
@[simp] theorem state_setCluster_counters (s : State) (c : Cluster) : (s.setCluster c).counters = s.counters := rfl
@[simp] theorem state_setCluster_launches (s : State) (c : Cluster) : (s.setCluster c).launches = s.launches := rfl
@[simp] theorem state_setCluster_teams (s : State) (c : Cluster) : (s.setCluster c).teams = s.teams := rfl
@[simp] theorem state_setCluster_saves (s : State) (c : Cluster) : (s.setCluster c).saves = s.saves := rfl
@[simp] theorem state_setCluster_saved (s : State) (c : Cluster) : (s.setCluster c).saved = s.saved := rfl
@[simp] theorem state_setCluster_ports (s : State) (c : Cluster) : (s.setCluster c).ports = s.ports := rfl
@[simp] theorem state_setCluster_teamIds (s : State) (c : Cluster) : (s.setCluster c).teamIds = s.teamIds := rfl
@[simp] theorem state_setCluster_ctxIds (s : State) (c : Cluster) : (s.setCluster c).ctxIds = s.ctxIds := rfl
@[simp] theorem state_setCluster_launchIds (s : State) (c : Cluster) : (s.setCluster c).launchIds = s.launchIds := rfl
@[simp] theorem state_setCluster_agenda (s : State) (c : Cluster) : (s.setCluster c).agenda = s.agenda := rfl
@[simp] theorem state_setCluster_engTurn (s : State) (c : Cluster) : (s.setCluster c).engTurn = s.engTurn := rfl
@[simp] theorem state_setCluster_rr (s : State) (c : Cluster) : (s.setCluster c).rr = s.rr := rfl
@[simp] theorem state_setCluster_serial (s : State) (c : Cluster) : (s.setCluster c).serial = s.serial := rfl
@[simp] theorem state_setCluster_free (s : State) (c : Cluster) : (s.setCluster c).free = s.free := rfl

/-! ## State.setDie -/

@[simp] theorem state_setDie_core (s : State) (d : Die) : (s.setDie d).core = s.core := rfl
@[simp] theorem state_setDie_others (s : State) (d : Die) : (s.setDie d).others = s.others := rfl
@[simp] theorem state_setDie_clusters (s : State) (d : Die) : (s.setDie d).clusters = s.clusters := rfl
@[simp] theorem state_setDie_time (s : State) (d : Die) : (s.setDie d).time = s.time := rfl
@[simp] theorem state_setDie_mem (s : State) (d : Die) : (s.setDie d).mem = s.mem := rfl
@[simp] theorem state_setDie_l2 (s : State) (d : Die) : (s.setDie d).l2 = s.l2 := rfl
@[simp] theorem state_setDie_pins (s : State) (d : Die) : (s.setDie d).pins = s.pins := rfl
@[simp] theorem state_setDie_tileLines (s : State) (d : Die) : (s.setDie d).tileLines = s.tileLines := rfl
@[simp] theorem state_setDie_poison (s : State) (d : Die) : (s.setDie d).poison = s.poison := rfl
@[simp] theorem state_setDie_arrivals (s : State) (d : Die) : (s.setDie d).arrivals = s.arrivals := rfl
@[simp] theorem state_setDie_queues (s : State) (d : Die) : (s.setDie d).queues = s.queues := rfl
@[simp] theorem state_setDie_counters (s : State) (d : Die) : (s.setDie d).counters = s.counters := rfl
@[simp] theorem state_setDie_launches (s : State) (d : Die) : (s.setDie d).launches = s.launches := rfl
@[simp] theorem state_setDie_teams (s : State) (d : Die) : (s.setDie d).teams = s.teams := rfl
@[simp] theorem state_setDie_saves (s : State) (d : Die) : (s.setDie d).saves = s.saves := rfl
@[simp] theorem state_setDie_saved (s : State) (d : Die) : (s.setDie d).saved = s.saved := rfl
@[simp] theorem state_setDie_ports (s : State) (d : Die) : (s.setDie d).ports = s.ports := rfl
@[simp] theorem state_setDie_teamIds (s : State) (d : Die) : (s.setDie d).teamIds = s.teamIds := rfl
@[simp] theorem state_setDie_ctxIds (s : State) (d : Die) : (s.setDie d).ctxIds = s.ctxIds := rfl
@[simp] theorem state_setDie_launchIds (s : State) (d : Die) : (s.setDie d).launchIds = s.launchIds := rfl
@[simp] theorem state_setDie_agenda (s : State) (d : Die) : (s.setDie d).agenda = s.agenda := rfl
@[simp] theorem state_setDie_engTurn (s : State) (d : Die) : (s.setDie d).engTurn = s.engTurn := rfl
@[simp] theorem state_setDie_rr (s : State) (d : Die) : (s.setDie d).rr = s.rr := rfl
@[simp] theorem state_setDie_serial (s : State) (d : Die) : (s.setDie d).serial = s.serial := rfl
@[simp] theorem state_setDie_free (s : State) (d : Die) : (s.setDie d).free = s.free := rfl

/-! ## State.setLaunch -/

@[simp] theorem state_setLaunch_core (s : State) (l : Launch) : (s.setLaunch l).core = s.core := rfl
@[simp] theorem state_setLaunch_others (s : State) (l : Launch) : (s.setLaunch l).others = s.others := rfl
@[simp] theorem state_setLaunch_clusters (s : State) (l : Launch) : (s.setLaunch l).clusters = s.clusters := rfl
@[simp] theorem state_setLaunch_dies (s : State) (l : Launch) : (s.setLaunch l).dies = s.dies := rfl
@[simp] theorem state_setLaunch_time (s : State) (l : Launch) : (s.setLaunch l).time = s.time := rfl
@[simp] theorem state_setLaunch_mem (s : State) (l : Launch) : (s.setLaunch l).mem = s.mem := rfl
@[simp] theorem state_setLaunch_l2 (s : State) (l : Launch) : (s.setLaunch l).l2 = s.l2 := rfl
@[simp] theorem state_setLaunch_pins (s : State) (l : Launch) : (s.setLaunch l).pins = s.pins := rfl
@[simp] theorem state_setLaunch_tileLines (s : State) (l : Launch) : (s.setLaunch l).tileLines = s.tileLines := rfl
@[simp] theorem state_setLaunch_poison (s : State) (l : Launch) : (s.setLaunch l).poison = s.poison := rfl
@[simp] theorem state_setLaunch_arrivals (s : State) (l : Launch) : (s.setLaunch l).arrivals = s.arrivals := rfl
@[simp] theorem state_setLaunch_queues (s : State) (l : Launch) : (s.setLaunch l).queues = s.queues := rfl
@[simp] theorem state_setLaunch_counters (s : State) (l : Launch) : (s.setLaunch l).counters = s.counters := rfl
@[simp] theorem state_setLaunch_teams (s : State) (l : Launch) : (s.setLaunch l).teams = s.teams := rfl
@[simp] theorem state_setLaunch_saves (s : State) (l : Launch) : (s.setLaunch l).saves = s.saves := rfl
@[simp] theorem state_setLaunch_saved (s : State) (l : Launch) : (s.setLaunch l).saved = s.saved := rfl
@[simp] theorem state_setLaunch_ports (s : State) (l : Launch) : (s.setLaunch l).ports = s.ports := rfl
@[simp] theorem state_setLaunch_teamIds (s : State) (l : Launch) : (s.setLaunch l).teamIds = s.teamIds := rfl
@[simp] theorem state_setLaunch_ctxIds (s : State) (l : Launch) : (s.setLaunch l).ctxIds = s.ctxIds := rfl
@[simp] theorem state_setLaunch_launchIds (s : State) (l : Launch) : (s.setLaunch l).launchIds = s.launchIds := rfl
@[simp] theorem state_setLaunch_agenda (s : State) (l : Launch) : (s.setLaunch l).agenda = s.agenda := rfl
@[simp] theorem state_setLaunch_engTurn (s : State) (l : Launch) : (s.setLaunch l).engTurn = s.engTurn := rfl
@[simp] theorem state_setLaunch_rr (s : State) (l : Launch) : (s.setLaunch l).rr = s.rr := rfl
@[simp] theorem state_setLaunch_serial (s : State) (l : Launch) : (s.setLaunch l).serial = s.serial := rfl
@[simp] theorem state_setLaunch_free (s : State) (l : Launch) : (s.setLaunch l).free = s.free := rfl

/-! ## State.setTeam -/

@[simp] theorem state_setTeam_core (s : State) (t : Team) : (s.setTeam t).core = s.core := rfl
@[simp] theorem state_setTeam_others (s : State) (t : Team) : (s.setTeam t).others = s.others := rfl
@[simp] theorem state_setTeam_clusters (s : State) (t : Team) : (s.setTeam t).clusters = s.clusters := rfl
@[simp] theorem state_setTeam_dies (s : State) (t : Team) : (s.setTeam t).dies = s.dies := rfl
@[simp] theorem state_setTeam_time (s : State) (t : Team) : (s.setTeam t).time = s.time := rfl
@[simp] theorem state_setTeam_mem (s : State) (t : Team) : (s.setTeam t).mem = s.mem := rfl
@[simp] theorem state_setTeam_l2 (s : State) (t : Team) : (s.setTeam t).l2 = s.l2 := rfl
@[simp] theorem state_setTeam_pins (s : State) (t : Team) : (s.setTeam t).pins = s.pins := rfl
@[simp] theorem state_setTeam_tileLines (s : State) (t : Team) : (s.setTeam t).tileLines = s.tileLines := rfl
@[simp] theorem state_setTeam_poison (s : State) (t : Team) : (s.setTeam t).poison = s.poison := rfl
@[simp] theorem state_setTeam_arrivals (s : State) (t : Team) : (s.setTeam t).arrivals = s.arrivals := rfl
@[simp] theorem state_setTeam_queues (s : State) (t : Team) : (s.setTeam t).queues = s.queues := rfl
@[simp] theorem state_setTeam_counters (s : State) (t : Team) : (s.setTeam t).counters = s.counters := rfl
@[simp] theorem state_setTeam_launches (s : State) (t : Team) : (s.setTeam t).launches = s.launches := rfl
@[simp] theorem state_setTeam_saves (s : State) (t : Team) : (s.setTeam t).saves = s.saves := rfl
@[simp] theorem state_setTeam_saved (s : State) (t : Team) : (s.setTeam t).saved = s.saved := rfl
@[simp] theorem state_setTeam_ports (s : State) (t : Team) : (s.setTeam t).ports = s.ports := rfl
@[simp] theorem state_setTeam_teamIds (s : State) (t : Team) : (s.setTeam t).teamIds = s.teamIds := rfl
@[simp] theorem state_setTeam_ctxIds (s : State) (t : Team) : (s.setTeam t).ctxIds = s.ctxIds := rfl
@[simp] theorem state_setTeam_launchIds (s : State) (t : Team) : (s.setTeam t).launchIds = s.launchIds := rfl
@[simp] theorem state_setTeam_agenda (s : State) (t : Team) : (s.setTeam t).agenda = s.agenda := rfl
@[simp] theorem state_setTeam_engTurn (s : State) (t : Team) : (s.setTeam t).engTurn = s.engTurn := rfl
@[simp] theorem state_setTeam_rr (s : State) (t : Team) : (s.setTeam t).rr = s.rr := rfl
@[simp] theorem state_setTeam_serial (s : State) (t : Team) : (s.setTeam t).serial = s.serial := rfl
@[simp] theorem state_setTeam_free (s : State) (t : Team) : (s.setTeam t).free = s.free := rfl

/-! ## State.setQueue -/

@[simp] theorem state_setQueue_core (s : State) (q : Queue) : (s.setQueue q).core = s.core := rfl
@[simp] theorem state_setQueue_others (s : State) (q : Queue) : (s.setQueue q).others = s.others := rfl
@[simp] theorem state_setQueue_clusters (s : State) (q : Queue) : (s.setQueue q).clusters = s.clusters := rfl
@[simp] theorem state_setQueue_dies (s : State) (q : Queue) : (s.setQueue q).dies = s.dies := rfl
@[simp] theorem state_setQueue_time (s : State) (q : Queue) : (s.setQueue q).time = s.time := rfl
@[simp] theorem state_setQueue_mem (s : State) (q : Queue) : (s.setQueue q).mem = s.mem := rfl
@[simp] theorem state_setQueue_l2 (s : State) (q : Queue) : (s.setQueue q).l2 = s.l2 := rfl
@[simp] theorem state_setQueue_pins (s : State) (q : Queue) : (s.setQueue q).pins = s.pins := rfl
@[simp] theorem state_setQueue_tileLines (s : State) (q : Queue) : (s.setQueue q).tileLines = s.tileLines := rfl
@[simp] theorem state_setQueue_poison (s : State) (q : Queue) : (s.setQueue q).poison = s.poison := rfl
@[simp] theorem state_setQueue_arrivals (s : State) (q : Queue) : (s.setQueue q).arrivals = s.arrivals := rfl
@[simp] theorem state_setQueue_counters (s : State) (q : Queue) : (s.setQueue q).counters = s.counters := rfl
@[simp] theorem state_setQueue_launches (s : State) (q : Queue) : (s.setQueue q).launches = s.launches := rfl
@[simp] theorem state_setQueue_teams (s : State) (q : Queue) : (s.setQueue q).teams = s.teams := rfl
@[simp] theorem state_setQueue_saves (s : State) (q : Queue) : (s.setQueue q).saves = s.saves := rfl
@[simp] theorem state_setQueue_saved (s : State) (q : Queue) : (s.setQueue q).saved = s.saved := rfl
@[simp] theorem state_setQueue_ports (s : State) (q : Queue) : (s.setQueue q).ports = s.ports := rfl
@[simp] theorem state_setQueue_teamIds (s : State) (q : Queue) : (s.setQueue q).teamIds = s.teamIds := rfl
@[simp] theorem state_setQueue_ctxIds (s : State) (q : Queue) : (s.setQueue q).ctxIds = s.ctxIds := rfl
@[simp] theorem state_setQueue_launchIds (s : State) (q : Queue) : (s.setQueue q).launchIds = s.launchIds := rfl
@[simp] theorem state_setQueue_agenda (s : State) (q : Queue) : (s.setQueue q).agenda = s.agenda := rfl
@[simp] theorem state_setQueue_engTurn (s : State) (q : Queue) : (s.setQueue q).engTurn = s.engTurn := rfl
@[simp] theorem state_setQueue_rr (s : State) (q : Queue) : (s.setQueue q).rr = s.rr := rfl
@[simp] theorem state_setQueue_serial (s : State) (q : Queue) : (s.setQueue q).serial = s.serial := rfl
@[simp] theorem state_setQueue_free (s : State) (q : Queue) : (s.setQueue q).free = s.free := rfl

/-! ## State.setCounter -/

@[simp] theorem state_setCounter_core (s : State) (n : Nat) (v : Word) : (s.setCounter n v).core = s.core := rfl
@[simp] theorem state_setCounter_others (s : State) (n : Nat) (v : Word) : (s.setCounter n v).others = s.others := rfl
@[simp] theorem state_setCounter_clusters (s : State) (n : Nat) (v : Word) : (s.setCounter n v).clusters = s.clusters := rfl
@[simp] theorem state_setCounter_dies (s : State) (n : Nat) (v : Word) : (s.setCounter n v).dies = s.dies := rfl
@[simp] theorem state_setCounter_time (s : State) (n : Nat) (v : Word) : (s.setCounter n v).time = s.time := rfl
@[simp] theorem state_setCounter_mem (s : State) (n : Nat) (v : Word) : (s.setCounter n v).mem = s.mem := rfl
@[simp] theorem state_setCounter_l2 (s : State) (n : Nat) (v : Word) : (s.setCounter n v).l2 = s.l2 := rfl
@[simp] theorem state_setCounter_pins (s : State) (n : Nat) (v : Word) : (s.setCounter n v).pins = s.pins := rfl
@[simp] theorem state_setCounter_tileLines (s : State) (n : Nat) (v : Word) : (s.setCounter n v).tileLines = s.tileLines := rfl
@[simp] theorem state_setCounter_poison (s : State) (n : Nat) (v : Word) : (s.setCounter n v).poison = s.poison := rfl
@[simp] theorem state_setCounter_arrivals (s : State) (n : Nat) (v : Word) : (s.setCounter n v).arrivals = s.arrivals := rfl
@[simp] theorem state_setCounter_queues (s : State) (n : Nat) (v : Word) : (s.setCounter n v).queues = s.queues := rfl
@[simp] theorem state_setCounter_teams (s : State) (n : Nat) (v : Word) : (s.setCounter n v).teams = s.teams := rfl
@[simp] theorem state_setCounter_saves (s : State) (n : Nat) (v : Word) : (s.setCounter n v).saves = s.saves := rfl
@[simp] theorem state_setCounter_saved (s : State) (n : Nat) (v : Word) : (s.setCounter n v).saved = s.saved := rfl
@[simp] theorem state_setCounter_ports (s : State) (n : Nat) (v : Word) : (s.setCounter n v).ports = s.ports := rfl
@[simp] theorem state_setCounter_teamIds (s : State) (n : Nat) (v : Word) : (s.setCounter n v).teamIds = s.teamIds := rfl
@[simp] theorem state_setCounter_ctxIds (s : State) (n : Nat) (v : Word) : (s.setCounter n v).ctxIds = s.ctxIds := rfl
@[simp] theorem state_setCounter_launchIds (s : State) (n : Nat) (v : Word) : (s.setCounter n v).launchIds = s.launchIds := rfl
@[simp] theorem state_setCounter_agenda (s : State) (n : Nat) (v : Word) : (s.setCounter n v).agenda = s.agenda := rfl
@[simp] theorem state_setCounter_engTurn (s : State) (n : Nat) (v : Word) : (s.setCounter n v).engTurn = s.engTurn := rfl
@[simp] theorem state_setCounter_rr (s : State) (n : Nat) (v : Word) : (s.setCounter n v).rr = s.rr := rfl
@[simp] theorem state_setCounter_serial (s : State) (n : Nat) (v : Word) : (s.setCounter n v).serial = s.serial := rfl
@[simp] theorem state_setCounter_free (s : State) (n : Nat) (v : Word) : (s.setCounter n v).free = s.free := rfl

/-! ## Counters that step once invalidations are acknowledged -/

@[simp] theorem state_stepCounterOf (s : State) (i : Nat) : s.stepCounterOf i = s.setCounter i (s.counter i + 1) := rfl

@[simp] theorem state_oweStep_core (s : State) (i : Nat) : (s.oweStep i).core = s.core := by
  unfold State.oweStep; split <;> rfl
@[simp] theorem state_oweStep_others (s : State) (i : Nat) : (s.oweStep i).others = s.others := by
  unfold State.oweStep; split <;> rfl
@[simp] theorem state_oweStep_clusters (s : State) (i : Nat) : (s.oweStep i).clusters = s.clusters := by
  unfold State.oweStep; split <;> rfl
@[simp] theorem state_oweStep_dies (s : State) (i : Nat) : (s.oweStep i).dies = s.dies := by
  unfold State.oweStep; split <;> rfl
@[simp] theorem state_oweStep_time (s : State) (i : Nat) : (s.oweStep i).time = s.time := by
  unfold State.oweStep; split <;> rfl
@[simp] theorem state_oweStep_mem (s : State) (i : Nat) : (s.oweStep i).mem = s.mem := by
  unfold State.oweStep; split <;> rfl
@[simp] theorem state_oweStep_l2 (s : State) (i : Nat) : (s.oweStep i).l2 = s.l2 := by
  unfold State.oweStep; split <;> rfl
@[simp] theorem state_oweStep_poison (s : State) (i : Nat) : (s.oweStep i).poison = s.poison := by
  unfold State.oweStep; split <;> rfl
@[simp] theorem state_oweStep_arrivals (s : State) (i : Nat) : (s.oweStep i).arrivals = s.arrivals := by
  unfold State.oweStep; split <;> rfl
@[simp] theorem state_oweStep_queues (s : State) (i : Nat) : (s.oweStep i).queues = s.queues := by
  unfold State.oweStep; split <;> rfl
@[simp] theorem state_oweStep_teams (s : State) (i : Nat) : (s.oweStep i).teams = s.teams := by
  unfold State.oweStep; split <;> rfl
@[simp] theorem state_oweStep_saves (s : State) (i : Nat) : (s.oweStep i).saves = s.saves := by
  unfold State.oweStep; split <;> rfl
@[simp] theorem state_oweStep_saved (s : State) (i : Nat) : (s.oweStep i).saved = s.saved := by
  unfold State.oweStep; split <;> rfl
@[simp] theorem state_oweStep_agenda (s : State) (i : Nat) : (s.oweStep i).agenda = s.agenda := by
  unfold State.oweStep; split <;> rfl
@[simp] theorem state_oweStep_free (s : State) (i : Nat) : (s.oweStep i).free = s.free := by
  unfold State.oweStep; split <;> rfl

theorem state_stepCounters_core (l : List Nat) (s : State) : (l.foldl State.stepCounterOf s).core = s.core := by
  induction l generalizing s <;> simp [*]
theorem state_stepCounters_others (l : List Nat) (s : State) : (l.foldl State.stepCounterOf s).others = s.others := by
  induction l generalizing s <;> simp [*]
theorem state_stepCounters_clusters (l : List Nat) (s : State) : (l.foldl State.stepCounterOf s).clusters = s.clusters := by
  induction l generalizing s <;> simp [*]
theorem state_stepCounters_dies (l : List Nat) (s : State) : (l.foldl State.stepCounterOf s).dies = s.dies := by
  induction l generalizing s <;> simp [*]
theorem state_stepCounters_time (l : List Nat) (s : State) : (l.foldl State.stepCounterOf s).time = s.time := by
  induction l generalizing s <;> simp [*]
theorem state_stepCounters_mem (l : List Nat) (s : State) : (l.foldl State.stepCounterOf s).mem = s.mem := by
  induction l generalizing s <;> simp [*]
theorem state_stepCounters_l2 (l : List Nat) (s : State) : (l.foldl State.stepCounterOf s).l2 = s.l2 := by
  induction l generalizing s <;> simp [*]
theorem state_stepCounters_poison (l : List Nat) (s : State) : (l.foldl State.stepCounterOf s).poison = s.poison := by
  induction l generalizing s <;> simp [*]
theorem state_stepCounters_arrivals (l : List Nat) (s : State) : (l.foldl State.stepCounterOf s).arrivals = s.arrivals := by
  induction l generalizing s <;> simp [*]
theorem state_stepCounters_queues (l : List Nat) (s : State) : (l.foldl State.stepCounterOf s).queues = s.queues := by
  induction l generalizing s <;> simp [*]
theorem state_stepCounters_teams (l : List Nat) (s : State) : (l.foldl State.stepCounterOf s).teams = s.teams := by
  induction l generalizing s <;> simp [*]
theorem state_stepCounters_saves (l : List Nat) (s : State) : (l.foldl State.stepCounterOf s).saves = s.saves := by
  induction l generalizing s <;> simp [*]
theorem state_stepCounters_saved (l : List Nat) (s : State) : (l.foldl State.stepCounterOf s).saved = s.saved := by
  induction l generalizing s <;> simp [*]
theorem state_stepCounters_agenda (l : List Nat) (s : State) : (l.foldl State.stepCounterOf s).agenda = s.agenda := by
  induction l generalizing s <;> simp [*]
theorem state_stepCounters_free (l : List Nat) (s : State) : (l.foldl State.stepCounterOf s).free = s.free := by
  induction l generalizing s <;> simp [*]

@[simp] theorem state_payOwed_core (s : State) : s.payOwed.core = s.core := by
  unfold State.payOwed; split <;> simp [state_stepCounters_core]
@[simp] theorem state_payOwed_others (s : State) : s.payOwed.others = s.others := by
  unfold State.payOwed; split <;> simp [state_stepCounters_others]
@[simp] theorem state_payOwed_clusters (s : State) : s.payOwed.clusters = s.clusters := by
  unfold State.payOwed; split <;> simp [state_stepCounters_clusters]
@[simp] theorem state_payOwed_dies (s : State) : s.payOwed.dies = s.dies := by
  unfold State.payOwed; split <;> simp [state_stepCounters_dies]
@[simp] theorem state_payOwed_time (s : State) : s.payOwed.time = s.time := by
  unfold State.payOwed; split <;> simp [state_stepCounters_time]
@[simp] theorem state_payOwed_mem (s : State) : s.payOwed.mem = s.mem := by
  unfold State.payOwed; split <;> simp [state_stepCounters_mem]
@[simp] theorem state_payOwed_l2 (s : State) : s.payOwed.l2 = s.l2 := by
  unfold State.payOwed; split <;> simp [state_stepCounters_l2]
@[simp] theorem state_payOwed_poison (s : State) : s.payOwed.poison = s.poison := by
  unfold State.payOwed; split <;> simp [state_stepCounters_poison]
@[simp] theorem state_payOwed_arrivals (s : State) : s.payOwed.arrivals = s.arrivals := by
  unfold State.payOwed; split <;> simp [state_stepCounters_arrivals]
@[simp] theorem state_payOwed_queues (s : State) : s.payOwed.queues = s.queues := by
  unfold State.payOwed; split <;> simp [state_stepCounters_queues]
@[simp] theorem state_payOwed_teams (s : State) : s.payOwed.teams = s.teams := by
  unfold State.payOwed; split <;> simp [state_stepCounters_teams]
@[simp] theorem state_payOwed_saves (s : State) : s.payOwed.saves = s.saves := by
  unfold State.payOwed; split <;> simp [state_stepCounters_saves]
@[simp] theorem state_payOwed_saved (s : State) : s.payOwed.saved = s.saved := by
  unfold State.payOwed; split <;> simp [state_stepCounters_saved]
@[simp] theorem state_payOwed_agenda (s : State) : s.payOwed.agenda = s.agenda := by
  unfold State.payOwed; split <;> simp [state_stepCounters_agenda]
@[simp] theorem state_payOwed_free (s : State) : s.payOwed.free = s.free := by
  unfold State.payOwed; split <;> simp [state_stepCounters_free]

/-! ## State.fresh -/

@[simp] theorem state_fresh_core (s : State) : (s.fresh).core = s.core := rfl
@[simp] theorem state_fresh_others (s : State) : (s.fresh).others = s.others := rfl
@[simp] theorem state_fresh_clusters (s : State) : (s.fresh).clusters = s.clusters := rfl
@[simp] theorem state_fresh_dies (s : State) : (s.fresh).dies = s.dies := rfl
@[simp] theorem state_fresh_time (s : State) : (s.fresh).time = s.time := rfl
@[simp] theorem state_fresh_mem (s : State) : (s.fresh).mem = s.mem := rfl
@[simp] theorem state_fresh_l2 (s : State) : (s.fresh).l2 = s.l2 := rfl
@[simp] theorem state_fresh_pins (s : State) : (s.fresh).pins = s.pins := rfl
@[simp] theorem state_fresh_tileLines (s : State) : (s.fresh).tileLines = s.tileLines := rfl
@[simp] theorem state_fresh_poison (s : State) : (s.fresh).poison = s.poison := rfl
@[simp] theorem state_fresh_arrivals (s : State) : (s.fresh).arrivals = s.arrivals := rfl
@[simp] theorem state_fresh_queues (s : State) : (s.fresh).queues = s.queues := rfl
@[simp] theorem state_fresh_counters (s : State) : (s.fresh).counters = s.counters := rfl
@[simp] theorem state_fresh_launches (s : State) : (s.fresh).launches = s.launches := rfl
@[simp] theorem state_fresh_teams (s : State) : (s.fresh).teams = s.teams := rfl
@[simp] theorem state_fresh_saves (s : State) : (s.fresh).saves = s.saves := rfl
@[simp] theorem state_fresh_saved (s : State) : (s.fresh).saved = s.saved := rfl
@[simp] theorem state_fresh_ports (s : State) : (s.fresh).ports = s.ports := rfl
@[simp] theorem state_fresh_teamIds (s : State) : (s.fresh).teamIds = s.teamIds := rfl
@[simp] theorem state_fresh_ctxIds (s : State) : (s.fresh).ctxIds = s.ctxIds := rfl
@[simp] theorem state_fresh_launchIds (s : State) : (s.fresh).launchIds = s.launchIds := rfl
@[simp] theorem state_fresh_agenda (s : State) : (s.fresh).agenda = s.agenda := rfl
@[simp] theorem state_fresh_engTurn (s : State) : (s.fresh).engTurn = s.engTurn := rfl
@[simp] theorem state_fresh_rr (s : State) : (s.fresh).rr = s.rr := rfl
@[simp] theorem state_fresh_free (s : State) : (s.fresh).free = s.free := rfl

/-! ## State.useFree -/

@[simp] theorem state_useFree_core (s : State) (n : Nat) : (s.useFree n).core = s.core := rfl
@[simp] theorem state_useFree_others (s : State) (n : Nat) : (s.useFree n).others = s.others := rfl
@[simp] theorem state_useFree_clusters (s : State) (n : Nat) : (s.useFree n).clusters = s.clusters := rfl
@[simp] theorem state_useFree_dies (s : State) (n : Nat) : (s.useFree n).dies = s.dies := rfl
@[simp] theorem state_useFree_time (s : State) (n : Nat) : (s.useFree n).time = s.time := rfl
@[simp] theorem state_useFree_mem (s : State) (n : Nat) : (s.useFree n).mem = s.mem := rfl
@[simp] theorem state_useFree_l2 (s : State) (n : Nat) : (s.useFree n).l2 = s.l2 := rfl
@[simp] theorem state_useFree_pins (s : State) (n : Nat) : (s.useFree n).pins = s.pins := rfl
@[simp] theorem state_useFree_tileLines (s : State) (n : Nat) : (s.useFree n).tileLines = s.tileLines := rfl
@[simp] theorem state_useFree_poison (s : State) (n : Nat) : (s.useFree n).poison = s.poison := rfl
@[simp] theorem state_useFree_arrivals (s : State) (n : Nat) : (s.useFree n).arrivals = s.arrivals := rfl
@[simp] theorem state_useFree_queues (s : State) (n : Nat) : (s.useFree n).queues = s.queues := rfl
@[simp] theorem state_useFree_counters (s : State) (n : Nat) : (s.useFree n).counters = s.counters := rfl
@[simp] theorem state_useFree_launches (s : State) (n : Nat) : (s.useFree n).launches = s.launches := rfl
@[simp] theorem state_useFree_teams (s : State) (n : Nat) : (s.useFree n).teams = s.teams := rfl
@[simp] theorem state_useFree_saves (s : State) (n : Nat) : (s.useFree n).saves = s.saves := rfl
@[simp] theorem state_useFree_saved (s : State) (n : Nat) : (s.useFree n).saved = s.saved := rfl
@[simp] theorem state_useFree_ports (s : State) (n : Nat) : (s.useFree n).ports = s.ports := rfl
@[simp] theorem state_useFree_teamIds (s : State) (n : Nat) : (s.useFree n).teamIds = s.teamIds := rfl
@[simp] theorem state_useFree_ctxIds (s : State) (n : Nat) : (s.useFree n).ctxIds = s.ctxIds := rfl
@[simp] theorem state_useFree_launchIds (s : State) (n : Nat) : (s.useFree n).launchIds = s.launchIds := rfl
@[simp] theorem state_useFree_agenda (s : State) (n : Nat) : (s.useFree n).agenda = s.agenda := rfl
@[simp] theorem state_useFree_engTurn (s : State) (n : Nat) : (s.useFree n).engTurn = s.engTurn := rfl
@[simp] theorem state_useFree_rr (s : State) (n : Nat) : (s.useFree n).rr = s.rr := rfl
@[simp] theorem state_useFree_serial (s : State) (n : Nat) : (s.useFree n).serial = s.serial := rfl

/-! ## State.send -/

@[simp] theorem state_send_core (s : State) (m : FabMsg) : (s.send m).core = s.core := rfl
@[simp] theorem state_send_others (s : State) (m : FabMsg) : (s.send m).others = s.others := rfl
@[simp] theorem state_send_clusters (s : State) (m : FabMsg) : (s.send m).clusters = s.clusters := rfl
@[simp] theorem state_send_dies (s : State) (m : FabMsg) : (s.send m).dies = s.dies := rfl
@[simp] theorem state_send_time (s : State) (m : FabMsg) : (s.send m).time = s.time := rfl
@[simp] theorem state_send_mem (s : State) (m : FabMsg) : (s.send m).mem = s.mem := rfl
@[simp] theorem state_send_l2 (s : State) (m : FabMsg) : (s.send m).l2 = s.l2 := rfl
@[simp] theorem state_send_pins (s : State) (m : FabMsg) : (s.send m).pins = s.pins := rfl
@[simp] theorem state_send_tileLines (s : State) (m : FabMsg) : (s.send m).tileLines = s.tileLines := rfl
@[simp] theorem state_send_poison (s : State) (m : FabMsg) : (s.send m).poison = s.poison := rfl
@[simp] theorem state_send_arrivals (s : State) (m : FabMsg) : (s.send m).arrivals = s.arrivals := rfl
@[simp] theorem state_send_queues (s : State) (m : FabMsg) : (s.send m).queues = s.queues := rfl
@[simp] theorem state_send_counters (s : State) (m : FabMsg) : (s.send m).counters = s.counters := rfl
@[simp] theorem state_send_launches (s : State) (m : FabMsg) : (s.send m).launches = s.launches := rfl
@[simp] theorem state_send_teams (s : State) (m : FabMsg) : (s.send m).teams = s.teams := rfl
@[simp] theorem state_send_saves (s : State) (m : FabMsg) : (s.send m).saves = s.saves := rfl
@[simp] theorem state_send_saved (s : State) (m : FabMsg) : (s.send m).saved = s.saved := rfl
@[simp] theorem state_send_teamIds (s : State) (m : FabMsg) : (s.send m).teamIds = s.teamIds := rfl
@[simp] theorem state_send_ctxIds (s : State) (m : FabMsg) : (s.send m).ctxIds = s.ctxIds := rfl
@[simp] theorem state_send_launchIds (s : State) (m : FabMsg) : (s.send m).launchIds = s.launchIds := rfl
@[simp] theorem state_send_agenda (s : State) (m : FabMsg) : (s.send m).agenda = s.agenda := rfl
@[simp] theorem state_send_engTurn (s : State) (m : FabMsg) : (s.send m).engTurn = s.engTurn := rfl
@[simp] theorem state_send_rr (s : State) (m : FabMsg) : (s.send m).rr = s.rr := rfl
@[simp] theorem state_send_serial (s : State) (m : FabMsg) : (s.send m).serial = s.serial := rfl
@[simp] theorem state_send_free (s : State) (m : FabMsg) : (s.send m).free = s.free := rfl

/-! ## State.raise -/

@[simp] theorem state_raise_core (s : State) (n : Nat) : (s.raise n).core = s.core := rfl
@[simp] theorem state_raise_others (s : State) (n : Nat) : (s.raise n).others = s.others := rfl
@[simp] theorem state_raise_clusters (s : State) (n : Nat) : (s.raise n).clusters = s.clusters := rfl
@[simp] theorem state_raise_dies (s : State) (n : Nat) : (s.raise n).dies = s.dies := rfl
@[simp] theorem state_raise_time (s : State) (n : Nat) : (s.raise n).time = s.time := rfl
@[simp] theorem state_raise_mem (s : State) (n : Nat) : (s.raise n).mem = s.mem := rfl
@[simp] theorem state_raise_l2 (s : State) (n : Nat) : (s.raise n).l2 = s.l2 := rfl
@[simp] theorem state_raise_pins (s : State) (n : Nat) : (s.raise n).pins = s.pins := rfl
@[simp] theorem state_raise_tileLines (s : State) (n : Nat) : (s.raise n).tileLines = s.tileLines := rfl
@[simp] theorem state_raise_poison (s : State) (n : Nat) : (s.raise n).poison = s.poison := rfl
@[simp] theorem state_raise_arrivals (s : State) (n : Nat) : (s.raise n).arrivals = s.arrivals := rfl
@[simp] theorem state_raise_queues (s : State) (n : Nat) : (s.raise n).queues = s.queues := rfl
@[simp] theorem state_raise_counters (s : State) (n : Nat) : (s.raise n).counters = s.counters := rfl
@[simp] theorem state_raise_launches (s : State) (n : Nat) : (s.raise n).launches = s.launches := rfl
@[simp] theorem state_raise_teams (s : State) (n : Nat) : (s.raise n).teams = s.teams := rfl
@[simp] theorem state_raise_saves (s : State) (n : Nat) : (s.raise n).saves = s.saves := rfl
@[simp] theorem state_raise_saved (s : State) (n : Nat) : (s.raise n).saved = s.saved := rfl
@[simp] theorem state_raise_teamIds (s : State) (n : Nat) : (s.raise n).teamIds = s.teamIds := rfl
@[simp] theorem state_raise_ctxIds (s : State) (n : Nat) : (s.raise n).ctxIds = s.ctxIds := rfl
@[simp] theorem state_raise_launchIds (s : State) (n : Nat) : (s.raise n).launchIds = s.launchIds := rfl
@[simp] theorem state_raise_agenda (s : State) (n : Nat) : (s.raise n).agenda = s.agenda := rfl
@[simp] theorem state_raise_engTurn (s : State) (n : Nat) : (s.raise n).engTurn = s.engTurn := rfl
@[simp] theorem state_raise_rr (s : State) (n : Nat) : (s.raise n).rr = s.rr := rfl
@[simp] theorem state_raise_serial (s : State) (n : Nat) : (s.raise n).serial = s.serial := rfl
@[simp] theorem state_raise_free (s : State) (n : Nat) : (s.raise n).free = s.free := rfl

/-! ## State.modPorts -/

@[simp] theorem state_modPorts_core (s : State) (f : Ports → Ports) : (s.modPorts f).core = s.core := rfl
@[simp] theorem state_modPorts_others (s : State) (f : Ports → Ports) : (s.modPorts f).others = s.others := rfl
@[simp] theorem state_modPorts_clusters (s : State) (f : Ports → Ports) : (s.modPorts f).clusters = s.clusters := rfl
@[simp] theorem state_modPorts_dies (s : State) (f : Ports → Ports) : (s.modPorts f).dies = s.dies := rfl
@[simp] theorem state_modPorts_time (s : State) (f : Ports → Ports) : (s.modPorts f).time = s.time := rfl
@[simp] theorem state_modPorts_mem (s : State) (f : Ports → Ports) : (s.modPorts f).mem = s.mem := rfl
@[simp] theorem state_modPorts_l2 (s : State) (f : Ports → Ports) : (s.modPorts f).l2 = s.l2 := rfl
@[simp] theorem state_modPorts_pins (s : State) (f : Ports → Ports) : (s.modPorts f).pins = s.pins := rfl
@[simp] theorem state_modPorts_tileLines (s : State) (f : Ports → Ports) : (s.modPorts f).tileLines = s.tileLines := rfl
@[simp] theorem state_modPorts_poison (s : State) (f : Ports → Ports) : (s.modPorts f).poison = s.poison := rfl
@[simp] theorem state_modPorts_arrivals (s : State) (f : Ports → Ports) : (s.modPorts f).arrivals = s.arrivals := rfl
@[simp] theorem state_modPorts_queues (s : State) (f : Ports → Ports) : (s.modPorts f).queues = s.queues := rfl
@[simp] theorem state_modPorts_counters (s : State) (f : Ports → Ports) : (s.modPorts f).counters = s.counters := rfl
@[simp] theorem state_modPorts_launches (s : State) (f : Ports → Ports) : (s.modPorts f).launches = s.launches := rfl
@[simp] theorem state_modPorts_teams (s : State) (f : Ports → Ports) : (s.modPorts f).teams = s.teams := rfl
@[simp] theorem state_modPorts_saves (s : State) (f : Ports → Ports) : (s.modPorts f).saves = s.saves := rfl
@[simp] theorem state_modPorts_saved (s : State) (f : Ports → Ports) : (s.modPorts f).saved = s.saved := rfl
@[simp] theorem state_modPorts_teamIds (s : State) (f : Ports → Ports) : (s.modPorts f).teamIds = s.teamIds := rfl
@[simp] theorem state_modPorts_ctxIds (s : State) (f : Ports → Ports) : (s.modPorts f).ctxIds = s.ctxIds := rfl
@[simp] theorem state_modPorts_launchIds (s : State) (f : Ports → Ports) : (s.modPorts f).launchIds = s.launchIds := rfl
@[simp] theorem state_modPorts_agenda (s : State) (f : Ports → Ports) : (s.modPorts f).agenda = s.agenda := rfl
@[simp] theorem state_modPorts_engTurn (s : State) (f : Ports → Ports) : (s.modPorts f).engTurn = s.engTurn := rfl
@[simp] theorem state_modPorts_rr (s : State) (f : Ports → Ports) : (s.modPorts f).rr = s.rr := rfl
@[simp] theorem state_modPorts_serial (s : State) (f : Ports → Ports) : (s.modPorts f).serial = s.serial := rfl
@[simp] theorem state_modPorts_free (s : State) (f : Ports → Ports) : (s.modPorts f).free = s.free := rfl

/-! ## State.retire -/

@[simp] theorem state_retire_others (s : State) : (s.retire).others = s.others := rfl
@[simp] theorem state_retire_clusters (s : State) : (s.retire).clusters = s.clusters := rfl
@[simp] theorem state_retire_dies (s : State) : (s.retire).dies = s.dies := rfl
@[simp] theorem state_retire_time (s : State) : (s.retire).time = s.time := rfl
@[simp] theorem state_retire_mem (s : State) : (s.retire).mem = s.mem := rfl
@[simp] theorem state_retire_l2 (s : State) : (s.retire).l2 = s.l2 := rfl
@[simp] theorem state_retire_pins (s : State) : (s.retire).pins = s.pins := rfl
@[simp] theorem state_retire_tileLines (s : State) : (s.retire).tileLines = s.tileLines := rfl
@[simp] theorem state_retire_poison (s : State) : (s.retire).poison = s.poison := rfl
@[simp] theorem state_retire_arrivals (s : State) : (s.retire).arrivals = s.arrivals := rfl
@[simp] theorem state_retire_queues (s : State) : (s.retire).queues = s.queues := rfl
@[simp] theorem state_retire_counters (s : State) : (s.retire).counters = s.counters := rfl
@[simp] theorem state_retire_launches (s : State) : (s.retire).launches = s.launches := rfl
@[simp] theorem state_retire_teams (s : State) : (s.retire).teams = s.teams := rfl
@[simp] theorem state_retire_saves (s : State) : (s.retire).saves = s.saves := rfl
@[simp] theorem state_retire_saved (s : State) : (s.retire).saved = s.saved := rfl
@[simp] theorem state_retire_ports (s : State) : (s.retire).ports = s.ports := rfl
@[simp] theorem state_retire_teamIds (s : State) : (s.retire).teamIds = s.teamIds := rfl
@[simp] theorem state_retire_ctxIds (s : State) : (s.retire).ctxIds = s.ctxIds := rfl
@[simp] theorem state_retire_launchIds (s : State) : (s.retire).launchIds = s.launchIds := rfl
@[simp] theorem state_retire_agenda (s : State) : (s.retire).agenda = s.agenda := rfl
@[simp] theorem state_retire_engTurn (s : State) : (s.retire).engTurn = s.engTurn := rfl
@[simp] theorem state_retire_rr (s : State) : (s.retire).rr = s.rr := rfl
@[simp] theorem state_retire_serial (s : State) : (s.retire).serial = s.serial := rfl
@[simp] theorem state_retire_free (s : State) : (s.retire).free = s.free := rfl

/-! ## State.result -/

@[simp] theorem state_result_others (s : State) (v : Word) : (s.result v).others = s.others := rfl
@[simp] theorem state_result_clusters (s : State) (v : Word) : (s.result v).clusters = s.clusters := rfl
@[simp] theorem state_result_dies (s : State) (v : Word) : (s.result v).dies = s.dies := rfl
@[simp] theorem state_result_time (s : State) (v : Word) : (s.result v).time = s.time := rfl
@[simp] theorem state_result_mem (s : State) (v : Word) : (s.result v).mem = s.mem := rfl
@[simp] theorem state_result_l2 (s : State) (v : Word) : (s.result v).l2 = s.l2 := rfl
@[simp] theorem state_result_pins (s : State) (v : Word) : (s.result v).pins = s.pins := rfl
@[simp] theorem state_result_tileLines (s : State) (v : Word) : (s.result v).tileLines = s.tileLines := rfl
@[simp] theorem state_result_poison (s : State) (v : Word) : (s.result v).poison = s.poison := rfl
@[simp] theorem state_result_arrivals (s : State) (v : Word) : (s.result v).arrivals = s.arrivals := rfl
@[simp] theorem state_result_queues (s : State) (v : Word) : (s.result v).queues = s.queues := rfl
@[simp] theorem state_result_counters (s : State) (v : Word) : (s.result v).counters = s.counters := rfl
@[simp] theorem state_result_launches (s : State) (v : Word) : (s.result v).launches = s.launches := rfl
@[simp] theorem state_result_teams (s : State) (v : Word) : (s.result v).teams = s.teams := rfl
@[simp] theorem state_result_saves (s : State) (v : Word) : (s.result v).saves = s.saves := rfl
@[simp] theorem state_result_saved (s : State) (v : Word) : (s.result v).saved = s.saved := rfl
@[simp] theorem state_result_ports (s : State) (v : Word) : (s.result v).ports = s.ports := rfl
@[simp] theorem state_result_teamIds (s : State) (v : Word) : (s.result v).teamIds = s.teamIds := rfl
@[simp] theorem state_result_ctxIds (s : State) (v : Word) : (s.result v).ctxIds = s.ctxIds := rfl
@[simp] theorem state_result_launchIds (s : State) (v : Word) : (s.result v).launchIds = s.launchIds := rfl
@[simp] theorem state_result_agenda (s : State) (v : Word) : (s.result v).agenda = s.agenda := rfl
@[simp] theorem state_result_engTurn (s : State) (v : Word) : (s.result v).engTurn = s.engTurn := rfl
@[simp] theorem state_result_rr (s : State) (v : Word) : (s.result v).rr = s.rr := rfl
@[simp] theorem state_result_serial (s : State) (v : Word) : (s.result v).serial = s.serial := rfl
@[simp] theorem state_result_free (s : State) (v : Word) : (s.result v).free = s.free := rfl

/-! ## State.block -/

@[simp] theorem state_block_others (s : State) (b : Block) : (s.block b).others = s.others := rfl
@[simp] theorem state_block_clusters (s : State) (b : Block) : (s.block b).clusters = s.clusters := rfl
@[simp] theorem state_block_dies (s : State) (b : Block) : (s.block b).dies = s.dies := rfl
@[simp] theorem state_block_time (s : State) (b : Block) : (s.block b).time = s.time := rfl
@[simp] theorem state_block_mem (s : State) (b : Block) : (s.block b).mem = s.mem := rfl
@[simp] theorem state_block_l2 (s : State) (b : Block) : (s.block b).l2 = s.l2 := rfl
@[simp] theorem state_block_pins (s : State) (b : Block) : (s.block b).pins = s.pins := rfl
@[simp] theorem state_block_tileLines (s : State) (b : Block) : (s.block b).tileLines = s.tileLines := rfl
@[simp] theorem state_block_poison (s : State) (b : Block) : (s.block b).poison = s.poison := rfl
@[simp] theorem state_block_arrivals (s : State) (b : Block) : (s.block b).arrivals = s.arrivals := rfl
@[simp] theorem state_block_queues (s : State) (b : Block) : (s.block b).queues = s.queues := rfl
@[simp] theorem state_block_counters (s : State) (b : Block) : (s.block b).counters = s.counters := rfl
@[simp] theorem state_block_launches (s : State) (b : Block) : (s.block b).launches = s.launches := rfl
@[simp] theorem state_block_teams (s : State) (b : Block) : (s.block b).teams = s.teams := rfl
@[simp] theorem state_block_saves (s : State) (b : Block) : (s.block b).saves = s.saves := rfl
@[simp] theorem state_block_saved (s : State) (b : Block) : (s.block b).saved = s.saved := rfl
@[simp] theorem state_block_ports (s : State) (b : Block) : (s.block b).ports = s.ports := rfl
@[simp] theorem state_block_teamIds (s : State) (b : Block) : (s.block b).teamIds = s.teamIds := rfl
@[simp] theorem state_block_ctxIds (s : State) (b : Block) : (s.block b).ctxIds = s.ctxIds := rfl
@[simp] theorem state_block_launchIds (s : State) (b : Block) : (s.block b).launchIds = s.launchIds := rfl
@[simp] theorem state_block_agenda (s : State) (b : Block) : (s.block b).agenda = s.agenda := rfl
@[simp] theorem state_block_engTurn (s : State) (b : Block) : (s.block b).engTurn = s.engTurn := rfl
@[simp] theorem state_block_rr (s : State) (b : Block) : (s.block b).rr = s.rr := rfl
@[simp] theorem state_block_serial (s : State) (b : Block) : (s.block b).serial = s.serial := rfl
@[simp] theorem state_block_free (s : State) (b : Block) : (s.block b).free = s.free := rfl

/-! ## State.hold -/

@[simp] theorem state_hold_others (s : State) (i : Instr) (o : Ops) : (s.hold i o).others = s.others := rfl
@[simp] theorem state_hold_clusters (s : State) (i : Instr) (o : Ops) : (s.hold i o).clusters = s.clusters := rfl
@[simp] theorem state_hold_dies (s : State) (i : Instr) (o : Ops) : (s.hold i o).dies = s.dies := rfl
@[simp] theorem state_hold_time (s : State) (i : Instr) (o : Ops) : (s.hold i o).time = s.time := rfl
@[simp] theorem state_hold_mem (s : State) (i : Instr) (o : Ops) : (s.hold i o).mem = s.mem := rfl
@[simp] theorem state_hold_l2 (s : State) (i : Instr) (o : Ops) : (s.hold i o).l2 = s.l2 := rfl
@[simp] theorem state_hold_pins (s : State) (i : Instr) (o : Ops) : (s.hold i o).pins = s.pins := rfl
@[simp] theorem state_hold_tileLines (s : State) (i : Instr) (o : Ops) : (s.hold i o).tileLines = s.tileLines := rfl
@[simp] theorem state_hold_poison (s : State) (i : Instr) (o : Ops) : (s.hold i o).poison = s.poison := rfl
@[simp] theorem state_hold_arrivals (s : State) (i : Instr) (o : Ops) : (s.hold i o).arrivals = s.arrivals := rfl
@[simp] theorem state_hold_queues (s : State) (i : Instr) (o : Ops) : (s.hold i o).queues = s.queues := rfl
@[simp] theorem state_hold_counters (s : State) (i : Instr) (o : Ops) : (s.hold i o).counters = s.counters := rfl
@[simp] theorem state_hold_launches (s : State) (i : Instr) (o : Ops) : (s.hold i o).launches = s.launches := rfl
@[simp] theorem state_hold_teams (s : State) (i : Instr) (o : Ops) : (s.hold i o).teams = s.teams := rfl
@[simp] theorem state_hold_saves (s : State) (i : Instr) (o : Ops) : (s.hold i o).saves = s.saves := rfl
@[simp] theorem state_hold_saved (s : State) (i : Instr) (o : Ops) : (s.hold i o).saved = s.saved := rfl
@[simp] theorem state_hold_ports (s : State) (i : Instr) (o : Ops) : (s.hold i o).ports = s.ports := rfl
@[simp] theorem state_hold_teamIds (s : State) (i : Instr) (o : Ops) : (s.hold i o).teamIds = s.teamIds := rfl
@[simp] theorem state_hold_ctxIds (s : State) (i : Instr) (o : Ops) : (s.hold i o).ctxIds = s.ctxIds := rfl
@[simp] theorem state_hold_launchIds (s : State) (i : Instr) (o : Ops) : (s.hold i o).launchIds = s.launchIds := rfl
@[simp] theorem state_hold_agenda (s : State) (i : Instr) (o : Ops) : (s.hold i o).agenda = s.agenda := rfl
@[simp] theorem state_hold_engTurn (s : State) (i : Instr) (o : Ops) : (s.hold i o).engTurn = s.engTurn := rfl
@[simp] theorem state_hold_rr (s : State) (i : Instr) (o : Ops) : (s.hold i o).rr = s.rr := rfl
@[simp] theorem state_hold_serial (s : State) (i : Instr) (o : Ops) : (s.hold i o).serial = s.serial := rfl
@[simp] theorem state_hold_free (s : State) (i : Instr) (o : Ops) : (s.hold i o).free = s.free := rfl

/-! ## State.tick -/

@[simp] theorem state_tick_core (s : State) : (s.tick).core = s.core := rfl
@[simp] theorem state_tick_others (s : State) : (s.tick).others = s.others := rfl
@[simp] theorem state_tick_clusters (s : State) : (s.tick).clusters = s.clusters := rfl
@[simp] theorem state_tick_dies (s : State) : (s.tick).dies = s.dies := rfl
@[simp] theorem state_tick_mem (s : State) : (s.tick).mem = s.mem := rfl
@[simp] theorem state_tick_l2 (s : State) : (s.tick).l2 = s.l2 := rfl
@[simp] theorem state_tick_pins (s : State) : (s.tick).pins = s.pins := rfl
@[simp] theorem state_tick_tileLines (s : State) : (s.tick).tileLines = s.tileLines := rfl
@[simp] theorem state_tick_poison (s : State) : (s.tick).poison = s.poison := rfl
@[simp] theorem state_tick_arrivals (s : State) : (s.tick).arrivals = s.arrivals := rfl
@[simp] theorem state_tick_queues (s : State) : (s.tick).queues = s.queues := rfl
@[simp] theorem state_tick_counters (s : State) : (s.tick).counters = s.counters := rfl
@[simp] theorem state_tick_launches (s : State) : (s.tick).launches = s.launches := rfl
@[simp] theorem state_tick_teams (s : State) : (s.tick).teams = s.teams := rfl
@[simp] theorem state_tick_saves (s : State) : (s.tick).saves = s.saves := rfl
@[simp] theorem state_tick_saved (s : State) : (s.tick).saved = s.saved := rfl
@[simp] theorem state_tick_ports (s : State) : (s.tick).ports = s.ports := rfl
@[simp] theorem state_tick_teamIds (s : State) : (s.tick).teamIds = s.teamIds := rfl
@[simp] theorem state_tick_ctxIds (s : State) : (s.tick).ctxIds = s.ctxIds := rfl
@[simp] theorem state_tick_launchIds (s : State) : (s.tick).launchIds = s.launchIds := rfl
@[simp] theorem state_tick_agenda (s : State) : (s.tick).agenda = s.agenda := rfl
@[simp] theorem state_tick_rr (s : State) : (s.tick).rr = s.rr := rfl
@[simp] theorem state_tick_serial (s : State) : (s.tick).serial = s.serial := rfl
@[simp] theorem state_tick_free (s : State) : (s.tick).free = s.free := rfl

/-! ## State.setCore -/

@[simp] theorem state_setCore_clusters (s : State) (c : Core) : (s.setCore c).clusters = s.clusters := by
  unfold State.setCore; split <;> rfl
@[simp] theorem state_setCore_dies (s : State) (c : Core) : (s.setCore c).dies = s.dies := by
  unfold State.setCore; split <;> rfl
@[simp] theorem state_setCore_time (s : State) (c : Core) : (s.setCore c).time = s.time := by
  unfold State.setCore; split <;> rfl
@[simp] theorem state_setCore_mem (s : State) (c : Core) : (s.setCore c).mem = s.mem := by
  unfold State.setCore; split <;> rfl
@[simp] theorem state_setCore_l2 (s : State) (c : Core) : (s.setCore c).l2 = s.l2 := by
  unfold State.setCore; split <;> rfl
@[simp] theorem state_setCore_pins (s : State) (c : Core) : (s.setCore c).pins = s.pins := by
  unfold State.setCore; split <;> rfl
@[simp] theorem state_setCore_tileLines (s : State) (c : Core) : (s.setCore c).tileLines = s.tileLines := by
  unfold State.setCore; split <;> rfl
@[simp] theorem state_setCore_poison (s : State) (c : Core) : (s.setCore c).poison = s.poison := by
  unfold State.setCore; split <;> rfl
@[simp] theorem state_setCore_arrivals (s : State) (c : Core) : (s.setCore c).arrivals = s.arrivals := by
  unfold State.setCore; split <;> rfl
@[simp] theorem state_setCore_queues (s : State) (c : Core) : (s.setCore c).queues = s.queues := by
  unfold State.setCore; split <;> rfl
@[simp] theorem state_setCore_counters (s : State) (c : Core) : (s.setCore c).counters = s.counters := by
  unfold State.setCore; split <;> rfl
@[simp] theorem state_setCore_launches (s : State) (c : Core) : (s.setCore c).launches = s.launches := by
  unfold State.setCore; split <;> rfl
@[simp] theorem state_setCore_teams (s : State) (c : Core) : (s.setCore c).teams = s.teams := by
  unfold State.setCore; split <;> rfl
@[simp] theorem state_setCore_saves (s : State) (c : Core) : (s.setCore c).saves = s.saves := by
  unfold State.setCore; split <;> rfl
@[simp] theorem state_setCore_saved (s : State) (c : Core) : (s.setCore c).saved = s.saved := by
  unfold State.setCore; split <;> rfl
@[simp] theorem state_setCore_ports (s : State) (c : Core) : (s.setCore c).ports = s.ports := by
  unfold State.setCore; split <;> rfl
@[simp] theorem state_setCore_teamIds (s : State) (c : Core) : (s.setCore c).teamIds = s.teamIds := by
  unfold State.setCore; split <;> rfl
@[simp] theorem state_setCore_ctxIds (s : State) (c : Core) : (s.setCore c).ctxIds = s.ctxIds := by
  unfold State.setCore; split <;> rfl
@[simp] theorem state_setCore_launchIds (s : State) (c : Core) : (s.setCore c).launchIds = s.launchIds := by
  unfold State.setCore; split <;> rfl
@[simp] theorem state_setCore_agenda (s : State) (c : Core) : (s.setCore c).agenda = s.agenda := by
  unfold State.setCore; split <;> rfl
@[simp] theorem state_setCore_engTurn (s : State) (c : Core) : (s.setCore c).engTurn = s.engTurn := by
  unfold State.setCore; split <;> rfl
@[simp] theorem state_setCore_rr (s : State) (c : Core) : (s.setCore c).rr = s.rr := by
  unfold State.setCore; split <;> rfl
@[simp] theorem state_setCore_serial (s : State) (c : Core) : (s.setCore c).serial = s.serial := by
  unfold State.setCore; split <;> rfl
@[simp] theorem state_setCore_free (s : State) (c : Core) : (s.setCore c).free = s.free := by
  unfold State.setCore; split <;> rfl

/-! ## Core.setTrain -/

@[simp] theorem setTrain_who (c : Core) (t : Train) : (c.setTrain t).who = c.who := rfl
@[simp] theorem setTrain_run (c : Core) (t : Train) : (c.setTrain t).run = c.run := rfl
@[simp] theorem setTrain_pc (c : Core) (t : Train) : (c.setTrain t).pc = c.pc := rfl
@[simp] theorem setTrain_nextPc (c : Core) (t : Train) : (c.setTrain t).nextPc = c.nextPc := rfl
@[simp] theorem setTrain_csr (c : Core) (t : Train) : (c.setTrain t).csr = c.csr := rfl
@[simp] theorem setTrain_gens (c : Core) (t : Train) : (c.setTrain t).gens = c.gens := rfl
@[simp] theorem setTrain_task (c : Core) (t : Train) : (c.setTrain t).task = c.task := rfl
@[simp] theorem setTrain_scratch (c : Core) (t : Train) : (c.setTrain t).scratch = c.scratch := rfl
@[simp] theorem setTrain_fetched (c : Core) (t : Train) : (c.setTrain t).fetched = c.fetched := rfl
@[simp] theorem setTrain_leases (c : Core) (t : Train) : (c.setTrain t).leases = c.leases := rfl
@[simp] theorem setTrain_locks (c : Core) (t : Train) : (c.setTrain t).locks = c.locks := rfl
@[simp] theorem setTrain_slotLocks (c : Core) (t : Train) : (c.setTrain t).slotLocks = c.slotLocks := rfl
@[simp] theorem setTrain_stalling (c : Core) (t : Train) : (c.setTrain t).stalling = c.stalling := rfl
@[simp] theorem setTrain_stallCounted (c : Core) (t : Train) : (c.setTrain t).stallCounted = c.stallCounted := rfl
@[simp] theorem setTrain_stageId (c : Core) (t : Train) : (c.setTrain t).stageId = c.stageId := rfl
@[simp] theorem setTrain_entries (c : Core) (t : Train) : (c.setTrain t).entries = c.entries := rfl
@[simp] theorem setTrain_streams (c : Core) (t : Train) : (c.setTrain t).streams = c.streams := rfl
@[simp] theorem setTrain_teamCount (c : Core) (t : Train) : (c.setTrain t).teamCount = c.teamCount := rfl
@[simp] theorem setTrain_mredBanks (c : Core) (t : Train) : (c.setTrain t).mredBanks = c.mredBanks := rfl
@[simp] theorem setTrain_chan (c : Core) (t : Train) : (c.setTrain t).chan = c.chan := rfl
@[simp] theorem setTrain_idScopes (c : Core) (t : Train) : (c.setTrain t).idScopes = c.idScopes := rfl
@[simp] theorem setTrain_merge (c : Core) (t : Train) : (c.setTrain t).merge = c.merge := rfl
@[simp] theorem setTrain_walks (c : Core) (t : Train) : (c.setTrain t).walks = c.walks := rfl
@[simp] theorem setTrain_flagged (c : Core) (t : Train) : (c.setTrain t).flagged = c.flagged := rfl
@[simp] theorem setTrain_uiReady (c : Core) (t : Train) : (c.setTrain t).uiReady = c.uiReady := rfl
@[simp] theorem setTrain_yieldAt (c : Core) (t : Train) : (c.setTrain t).yieldAt = c.yieldAt := rfl
@[simp] theorem setTrain_tx (c : Core) (t : Train) : (c.setTrain t).tx = c.tx := rfl
@[simp] theorem setTrain_frame (c : Core) (t : Train) : (c.setTrain t).frame = c.frame := rfl
@[simp] theorem setTrain_rmstats (c : Core) (t : Train) : (c.setTrain t).rmstats = c.rmstats := rfl
@[simp] theorem setTrain_granules (c : Core) (t : Train) : (c.setTrain t).granules = c.granules := rfl
@[simp] theorem setTrain_escScopes (c : Core) (t : Train) : (c.setTrain t).escScopes = c.escScopes := rfl
@[simp] theorem setTrain_gathers (c : Core) (t : Train) : (c.setTrain t).gathers = c.gathers := rfl
@[simp] theorem setTrain_landings (c : Core) (t : Train) : (c.setTrain t).landings = c.landings := rfl

/-! ## Core.push -/

@[simp] theorem push_who (c : Core) (v : Word) : (c.push v).who = c.who := rfl
@[simp] theorem push_run (c : Core) (v : Word) : (c.push v).run = c.run := rfl
@[simp] theorem push_pc (c : Core) (v : Word) : (c.push v).pc = c.pc := rfl
@[simp] theorem push_nextPc (c : Core) (v : Word) : (c.push v).nextPc = c.nextPc := rfl
@[simp] theorem push_csr (c : Core) (v : Word) : (c.push v).csr = c.csr := rfl
@[simp] theorem push_gens (c : Core) (v : Word) : (c.push v).gens = c.gens := rfl
@[simp] theorem push_task (c : Core) (v : Word) : (c.push v).task = c.task := rfl
@[simp] theorem push_scratch (c : Core) (v : Word) : (c.push v).scratch = c.scratch := rfl
@[simp] theorem push_fetched (c : Core) (v : Word) : (c.push v).fetched = c.fetched := rfl
@[simp] theorem push_leases (c : Core) (v : Word) : (c.push v).leases = c.leases := rfl
@[simp] theorem push_locks (c : Core) (v : Word) : (c.push v).locks = c.locks := rfl
@[simp] theorem push_slotLocks (c : Core) (v : Word) : (c.push v).slotLocks = c.slotLocks := rfl
@[simp] theorem push_stalling (c : Core) (v : Word) : (c.push v).stalling = c.stalling := rfl
@[simp] theorem push_stallCounted (c : Core) (v : Word) : (c.push v).stallCounted = c.stallCounted := rfl
@[simp] theorem push_stageId (c : Core) (v : Word) : (c.push v).stageId = c.stageId := rfl
@[simp] theorem push_entries (c : Core) (v : Word) : (c.push v).entries = c.entries := rfl
@[simp] theorem push_streams (c : Core) (v : Word) : (c.push v).streams = c.streams := rfl
@[simp] theorem push_teamCount (c : Core) (v : Word) : (c.push v).teamCount = c.teamCount := rfl
@[simp] theorem push_mredBanks (c : Core) (v : Word) : (c.push v).mredBanks = c.mredBanks := rfl
@[simp] theorem push_chan (c : Core) (v : Word) : (c.push v).chan = c.chan := rfl
@[simp] theorem push_idScopes (c : Core) (v : Word) : (c.push v).idScopes = c.idScopes := rfl
@[simp] theorem push_merge (c : Core) (v : Word) : (c.push v).merge = c.merge := rfl
@[simp] theorem push_walks (c : Core) (v : Word) : (c.push v).walks = c.walks := rfl
@[simp] theorem push_flagged (c : Core) (v : Word) : (c.push v).flagged = c.flagged := rfl
@[simp] theorem push_uiReady (c : Core) (v : Word) : (c.push v).uiReady = c.uiReady := rfl
@[simp] theorem push_yieldAt (c : Core) (v : Word) : (c.push v).yieldAt = c.yieldAt := rfl
@[simp] theorem push_tx (c : Core) (v : Word) : (c.push v).tx = c.tx := rfl
@[simp] theorem push_frame (c : Core) (v : Word) : (c.push v).frame = c.frame := rfl
@[simp] theorem push_rmstats (c : Core) (v : Word) : (c.push v).rmstats = c.rmstats := rfl
@[simp] theorem push_granules (c : Core) (v : Word) : (c.push v).granules = c.granules := rfl
@[simp] theorem push_escScopes (c : Core) (v : Word) : (c.push v).escScopes = c.escScopes := rfl
@[simp] theorem push_gathers (c : Core) (v : Word) : (c.push v).gathers = c.gathers := rfl
@[simp] theorem push_landings (c : Core) (v : Word) : (c.push v).landings = c.landings := rfl

/-! ## Core.pushPending -/

@[simp] theorem pushPending_who (c : Core) (n : Nat) : (c.pushPending n).who = c.who := rfl
@[simp] theorem pushPending_run (c : Core) (n : Nat) : (c.pushPending n).run = c.run := rfl
@[simp] theorem pushPending_pc (c : Core) (n : Nat) : (c.pushPending n).pc = c.pc := rfl
@[simp] theorem pushPending_nextPc (c : Core) (n : Nat) : (c.pushPending n).nextPc = c.nextPc := rfl
@[simp] theorem pushPending_csr (c : Core) (n : Nat) : (c.pushPending n).csr = c.csr := rfl
@[simp] theorem pushPending_gens (c : Core) (n : Nat) : (c.pushPending n).gens = c.gens := rfl
@[simp] theorem pushPending_task (c : Core) (n : Nat) : (c.pushPending n).task = c.task := rfl
@[simp] theorem pushPending_scratch (c : Core) (n : Nat) : (c.pushPending n).scratch = c.scratch := rfl
@[simp] theorem pushPending_fetched (c : Core) (n : Nat) : (c.pushPending n).fetched = c.fetched := rfl
@[simp] theorem pushPending_leases (c : Core) (n : Nat) : (c.pushPending n).leases = c.leases := rfl
@[simp] theorem pushPending_locks (c : Core) (n : Nat) : (c.pushPending n).locks = c.locks := rfl
@[simp] theorem pushPending_slotLocks (c : Core) (n : Nat) : (c.pushPending n).slotLocks = c.slotLocks := rfl
@[simp] theorem pushPending_stalling (c : Core) (n : Nat) : (c.pushPending n).stalling = c.stalling := rfl
@[simp] theorem pushPending_stallCounted (c : Core) (n : Nat) : (c.pushPending n).stallCounted = c.stallCounted := rfl
@[simp] theorem pushPending_stageId (c : Core) (n : Nat) : (c.pushPending n).stageId = c.stageId := rfl
@[simp] theorem pushPending_entries (c : Core) (n : Nat) : (c.pushPending n).entries = c.entries := rfl
@[simp] theorem pushPending_streams (c : Core) (n : Nat) : (c.pushPending n).streams = c.streams := rfl
@[simp] theorem pushPending_teamCount (c : Core) (n : Nat) : (c.pushPending n).teamCount = c.teamCount := rfl
@[simp] theorem pushPending_mredBanks (c : Core) (n : Nat) : (c.pushPending n).mredBanks = c.mredBanks := rfl
@[simp] theorem pushPending_chan (c : Core) (n : Nat) : (c.pushPending n).chan = c.chan := rfl
@[simp] theorem pushPending_idScopes (c : Core) (n : Nat) : (c.pushPending n).idScopes = c.idScopes := rfl
@[simp] theorem pushPending_merge (c : Core) (n : Nat) : (c.pushPending n).merge = c.merge := rfl
@[simp] theorem pushPending_walks (c : Core) (n : Nat) : (c.pushPending n).walks = c.walks := rfl
@[simp] theorem pushPending_flagged (c : Core) (n : Nat) : (c.pushPending n).flagged = c.flagged := rfl
@[simp] theorem pushPending_uiReady (c : Core) (n : Nat) : (c.pushPending n).uiReady = c.uiReady := rfl
@[simp] theorem pushPending_yieldAt (c : Core) (n : Nat) : (c.pushPending n).yieldAt = c.yieldAt := rfl
@[simp] theorem pushPending_tx (c : Core) (n : Nat) : (c.pushPending n).tx = c.tx := rfl
@[simp] theorem pushPending_frame (c : Core) (n : Nat) : (c.pushPending n).frame = c.frame := rfl
@[simp] theorem pushPending_rmstats (c : Core) (n : Nat) : (c.pushPending n).rmstats = c.rmstats := rfl
@[simp] theorem pushPending_granules (c : Core) (n : Nat) : (c.pushPending n).granules = c.granules := rfl
@[simp] theorem pushPending_escScopes (c : Core) (n : Nat) : (c.pushPending n).escScopes = c.escScopes := rfl
@[simp] theorem pushPending_gathers (c : Core) (n : Nat) : (c.pushPending n).gathers = c.gathers := rfl
@[simp] theorem pushPending_landings (c : Core) (n : Nat) : (c.pushPending n).landings = c.landings := rfl

/-! ## Core.deliver -/

@[simp] theorem deliver_who (c : Core) (n : Nat) (v : Word) : (c.deliver n v).who = c.who := rfl
@[simp] theorem deliver_run (c : Core) (n : Nat) (v : Word) : (c.deliver n v).run = c.run := rfl
@[simp] theorem deliver_pc (c : Core) (n : Nat) (v : Word) : (c.deliver n v).pc = c.pc := rfl
@[simp] theorem deliver_nextPc (c : Core) (n : Nat) (v : Word) : (c.deliver n v).nextPc = c.nextPc := rfl
@[simp] theorem deliver_csr (c : Core) (n : Nat) (v : Word) : (c.deliver n v).csr = c.csr := rfl
@[simp] theorem deliver_gens (c : Core) (n : Nat) (v : Word) : (c.deliver n v).gens = c.gens := rfl
@[simp] theorem deliver_task (c : Core) (n : Nat) (v : Word) : (c.deliver n v).task = c.task := rfl
@[simp] theorem deliver_scratch (c : Core) (n : Nat) (v : Word) : (c.deliver n v).scratch = c.scratch := rfl
@[simp] theorem deliver_fetched (c : Core) (n : Nat) (v : Word) : (c.deliver n v).fetched = c.fetched := rfl
@[simp] theorem deliver_leases (c : Core) (n : Nat) (v : Word) : (c.deliver n v).leases = c.leases := rfl
@[simp] theorem deliver_locks (c : Core) (n : Nat) (v : Word) : (c.deliver n v).locks = c.locks := rfl
@[simp] theorem deliver_slotLocks (c : Core) (n : Nat) (v : Word) : (c.deliver n v).slotLocks = c.slotLocks := rfl
@[simp] theorem deliver_stalling (c : Core) (n : Nat) (v : Word) : (c.deliver n v).stalling = c.stalling := rfl
@[simp] theorem deliver_stallCounted (c : Core) (n : Nat) (v : Word) : (c.deliver n v).stallCounted = c.stallCounted := rfl
@[simp] theorem deliver_stageId (c : Core) (n : Nat) (v : Word) : (c.deliver n v).stageId = c.stageId := rfl
@[simp] theorem deliver_entries (c : Core) (n : Nat) (v : Word) : (c.deliver n v).entries = c.entries := rfl
@[simp] theorem deliver_streams (c : Core) (n : Nat) (v : Word) : (c.deliver n v).streams = c.streams := rfl
@[simp] theorem deliver_teamCount (c : Core) (n : Nat) (v : Word) : (c.deliver n v).teamCount = c.teamCount := rfl
@[simp] theorem deliver_mredBanks (c : Core) (n : Nat) (v : Word) : (c.deliver n v).mredBanks = c.mredBanks := rfl
@[simp] theorem deliver_chan (c : Core) (n : Nat) (v : Word) : (c.deliver n v).chan = c.chan := rfl
@[simp] theorem deliver_idScopes (c : Core) (n : Nat) (v : Word) : (c.deliver n v).idScopes = c.idScopes := rfl
@[simp] theorem deliver_merge (c : Core) (n : Nat) (v : Word) : (c.deliver n v).merge = c.merge := rfl
@[simp] theorem deliver_walks (c : Core) (n : Nat) (v : Word) : (c.deliver n v).walks = c.walks := rfl
@[simp] theorem deliver_flagged (c : Core) (n : Nat) (v : Word) : (c.deliver n v).flagged = c.flagged := rfl
@[simp] theorem deliver_uiReady (c : Core) (n : Nat) (v : Word) : (c.deliver n v).uiReady = c.uiReady := rfl
@[simp] theorem deliver_yieldAt (c : Core) (n : Nat) (v : Word) : (c.deliver n v).yieldAt = c.yieldAt := rfl
@[simp] theorem deliver_tx (c : Core) (n : Nat) (v : Word) : (c.deliver n v).tx = c.tx := rfl
@[simp] theorem deliver_frame (c : Core) (n : Nat) (v : Word) : (c.deliver n v).frame = c.frame := rfl
@[simp] theorem deliver_rmstats (c : Core) (n : Nat) (v : Word) : (c.deliver n v).rmstats = c.rmstats := rfl
@[simp] theorem deliver_granules (c : Core) (n : Nat) (v : Word) : (c.deliver n v).granules = c.granules := rfl
@[simp] theorem deliver_escScopes (c : Core) (n : Nat) (v : Word) : (c.deliver n v).escScopes = c.escScopes := rfl
@[simp] theorem deliver_gathers (c : Core) (n : Nat) (v : Word) : (c.deliver n v).gathers = c.gathers := rfl
@[simp] theorem deliver_landings (c : Core) (n : Nat) (v : Word) : (c.deliver n v).landings = c.landings := rfl

/-! ## Core.setK -/

@[simp] theorem setK_who (c : Core) (i : Fin 16) (v : Word) : (c.setK i v).who = c.who := rfl
@[simp] theorem setK_run (c : Core) (i : Fin 16) (v : Word) : (c.setK i v).run = c.run := rfl
@[simp] theorem setK_pc (c : Core) (i : Fin 16) (v : Word) : (c.setK i v).pc = c.pc := rfl
@[simp] theorem setK_nextPc (c : Core) (i : Fin 16) (v : Word) : (c.setK i v).nextPc = c.nextPc := rfl
@[simp] theorem setK_csr (c : Core) (i : Fin 16) (v : Word) : (c.setK i v).csr = c.csr := rfl
@[simp] theorem setK_gens (c : Core) (i : Fin 16) (v : Word) : (c.setK i v).gens = c.gens := rfl
@[simp] theorem setK_task (c : Core) (i : Fin 16) (v : Word) : (c.setK i v).task = c.task := rfl
@[simp] theorem setK_scratch (c : Core) (i : Fin 16) (v : Word) : (c.setK i v).scratch = c.scratch := rfl
@[simp] theorem setK_fetched (c : Core) (i : Fin 16) (v : Word) : (c.setK i v).fetched = c.fetched := rfl
@[simp] theorem setK_leases (c : Core) (i : Fin 16) (v : Word) : (c.setK i v).leases = c.leases := rfl
@[simp] theorem setK_locks (c : Core) (i : Fin 16) (v : Word) : (c.setK i v).locks = c.locks := rfl
@[simp] theorem setK_slotLocks (c : Core) (i : Fin 16) (v : Word) : (c.setK i v).slotLocks = c.slotLocks := rfl
@[simp] theorem setK_stalling (c : Core) (i : Fin 16) (v : Word) : (c.setK i v).stalling = c.stalling := rfl
@[simp] theorem setK_stallCounted (c : Core) (i : Fin 16) (v : Word) : (c.setK i v).stallCounted = c.stallCounted := rfl
@[simp] theorem setK_stageId (c : Core) (i : Fin 16) (v : Word) : (c.setK i v).stageId = c.stageId := rfl
@[simp] theorem setK_entries (c : Core) (i : Fin 16) (v : Word) : (c.setK i v).entries = c.entries := rfl
@[simp] theorem setK_streams (c : Core) (i : Fin 16) (v : Word) : (c.setK i v).streams = c.streams := rfl
@[simp] theorem setK_teamCount (c : Core) (i : Fin 16) (v : Word) : (c.setK i v).teamCount = c.teamCount := rfl
@[simp] theorem setK_mredBanks (c : Core) (i : Fin 16) (v : Word) : (c.setK i v).mredBanks = c.mredBanks := rfl
@[simp] theorem setK_chan (c : Core) (i : Fin 16) (v : Word) : (c.setK i v).chan = c.chan := rfl
@[simp] theorem setK_idScopes (c : Core) (i : Fin 16) (v : Word) : (c.setK i v).idScopes = c.idScopes := rfl
@[simp] theorem setK_merge (c : Core) (i : Fin 16) (v : Word) : (c.setK i v).merge = c.merge := rfl
@[simp] theorem setK_walks (c : Core) (i : Fin 16) (v : Word) : (c.setK i v).walks = c.walks := rfl
@[simp] theorem setK_flagged (c : Core) (i : Fin 16) (v : Word) : (c.setK i v).flagged = c.flagged := rfl
@[simp] theorem setK_uiReady (c : Core) (i : Fin 16) (v : Word) : (c.setK i v).uiReady = c.uiReady := rfl
@[simp] theorem setK_yieldAt (c : Core) (i : Fin 16) (v : Word) : (c.setK i v).yieldAt = c.yieldAt := rfl
@[simp] theorem setK_tx (c : Core) (i : Fin 16) (v : Word) : (c.setK i v).tx = c.tx := rfl
@[simp] theorem setK_frame (c : Core) (i : Fin 16) (v : Word) : (c.setK i v).frame = c.frame := rfl
@[simp] theorem setK_rmstats (c : Core) (i : Fin 16) (v : Word) : (c.setK i v).rmstats = c.rmstats := rfl
@[simp] theorem setK_granules (c : Core) (i : Fin 16) (v : Word) : (c.setK i v).granules = c.granules := rfl
@[simp] theorem setK_escScopes (c : Core) (i : Fin 16) (v : Word) : (c.setK i v).escScopes = c.escScopes := rfl
@[simp] theorem setK_gathers (c : Core) (i : Fin 16) (v : Word) : (c.setK i v).gathers = c.gathers := rfl
@[simp] theorem setK_landings (c : Core) (i : Fin 16) (v : Word) : (c.setK i v).landings = c.landings := rfl

/-! ## Core.setDst -/

@[simp] theorem setDst_who (c : Core) (d : Dst) (v : Word) : (c.setDst d v).who = c.who := by cases d <;> rfl
@[simp] theorem setDst_run (c : Core) (d : Dst) (v : Word) : (c.setDst d v).run = c.run := by cases d <;> rfl
@[simp] theorem setDst_pc (c : Core) (d : Dst) (v : Word) : (c.setDst d v).pc = c.pc := by cases d <;> rfl
@[simp] theorem setDst_nextPc (c : Core) (d : Dst) (v : Word) : (c.setDst d v).nextPc = c.nextPc := by cases d <;> rfl
@[simp] theorem setDst_csr (c : Core) (d : Dst) (v : Word) : (c.setDst d v).csr = c.csr := by cases d <;> rfl
@[simp] theorem setDst_gens (c : Core) (d : Dst) (v : Word) : (c.setDst d v).gens = c.gens := by cases d <;> rfl
@[simp] theorem setDst_task (c : Core) (d : Dst) (v : Word) : (c.setDst d v).task = c.task := by cases d <;> rfl
@[simp] theorem setDst_scratch (c : Core) (d : Dst) (v : Word) : (c.setDst d v).scratch = c.scratch := by cases d <;> rfl
@[simp] theorem setDst_fetched (c : Core) (d : Dst) (v : Word) : (c.setDst d v).fetched = c.fetched := by cases d <;> rfl
@[simp] theorem setDst_leases (c : Core) (d : Dst) (v : Word) : (c.setDst d v).leases = c.leases := by cases d <;> rfl
@[simp] theorem setDst_locks (c : Core) (d : Dst) (v : Word) : (c.setDst d v).locks = c.locks := by cases d <;> rfl
@[simp] theorem setDst_slotLocks (c : Core) (d : Dst) (v : Word) : (c.setDst d v).slotLocks = c.slotLocks := by cases d <;> rfl
@[simp] theorem setDst_stalling (c : Core) (d : Dst) (v : Word) : (c.setDst d v).stalling = c.stalling := by cases d <;> rfl
@[simp] theorem setDst_stallCounted (c : Core) (d : Dst) (v : Word) : (c.setDst d v).stallCounted = c.stallCounted := by cases d <;> rfl
@[simp] theorem setDst_stageId (c : Core) (d : Dst) (v : Word) : (c.setDst d v).stageId = c.stageId := by cases d <;> rfl
@[simp] theorem setDst_entries (c : Core) (d : Dst) (v : Word) : (c.setDst d v).entries = c.entries := by cases d <;> rfl
@[simp] theorem setDst_streams (c : Core) (d : Dst) (v : Word) : (c.setDst d v).streams = c.streams := by cases d <;> rfl
@[simp] theorem setDst_teamCount (c : Core) (d : Dst) (v : Word) : (c.setDst d v).teamCount = c.teamCount := by cases d <;> rfl
@[simp] theorem setDst_mredBanks (c : Core) (d : Dst) (v : Word) : (c.setDst d v).mredBanks = c.mredBanks := by cases d <;> rfl
@[simp] theorem setDst_chan (c : Core) (d : Dst) (v : Word) : (c.setDst d v).chan = c.chan := by cases d <;> rfl
@[simp] theorem setDst_idScopes (c : Core) (d : Dst) (v : Word) : (c.setDst d v).idScopes = c.idScopes := by cases d <;> rfl
@[simp] theorem setDst_merge (c : Core) (d : Dst) (v : Word) : (c.setDst d v).merge = c.merge := by cases d <;> rfl
@[simp] theorem setDst_walks (c : Core) (d : Dst) (v : Word) : (c.setDst d v).walks = c.walks := by cases d <;> rfl
@[simp] theorem setDst_flagged (c : Core) (d : Dst) (v : Word) : (c.setDst d v).flagged = c.flagged := by cases d <;> rfl
@[simp] theorem setDst_uiReady (c : Core) (d : Dst) (v : Word) : (c.setDst d v).uiReady = c.uiReady := by cases d <;> rfl
@[simp] theorem setDst_yieldAt (c : Core) (d : Dst) (v : Word) : (c.setDst d v).yieldAt = c.yieldAt := by cases d <;> rfl
@[simp] theorem setDst_tx (c : Core) (d : Dst) (v : Word) : (c.setDst d v).tx = c.tx := by cases d <;> rfl
@[simp] theorem setDst_frame (c : Core) (d : Dst) (v : Word) : (c.setDst d v).frame = c.frame := by cases d <;> rfl
@[simp] theorem setDst_rmstats (c : Core) (d : Dst) (v : Word) : (c.setDst d v).rmstats = c.rmstats := by cases d <;> rfl
@[simp] theorem setDst_granules (c : Core) (d : Dst) (v : Word) : (c.setDst d v).granules = c.granules := by cases d <;> rfl
@[simp] theorem setDst_escScopes (c : Core) (d : Dst) (v : Word) : (c.setDst d v).escScopes = c.escScopes := by cases d <;> rfl
@[simp] theorem setDst_gathers (c : Core) (d : Dst) (v : Word) : (c.setDst d v).gathers = c.gathers := by cases d <;> rfl
@[simp] theorem setDst_landings (c : Core) (d : Dst) (v : Word) : (c.setDst d v).landings = c.landings := by cases d <;> rfl

/-! ## Core.setV -/

@[simp] theorem setV_who (c : Core) (d : VReg) (v : VecReg) : (c.setV d v).who = c.who := rfl
@[simp] theorem setV_run (c : Core) (d : VReg) (v : VecReg) : (c.setV d v).run = c.run := rfl
@[simp] theorem setV_pc (c : Core) (d : VReg) (v : VecReg) : (c.setV d v).pc = c.pc := rfl
@[simp] theorem setV_nextPc (c : Core) (d : VReg) (v : VecReg) : (c.setV d v).nextPc = c.nextPc := rfl
@[simp] theorem setV_csr (c : Core) (d : VReg) (v : VecReg) : (c.setV d v).csr = c.csr := rfl
@[simp] theorem setV_gens (c : Core) (d : VReg) (v : VecReg) : (c.setV d v).gens = c.gens := rfl
@[simp] theorem setV_task (c : Core) (d : VReg) (v : VecReg) : (c.setV d v).task = c.task := rfl
@[simp] theorem setV_scratch (c : Core) (d : VReg) (v : VecReg) : (c.setV d v).scratch = c.scratch := rfl
@[simp] theorem setV_fetched (c : Core) (d : VReg) (v : VecReg) : (c.setV d v).fetched = c.fetched := rfl
@[simp] theorem setV_leases (c : Core) (d : VReg) (v : VecReg) : (c.setV d v).leases = c.leases := rfl
@[simp] theorem setV_locks (c : Core) (d : VReg) (v : VecReg) : (c.setV d v).locks = c.locks := rfl
@[simp] theorem setV_slotLocks (c : Core) (d : VReg) (v : VecReg) : (c.setV d v).slotLocks = c.slotLocks := rfl
@[simp] theorem setV_stalling (c : Core) (d : VReg) (v : VecReg) : (c.setV d v).stalling = c.stalling := rfl
@[simp] theorem setV_stallCounted (c : Core) (d : VReg) (v : VecReg) : (c.setV d v).stallCounted = c.stallCounted := rfl
@[simp] theorem setV_stageId (c : Core) (d : VReg) (v : VecReg) : (c.setV d v).stageId = c.stageId := rfl
@[simp] theorem setV_entries (c : Core) (d : VReg) (v : VecReg) : (c.setV d v).entries = c.entries := rfl
@[simp] theorem setV_streams (c : Core) (d : VReg) (v : VecReg) : (c.setV d v).streams = c.streams := rfl
@[simp] theorem setV_teamCount (c : Core) (d : VReg) (v : VecReg) : (c.setV d v).teamCount = c.teamCount := rfl
@[simp] theorem setV_mredBanks (c : Core) (d : VReg) (v : VecReg) : (c.setV d v).mredBanks = c.mredBanks := rfl
@[simp] theorem setV_chan (c : Core) (d : VReg) (v : VecReg) : (c.setV d v).chan = c.chan := rfl
@[simp] theorem setV_idScopes (c : Core) (d : VReg) (v : VecReg) : (c.setV d v).idScopes = c.idScopes := rfl
@[simp] theorem setV_merge (c : Core) (d : VReg) (v : VecReg) : (c.setV d v).merge = c.merge := rfl
@[simp] theorem setV_walks (c : Core) (d : VReg) (v : VecReg) : (c.setV d v).walks = c.walks := rfl
@[simp] theorem setV_flagged (c : Core) (d : VReg) (v : VecReg) : (c.setV d v).flagged = c.flagged := rfl
@[simp] theorem setV_uiReady (c : Core) (d : VReg) (v : VecReg) : (c.setV d v).uiReady = c.uiReady := rfl
@[simp] theorem setV_yieldAt (c : Core) (d : VReg) (v : VecReg) : (c.setV d v).yieldAt = c.yieldAt := rfl
@[simp] theorem setV_tx (c : Core) (d : VReg) (v : VecReg) : (c.setV d v).tx = c.tx := rfl
@[simp] theorem setV_frame (c : Core) (d : VReg) (v : VecReg) : (c.setV d v).frame = c.frame := rfl
@[simp] theorem setV_rmstats (c : Core) (d : VReg) (v : VecReg) : (c.setV d v).rmstats = c.rmstats := rfl
@[simp] theorem setV_granules (c : Core) (d : VReg) (v : VecReg) : (c.setV d v).granules = c.granules := rfl
@[simp] theorem setV_escScopes (c : Core) (d : VReg) (v : VecReg) : (c.setV d v).escScopes = c.escScopes := rfl
@[simp] theorem setV_gathers (c : Core) (d : VReg) (v : VecReg) : (c.setV d v).gathers = c.gathers := rfl
@[simp] theorem setV_landings (c : Core) (d : VReg) (v : VecReg) : (c.setV d v).landings = c.landings := rfl

/-! ## Core.setF -/

@[simp] theorem setF_who (c : Core) (i : MReg) (v : MaskReg) : (c.setF i v).who = c.who := by
  unfold Core.setF; split <;> rfl
@[simp] theorem setF_run (c : Core) (i : MReg) (v : MaskReg) : (c.setF i v).run = c.run := by
  unfold Core.setF; split <;> rfl
@[simp] theorem setF_pc (c : Core) (i : MReg) (v : MaskReg) : (c.setF i v).pc = c.pc := by
  unfold Core.setF; split <;> rfl
@[simp] theorem setF_nextPc (c : Core) (i : MReg) (v : MaskReg) : (c.setF i v).nextPc = c.nextPc := by
  unfold Core.setF; split <;> rfl
@[simp] theorem setF_csr (c : Core) (i : MReg) (v : MaskReg) : (c.setF i v).csr = c.csr := by
  unfold Core.setF; split <;> rfl
@[simp] theorem setF_gens (c : Core) (i : MReg) (v : MaskReg) : (c.setF i v).gens = c.gens := by
  unfold Core.setF; split <;> rfl
@[simp] theorem setF_task (c : Core) (i : MReg) (v : MaskReg) : (c.setF i v).task = c.task := by
  unfold Core.setF; split <;> rfl
@[simp] theorem setF_scratch (c : Core) (i : MReg) (v : MaskReg) : (c.setF i v).scratch = c.scratch := by
  unfold Core.setF; split <;> rfl
@[simp] theorem setF_fetched (c : Core) (i : MReg) (v : MaskReg) : (c.setF i v).fetched = c.fetched := by
  unfold Core.setF; split <;> rfl
@[simp] theorem setF_leases (c : Core) (i : MReg) (v : MaskReg) : (c.setF i v).leases = c.leases := by
  unfold Core.setF; split <;> rfl
@[simp] theorem setF_locks (c : Core) (i : MReg) (v : MaskReg) : (c.setF i v).locks = c.locks := by
  unfold Core.setF; split <;> rfl
@[simp] theorem setF_slotLocks (c : Core) (i : MReg) (v : MaskReg) : (c.setF i v).slotLocks = c.slotLocks := by
  unfold Core.setF; split <;> rfl
@[simp] theorem setF_stalling (c : Core) (i : MReg) (v : MaskReg) : (c.setF i v).stalling = c.stalling := by
  unfold Core.setF; split <;> rfl
@[simp] theorem setF_stallCounted (c : Core) (i : MReg) (v : MaskReg) : (c.setF i v).stallCounted = c.stallCounted := by
  unfold Core.setF; split <;> rfl
@[simp] theorem setF_stageId (c : Core) (i : MReg) (v : MaskReg) : (c.setF i v).stageId = c.stageId := by
  unfold Core.setF; split <;> rfl
@[simp] theorem setF_entries (c : Core) (i : MReg) (v : MaskReg) : (c.setF i v).entries = c.entries := by
  unfold Core.setF; split <;> rfl
@[simp] theorem setF_streams (c : Core) (i : MReg) (v : MaskReg) : (c.setF i v).streams = c.streams := by
  unfold Core.setF; split <;> rfl
@[simp] theorem setF_teamCount (c : Core) (i : MReg) (v : MaskReg) : (c.setF i v).teamCount = c.teamCount := by
  unfold Core.setF; split <;> rfl
@[simp] theorem setF_mredBanks (c : Core) (i : MReg) (v : MaskReg) : (c.setF i v).mredBanks = c.mredBanks := by
  unfold Core.setF; split <;> rfl
@[simp] theorem setF_chan (c : Core) (i : MReg) (v : MaskReg) : (c.setF i v).chan = c.chan := by
  unfold Core.setF; split <;> rfl
@[simp] theorem setF_idScopes (c : Core) (i : MReg) (v : MaskReg) : (c.setF i v).idScopes = c.idScopes := by
  unfold Core.setF; split <;> rfl
@[simp] theorem setF_merge (c : Core) (i : MReg) (v : MaskReg) : (c.setF i v).merge = c.merge := by
  unfold Core.setF; split <;> rfl
@[simp] theorem setF_walks (c : Core) (i : MReg) (v : MaskReg) : (c.setF i v).walks = c.walks := by
  unfold Core.setF; split <;> rfl
@[simp] theorem setF_flagged (c : Core) (i : MReg) (v : MaskReg) : (c.setF i v).flagged = c.flagged := by
  unfold Core.setF; split <;> rfl
@[simp] theorem setF_uiReady (c : Core) (i : MReg) (v : MaskReg) : (c.setF i v).uiReady = c.uiReady := by
  unfold Core.setF; split <;> rfl
@[simp] theorem setF_yieldAt (c : Core) (i : MReg) (v : MaskReg) : (c.setF i v).yieldAt = c.yieldAt := by
  unfold Core.setF; split <;> rfl
@[simp] theorem setF_tx (c : Core) (i : MReg) (v : MaskReg) : (c.setF i v).tx = c.tx := by
  unfold Core.setF; split <;> rfl
@[simp] theorem setF_frame (c : Core) (i : MReg) (v : MaskReg) : (c.setF i v).frame = c.frame := by
  unfold Core.setF; split <;> rfl
@[simp] theorem setF_rmstats (c : Core) (i : MReg) (v : MaskReg) : (c.setF i v).rmstats = c.rmstats := by
  unfold Core.setF; split <;> rfl
@[simp] theorem setF_granules (c : Core) (i : MReg) (v : MaskReg) : (c.setF i v).granules = c.granules := by
  unfold Core.setF; split <;> rfl
@[simp] theorem setF_escScopes (c : Core) (i : MReg) (v : MaskReg) : (c.setF i v).escScopes = c.escScopes := by
  unfold Core.setF; split <;> rfl
@[simp] theorem setF_gathers (c : Core) (i : MReg) (v : MaskReg) : (c.setF i v).gathers = c.gathers := by
  unfold Core.setF; split <;> rfl
@[simp] theorem setF_landings (c : Core) (i : MReg) (v : MaskReg) : (c.setF i v).landings = c.landings := by
  unfold Core.setF; split <;> rfl

/-! ## Core.setBank -/

@[simp] theorem setBank_who (c : Core) (a : Acc) (b : Bank) : (c.setBank a b).who = c.who := rfl
@[simp] theorem setBank_run (c : Core) (a : Acc) (b : Bank) : (c.setBank a b).run = c.run := rfl
@[simp] theorem setBank_pc (c : Core) (a : Acc) (b : Bank) : (c.setBank a b).pc = c.pc := rfl
@[simp] theorem setBank_nextPc (c : Core) (a : Acc) (b : Bank) : (c.setBank a b).nextPc = c.nextPc := rfl
@[simp] theorem setBank_csr (c : Core) (a : Acc) (b : Bank) : (c.setBank a b).csr = c.csr := rfl
@[simp] theorem setBank_gens (c : Core) (a : Acc) (b : Bank) : (c.setBank a b).gens = c.gens := rfl
@[simp] theorem setBank_task (c : Core) (a : Acc) (b : Bank) : (c.setBank a b).task = c.task := rfl
@[simp] theorem setBank_scratch (c : Core) (a : Acc) (b : Bank) : (c.setBank a b).scratch = c.scratch := rfl
@[simp] theorem setBank_fetched (c : Core) (a : Acc) (b : Bank) : (c.setBank a b).fetched = c.fetched := rfl
@[simp] theorem setBank_leases (c : Core) (a : Acc) (b : Bank) : (c.setBank a b).leases = c.leases := rfl
@[simp] theorem setBank_locks (c : Core) (a : Acc) (b : Bank) : (c.setBank a b).locks = c.locks := rfl
@[simp] theorem setBank_slotLocks (c : Core) (a : Acc) (b : Bank) : (c.setBank a b).slotLocks = c.slotLocks := rfl
@[simp] theorem setBank_stalling (c : Core) (a : Acc) (b : Bank) : (c.setBank a b).stalling = c.stalling := rfl
@[simp] theorem setBank_stallCounted (c : Core) (a : Acc) (b : Bank) : (c.setBank a b).stallCounted = c.stallCounted := rfl
@[simp] theorem setBank_stageId (c : Core) (a : Acc) (b : Bank) : (c.setBank a b).stageId = c.stageId := rfl
@[simp] theorem setBank_entries (c : Core) (a : Acc) (b : Bank) : (c.setBank a b).entries = c.entries := rfl
@[simp] theorem setBank_streams (c : Core) (a : Acc) (b : Bank) : (c.setBank a b).streams = c.streams := rfl
@[simp] theorem setBank_teamCount (c : Core) (a : Acc) (b : Bank) : (c.setBank a b).teamCount = c.teamCount := rfl
@[simp] theorem setBank_mredBanks (c : Core) (a : Acc) (b : Bank) : (c.setBank a b).mredBanks = c.mredBanks := rfl
@[simp] theorem setBank_chan (c : Core) (a : Acc) (b : Bank) : (c.setBank a b).chan = c.chan := rfl
@[simp] theorem setBank_idScopes (c : Core) (a : Acc) (b : Bank) : (c.setBank a b).idScopes = c.idScopes := rfl
@[simp] theorem setBank_merge (c : Core) (a : Acc) (b : Bank) : (c.setBank a b).merge = c.merge := rfl
@[simp] theorem setBank_walks (c : Core) (a : Acc) (b : Bank) : (c.setBank a b).walks = c.walks := rfl
@[simp] theorem setBank_flagged (c : Core) (a : Acc) (b : Bank) : (c.setBank a b).flagged = c.flagged := rfl
@[simp] theorem setBank_uiReady (c : Core) (a : Acc) (b : Bank) : (c.setBank a b).uiReady = c.uiReady := rfl
@[simp] theorem setBank_yieldAt (c : Core) (a : Acc) (b : Bank) : (c.setBank a b).yieldAt = c.yieldAt := rfl
@[simp] theorem setBank_tx (c : Core) (a : Acc) (b : Bank) : (c.setBank a b).tx = c.tx := rfl
@[simp] theorem setBank_frame (c : Core) (a : Acc) (b : Bank) : (c.setBank a b).frame = c.frame := rfl
@[simp] theorem setBank_rmstats (c : Core) (a : Acc) (b : Bank) : (c.setBank a b).rmstats = c.rmstats := rfl
@[simp] theorem setBank_granules (c : Core) (a : Acc) (b : Bank) : (c.setBank a b).granules = c.granules := rfl
@[simp] theorem setBank_escScopes (c : Core) (a : Acc) (b : Bank) : (c.setBank a b).escScopes = c.escScopes := rfl
@[simp] theorem setBank_gathers (c : Core) (a : Acc) (b : Bank) : (c.setBank a b).gathers = c.gathers := rfl
@[simp] theorem setBank_landings (c : Core) (a : Acc) (b : Bank) : (c.setBank a b).landings = c.landings := rfl

/-! ## Core.setSv -/

@[simp] theorem setSv_who (c : Core) (i : Fin 32) (v : Word) : (c.setSv i v).who = c.who := rfl
@[simp] theorem setSv_run (c : Core) (i : Fin 32) (v : Word) : (c.setSv i v).run = c.run := rfl
@[simp] theorem setSv_pc (c : Core) (i : Fin 32) (v : Word) : (c.setSv i v).pc = c.pc := rfl
@[simp] theorem setSv_nextPc (c : Core) (i : Fin 32) (v : Word) : (c.setSv i v).nextPc = c.nextPc := rfl
@[simp] theorem setSv_csr (c : Core) (i : Fin 32) (v : Word) : (c.setSv i v).csr = c.csr := rfl
@[simp] theorem setSv_gens (c : Core) (i : Fin 32) (v : Word) : (c.setSv i v).gens = c.gens := rfl
@[simp] theorem setSv_task (c : Core) (i : Fin 32) (v : Word) : (c.setSv i v).task = c.task := rfl
@[simp] theorem setSv_scratch (c : Core) (i : Fin 32) (v : Word) : (c.setSv i v).scratch = c.scratch := rfl
@[simp] theorem setSv_fetched (c : Core) (i : Fin 32) (v : Word) : (c.setSv i v).fetched = c.fetched := rfl
@[simp] theorem setSv_leases (c : Core) (i : Fin 32) (v : Word) : (c.setSv i v).leases = c.leases := rfl
@[simp] theorem setSv_locks (c : Core) (i : Fin 32) (v : Word) : (c.setSv i v).locks = c.locks := rfl
@[simp] theorem setSv_slotLocks (c : Core) (i : Fin 32) (v : Word) : (c.setSv i v).slotLocks = c.slotLocks := rfl
@[simp] theorem setSv_stalling (c : Core) (i : Fin 32) (v : Word) : (c.setSv i v).stalling = c.stalling := rfl
@[simp] theorem setSv_stallCounted (c : Core) (i : Fin 32) (v : Word) : (c.setSv i v).stallCounted = c.stallCounted := rfl
@[simp] theorem setSv_stageId (c : Core) (i : Fin 32) (v : Word) : (c.setSv i v).stageId = c.stageId := rfl
@[simp] theorem setSv_entries (c : Core) (i : Fin 32) (v : Word) : (c.setSv i v).entries = c.entries := rfl
@[simp] theorem setSv_streams (c : Core) (i : Fin 32) (v : Word) : (c.setSv i v).streams = c.streams := rfl
@[simp] theorem setSv_teamCount (c : Core) (i : Fin 32) (v : Word) : (c.setSv i v).teamCount = c.teamCount := rfl
@[simp] theorem setSv_mredBanks (c : Core) (i : Fin 32) (v : Word) : (c.setSv i v).mredBanks = c.mredBanks := rfl
@[simp] theorem setSv_chan (c : Core) (i : Fin 32) (v : Word) : (c.setSv i v).chan = c.chan := rfl
@[simp] theorem setSv_idScopes (c : Core) (i : Fin 32) (v : Word) : (c.setSv i v).idScopes = c.idScopes := rfl
@[simp] theorem setSv_merge (c : Core) (i : Fin 32) (v : Word) : (c.setSv i v).merge = c.merge := rfl
@[simp] theorem setSv_walks (c : Core) (i : Fin 32) (v : Word) : (c.setSv i v).walks = c.walks := rfl
@[simp] theorem setSv_flagged (c : Core) (i : Fin 32) (v : Word) : (c.setSv i v).flagged = c.flagged := rfl
@[simp] theorem setSv_uiReady (c : Core) (i : Fin 32) (v : Word) : (c.setSv i v).uiReady = c.uiReady := rfl
@[simp] theorem setSv_yieldAt (c : Core) (i : Fin 32) (v : Word) : (c.setSv i v).yieldAt = c.yieldAt := rfl
@[simp] theorem setSv_tx (c : Core) (i : Fin 32) (v : Word) : (c.setSv i v).tx = c.tx := rfl
@[simp] theorem setSv_frame (c : Core) (i : Fin 32) (v : Word) : (c.setSv i v).frame = c.frame := rfl
@[simp] theorem setSv_rmstats (c : Core) (i : Fin 32) (v : Word) : (c.setSv i v).rmstats = c.rmstats := rfl
@[simp] theorem setSv_granules (c : Core) (i : Fin 32) (v : Word) : (c.setSv i v).granules = c.granules := rfl
@[simp] theorem setSv_escScopes (c : Core) (i : Fin 32) (v : Word) : (c.setSv i v).escScopes = c.escScopes := rfl
@[simp] theorem setSv_gathers (c : Core) (i : Fin 32) (v : Word) : (c.setSv i v).gathers = c.gathers := rfl
@[simp] theorem setSv_landings (c : Core) (i : Fin 32) (v : Word) : (c.setSv i v).landings = c.landings := rfl

/-! ## Core.lease -/

@[simp] theorem lease_who (c : Core) (r : LeaseReg) (n : Nat) (o : Option Nat) : (c.lease r n o).who = c.who := rfl
@[simp] theorem lease_run (c : Core) (r : LeaseReg) (n : Nat) (o : Option Nat) : (c.lease r n o).run = c.run := rfl
@[simp] theorem lease_pc (c : Core) (r : LeaseReg) (n : Nat) (o : Option Nat) : (c.lease r n o).pc = c.pc := rfl
@[simp] theorem lease_nextPc (c : Core) (r : LeaseReg) (n : Nat) (o : Option Nat) : (c.lease r n o).nextPc = c.nextPc := rfl
@[simp] theorem lease_regs (c : Core) (r : LeaseReg) (n : Nat) (o : Option Nat) : (c.lease r n o).regs = c.regs := rfl
@[simp] theorem lease_csr (c : Core) (r : LeaseReg) (n : Nat) (o : Option Nat) : (c.lease r n o).csr = c.csr := rfl
@[simp] theorem lease_gens (c : Core) (r : LeaseReg) (n : Nat) (o : Option Nat) : (c.lease r n o).gens = c.gens := rfl
@[simp] theorem lease_task (c : Core) (r : LeaseReg) (n : Nat) (o : Option Nat) : (c.lease r n o).task = c.task := rfl
@[simp] theorem lease_scratch (c : Core) (r : LeaseReg) (n : Nat) (o : Option Nat) : (c.lease r n o).scratch = c.scratch := rfl
@[simp] theorem lease_fetched (c : Core) (r : LeaseReg) (n : Nat) (o : Option Nat) : (c.lease r n o).fetched = c.fetched := rfl
@[simp] theorem lease_locks (c : Core) (r : LeaseReg) (n : Nat) (o : Option Nat) : (c.lease r n o).locks = c.locks := rfl
@[simp] theorem lease_slotLocks (c : Core) (r : LeaseReg) (n : Nat) (o : Option Nat) : (c.lease r n o).slotLocks = c.slotLocks := rfl
@[simp] theorem lease_stalling (c : Core) (r : LeaseReg) (n : Nat) (o : Option Nat) : (c.lease r n o).stalling = c.stalling := rfl
@[simp] theorem lease_stallCounted (c : Core) (r : LeaseReg) (n : Nat) (o : Option Nat) : (c.lease r n o).stallCounted = c.stallCounted := rfl
@[simp] theorem lease_stageId (c : Core) (r : LeaseReg) (n : Nat) (o : Option Nat) : (c.lease r n o).stageId = c.stageId := rfl
@[simp] theorem lease_entries (c : Core) (r : LeaseReg) (n : Nat) (o : Option Nat) : (c.lease r n o).entries = c.entries := rfl
@[simp] theorem lease_streams (c : Core) (r : LeaseReg) (n : Nat) (o : Option Nat) : (c.lease r n o).streams = c.streams := rfl
@[simp] theorem lease_teamCount (c : Core) (r : LeaseReg) (n : Nat) (o : Option Nat) : (c.lease r n o).teamCount = c.teamCount := rfl
@[simp] theorem lease_mredBanks (c : Core) (r : LeaseReg) (n : Nat) (o : Option Nat) : (c.lease r n o).mredBanks = c.mredBanks := rfl
@[simp] theorem lease_chan (c : Core) (r : LeaseReg) (n : Nat) (o : Option Nat) : (c.lease r n o).chan = c.chan := rfl
@[simp] theorem lease_idScopes (c : Core) (r : LeaseReg) (n : Nat) (o : Option Nat) : (c.lease r n o).idScopes = c.idScopes := rfl
@[simp] theorem lease_merge (c : Core) (r : LeaseReg) (n : Nat) (o : Option Nat) : (c.lease r n o).merge = c.merge := rfl
@[simp] theorem lease_walks (c : Core) (r : LeaseReg) (n : Nat) (o : Option Nat) : (c.lease r n o).walks = c.walks := rfl
@[simp] theorem lease_flagged (c : Core) (r : LeaseReg) (n : Nat) (o : Option Nat) : (c.lease r n o).flagged = c.flagged := rfl
@[simp] theorem lease_uiReady (c : Core) (r : LeaseReg) (n : Nat) (o : Option Nat) : (c.lease r n o).uiReady = c.uiReady := rfl
@[simp] theorem lease_yieldAt (c : Core) (r : LeaseReg) (n : Nat) (o : Option Nat) : (c.lease r n o).yieldAt = c.yieldAt := rfl
@[simp] theorem lease_tx (c : Core) (r : LeaseReg) (n : Nat) (o : Option Nat) : (c.lease r n o).tx = c.tx := rfl
@[simp] theorem lease_frame (c : Core) (r : LeaseReg) (n : Nat) (o : Option Nat) : (c.lease r n o).frame = c.frame := rfl
@[simp] theorem lease_rmstats (c : Core) (r : LeaseReg) (n : Nat) (o : Option Nat) : (c.lease r n o).rmstats = c.rmstats := rfl
@[simp] theorem lease_granules (c : Core) (r : LeaseReg) (n : Nat) (o : Option Nat) : (c.lease r n o).granules = c.granules := rfl
@[simp] theorem lease_escScopes (c : Core) (r : LeaseReg) (n : Nat) (o : Option Nat) : (c.lease r n o).escScopes = c.escScopes := rfl
@[simp] theorem lease_gathers (c : Core) (r : LeaseReg) (n : Nat) (o : Option Nat) : (c.lease r n o).gathers = c.gathers := rfl
@[simp] theorem lease_landings (c : Core) (r : LeaseReg) (n : Nat) (o : Option Nat) : (c.lease r n o).landings = c.landings := rfl

/-! ## Core.endLease -/

@[simp] theorem endLease_who (c : Core) (n : Nat) : (c.endLease n).who = c.who := rfl
@[simp] theorem endLease_run (c : Core) (n : Nat) : (c.endLease n).run = c.run := rfl
@[simp] theorem endLease_pc (c : Core) (n : Nat) : (c.endLease n).pc = c.pc := rfl
@[simp] theorem endLease_nextPc (c : Core) (n : Nat) : (c.endLease n).nextPc = c.nextPc := rfl
@[simp] theorem endLease_regs (c : Core) (n : Nat) : (c.endLease n).regs = c.regs := rfl
@[simp] theorem endLease_csr (c : Core) (n : Nat) : (c.endLease n).csr = c.csr := rfl
@[simp] theorem endLease_gens (c : Core) (n : Nat) : (c.endLease n).gens = c.gens := rfl
@[simp] theorem endLease_task (c : Core) (n : Nat) : (c.endLease n).task = c.task := rfl
@[simp] theorem endLease_scratch (c : Core) (n : Nat) : (c.endLease n).scratch = c.scratch := rfl
@[simp] theorem endLease_fetched (c : Core) (n : Nat) : (c.endLease n).fetched = c.fetched := rfl
@[simp] theorem endLease_locks (c : Core) (n : Nat) : (c.endLease n).locks = c.locks := rfl
@[simp] theorem endLease_slotLocks (c : Core) (n : Nat) : (c.endLease n).slotLocks = c.slotLocks := rfl
@[simp] theorem endLease_stalling (c : Core) (n : Nat) : (c.endLease n).stalling = c.stalling := rfl
@[simp] theorem endLease_stallCounted (c : Core) (n : Nat) : (c.endLease n).stallCounted = c.stallCounted := rfl
@[simp] theorem endLease_stageId (c : Core) (n : Nat) : (c.endLease n).stageId = c.stageId := rfl
@[simp] theorem endLease_entries (c : Core) (n : Nat) : (c.endLease n).entries = c.entries := rfl
@[simp] theorem endLease_streams (c : Core) (n : Nat) : (c.endLease n).streams = c.streams := rfl
@[simp] theorem endLease_teamCount (c : Core) (n : Nat) : (c.endLease n).teamCount = c.teamCount := rfl
@[simp] theorem endLease_mredBanks (c : Core) (n : Nat) : (c.endLease n).mredBanks = c.mredBanks := rfl
@[simp] theorem endLease_chan (c : Core) (n : Nat) : (c.endLease n).chan = c.chan := rfl
@[simp] theorem endLease_idScopes (c : Core) (n : Nat) : (c.endLease n).idScopes = c.idScopes := rfl
@[simp] theorem endLease_merge (c : Core) (n : Nat) : (c.endLease n).merge = c.merge := rfl
@[simp] theorem endLease_walks (c : Core) (n : Nat) : (c.endLease n).walks = c.walks := rfl
@[simp] theorem endLease_flagged (c : Core) (n : Nat) : (c.endLease n).flagged = c.flagged := rfl
@[simp] theorem endLease_uiReady (c : Core) (n : Nat) : (c.endLease n).uiReady = c.uiReady := rfl
@[simp] theorem endLease_yieldAt (c : Core) (n : Nat) : (c.endLease n).yieldAt = c.yieldAt := rfl
@[simp] theorem endLease_tx (c : Core) (n : Nat) : (c.endLease n).tx = c.tx := rfl
@[simp] theorem endLease_frame (c : Core) (n : Nat) : (c.endLease n).frame = c.frame := rfl
@[simp] theorem endLease_rmstats (c : Core) (n : Nat) : (c.endLease n).rmstats = c.rmstats := rfl
@[simp] theorem endLease_granules (c : Core) (n : Nat) : (c.endLease n).granules = c.granules := rfl
@[simp] theorem endLease_escScopes (c : Core) (n : Nat) : (c.endLease n).escScopes = c.escScopes := rfl
@[simp] theorem endLease_gathers (c : Core) (n : Nat) : (c.endLease n).gathers = c.gathers := rfl
@[simp] theorem endLease_landings (c : Core) (n : Nat) : (c.endLease n).landings = c.landings := rfl

/-! ## Core.dropEntry -/

@[simp] theorem dropEntry_who (c : Core) (n : Nat) : (c.dropEntry n).who = c.who := rfl
@[simp] theorem dropEntry_run (c : Core) (n : Nat) : (c.dropEntry n).run = c.run := rfl
@[simp] theorem dropEntry_pc (c : Core) (n : Nat) : (c.dropEntry n).pc = c.pc := rfl
@[simp] theorem dropEntry_nextPc (c : Core) (n : Nat) : (c.dropEntry n).nextPc = c.nextPc := rfl
@[simp] theorem dropEntry_regs (c : Core) (n : Nat) : (c.dropEntry n).regs = c.regs := rfl
@[simp] theorem dropEntry_csr (c : Core) (n : Nat) : (c.dropEntry n).csr = c.csr := rfl
@[simp] theorem dropEntry_gens (c : Core) (n : Nat) : (c.dropEntry n).gens = c.gens := rfl
@[simp] theorem dropEntry_task (c : Core) (n : Nat) : (c.dropEntry n).task = c.task := rfl
@[simp] theorem dropEntry_scratch (c : Core) (n : Nat) : (c.dropEntry n).scratch = c.scratch := rfl
@[simp] theorem dropEntry_fetched (c : Core) (n : Nat) : (c.dropEntry n).fetched = c.fetched := rfl
@[simp] theorem dropEntry_leases (c : Core) (n : Nat) : (c.dropEntry n).leases = c.leases := rfl
@[simp] theorem dropEntry_locks (c : Core) (n : Nat) : (c.dropEntry n).locks = c.locks := rfl
@[simp] theorem dropEntry_slotLocks (c : Core) (n : Nat) : (c.dropEntry n).slotLocks = c.slotLocks := rfl
@[simp] theorem dropEntry_stalling (c : Core) (n : Nat) : (c.dropEntry n).stalling = c.stalling := rfl
@[simp] theorem dropEntry_stallCounted (c : Core) (n : Nat) : (c.dropEntry n).stallCounted = c.stallCounted := rfl
@[simp] theorem dropEntry_stageId (c : Core) (n : Nat) : (c.dropEntry n).stageId = c.stageId := rfl
@[simp] theorem dropEntry_streams (c : Core) (n : Nat) : (c.dropEntry n).streams = c.streams := rfl
@[simp] theorem dropEntry_teamCount (c : Core) (n : Nat) : (c.dropEntry n).teamCount = c.teamCount := rfl
@[simp] theorem dropEntry_mredBanks (c : Core) (n : Nat) : (c.dropEntry n).mredBanks = c.mredBanks := rfl
@[simp] theorem dropEntry_chan (c : Core) (n : Nat) : (c.dropEntry n).chan = c.chan := rfl
@[simp] theorem dropEntry_idScopes (c : Core) (n : Nat) : (c.dropEntry n).idScopes = c.idScopes := rfl
@[simp] theorem dropEntry_merge (c : Core) (n : Nat) : (c.dropEntry n).merge = c.merge := rfl
@[simp] theorem dropEntry_walks (c : Core) (n : Nat) : (c.dropEntry n).walks = c.walks := rfl
@[simp] theorem dropEntry_flagged (c : Core) (n : Nat) : (c.dropEntry n).flagged = c.flagged := rfl
@[simp] theorem dropEntry_uiReady (c : Core) (n : Nat) : (c.dropEntry n).uiReady = c.uiReady := rfl
@[simp] theorem dropEntry_yieldAt (c : Core) (n : Nat) : (c.dropEntry n).yieldAt = c.yieldAt := rfl
@[simp] theorem dropEntry_tx (c : Core) (n : Nat) : (c.dropEntry n).tx = c.tx := rfl
@[simp] theorem dropEntry_frame (c : Core) (n : Nat) : (c.dropEntry n).frame = c.frame := rfl
@[simp] theorem dropEntry_rmstats (c : Core) (n : Nat) : (c.dropEntry n).rmstats = c.rmstats := rfl
@[simp] theorem dropEntry_granules (c : Core) (n : Nat) : (c.dropEntry n).granules = c.granules := rfl
@[simp] theorem dropEntry_escScopes (c : Core) (n : Nat) : (c.dropEntry n).escScopes = c.escScopes := rfl
@[simp] theorem dropEntry_gathers (c : Core) (n : Nat) : (c.dropEntry n).gathers = c.gathers := rfl
@[simp] theorem dropEntry_landings (c : Core) (n : Nat) : (c.dropEntry n).landings = c.landings := rfl

/-! ## Core.putEntry -/

@[simp] theorem putEntry_who (c : Core) (e : Entry) : (c.putEntry e).who = c.who := rfl
@[simp] theorem putEntry_run (c : Core) (e : Entry) : (c.putEntry e).run = c.run := rfl
@[simp] theorem putEntry_pc (c : Core) (e : Entry) : (c.putEntry e).pc = c.pc := rfl
@[simp] theorem putEntry_nextPc (c : Core) (e : Entry) : (c.putEntry e).nextPc = c.nextPc := rfl
@[simp] theorem putEntry_regs (c : Core) (e : Entry) : (c.putEntry e).regs = c.regs := rfl
@[simp] theorem putEntry_csr (c : Core) (e : Entry) : (c.putEntry e).csr = c.csr := rfl
@[simp] theorem putEntry_gens (c : Core) (e : Entry) : (c.putEntry e).gens = c.gens := rfl
@[simp] theorem putEntry_task (c : Core) (e : Entry) : (c.putEntry e).task = c.task := rfl
@[simp] theorem putEntry_scratch (c : Core) (e : Entry) : (c.putEntry e).scratch = c.scratch := rfl
@[simp] theorem putEntry_fetched (c : Core) (e : Entry) : (c.putEntry e).fetched = c.fetched := rfl
@[simp] theorem putEntry_leases (c : Core) (e : Entry) : (c.putEntry e).leases = c.leases := rfl
@[simp] theorem putEntry_locks (c : Core) (e : Entry) : (c.putEntry e).locks = c.locks := rfl
@[simp] theorem putEntry_slotLocks (c : Core) (e : Entry) : (c.putEntry e).slotLocks = c.slotLocks := rfl
@[simp] theorem putEntry_stalling (c : Core) (e : Entry) : (c.putEntry e).stalling = c.stalling := rfl
@[simp] theorem putEntry_stallCounted (c : Core) (e : Entry) : (c.putEntry e).stallCounted = c.stallCounted := rfl
@[simp] theorem putEntry_stageId (c : Core) (e : Entry) : (c.putEntry e).stageId = c.stageId := rfl
@[simp] theorem putEntry_streams (c : Core) (e : Entry) : (c.putEntry e).streams = c.streams := rfl
@[simp] theorem putEntry_teamCount (c : Core) (e : Entry) : (c.putEntry e).teamCount = c.teamCount := rfl
@[simp] theorem putEntry_mredBanks (c : Core) (e : Entry) : (c.putEntry e).mredBanks = c.mredBanks := rfl
@[simp] theorem putEntry_chan (c : Core) (e : Entry) : (c.putEntry e).chan = c.chan := rfl
@[simp] theorem putEntry_idScopes (c : Core) (e : Entry) : (c.putEntry e).idScopes = c.idScopes := rfl
@[simp] theorem putEntry_merge (c : Core) (e : Entry) : (c.putEntry e).merge = c.merge := rfl
@[simp] theorem putEntry_walks (c : Core) (e : Entry) : (c.putEntry e).walks = c.walks := rfl
@[simp] theorem putEntry_flagged (c : Core) (e : Entry) : (c.putEntry e).flagged = c.flagged := rfl
@[simp] theorem putEntry_uiReady (c : Core) (e : Entry) : (c.putEntry e).uiReady = c.uiReady := rfl
@[simp] theorem putEntry_yieldAt (c : Core) (e : Entry) : (c.putEntry e).yieldAt = c.yieldAt := rfl
@[simp] theorem putEntry_tx (c : Core) (e : Entry) : (c.putEntry e).tx = c.tx := rfl
@[simp] theorem putEntry_frame (c : Core) (e : Entry) : (c.putEntry e).frame = c.frame := rfl
@[simp] theorem putEntry_rmstats (c : Core) (e : Entry) : (c.putEntry e).rmstats = c.rmstats := rfl
@[simp] theorem putEntry_granules (c : Core) (e : Entry) : (c.putEntry e).granules = c.granules := rfl
@[simp] theorem putEntry_escScopes (c : Core) (e : Entry) : (c.putEntry e).escScopes = c.escScopes := rfl
@[simp] theorem putEntry_gathers (c : Core) (e : Entry) : (c.putEntry e).gathers = c.gathers := rfl
@[simp] theorem putEntry_landings (c : Core) (e : Entry) : (c.putEntry e).landings = c.landings := rfl

/-! ## Core.addLocks -/

@[simp] theorem addLocks_who (c : Core) (n : Nat) (ps : List Span) : (c.addLocks n ps).who = c.who := rfl
@[simp] theorem addLocks_run (c : Core) (n : Nat) (ps : List Span) : (c.addLocks n ps).run = c.run := rfl
@[simp] theorem addLocks_pc (c : Core) (n : Nat) (ps : List Span) : (c.addLocks n ps).pc = c.pc := rfl
@[simp] theorem addLocks_nextPc (c : Core) (n : Nat) (ps : List Span) : (c.addLocks n ps).nextPc = c.nextPc := rfl
@[simp] theorem addLocks_regs (c : Core) (n : Nat) (ps : List Span) : (c.addLocks n ps).regs = c.regs := rfl
@[simp] theorem addLocks_gens (c : Core) (n : Nat) (ps : List Span) : (c.addLocks n ps).gens = c.gens := rfl
@[simp] theorem addLocks_task (c : Core) (n : Nat) (ps : List Span) : (c.addLocks n ps).task = c.task := rfl
@[simp] theorem addLocks_scratch (c : Core) (n : Nat) (ps : List Span) : (c.addLocks n ps).scratch = c.scratch := rfl
@[simp] theorem addLocks_fetched (c : Core) (n : Nat) (ps : List Span) : (c.addLocks n ps).fetched = c.fetched := rfl
@[simp] theorem addLocks_leases (c : Core) (n : Nat) (ps : List Span) : (c.addLocks n ps).leases = c.leases := rfl
@[simp] theorem addLocks_slotLocks (c : Core) (n : Nat) (ps : List Span) : (c.addLocks n ps).slotLocks = c.slotLocks := rfl
@[simp] theorem addLocks_stalling (c : Core) (n : Nat) (ps : List Span) : (c.addLocks n ps).stalling = c.stalling := rfl
@[simp] theorem addLocks_stallCounted (c : Core) (n : Nat) (ps : List Span) : (c.addLocks n ps).stallCounted = c.stallCounted := rfl
@[simp] theorem addLocks_stageId (c : Core) (n : Nat) (ps : List Span) : (c.addLocks n ps).stageId = c.stageId := rfl
@[simp] theorem addLocks_entries (c : Core) (n : Nat) (ps : List Span) : (c.addLocks n ps).entries = c.entries := rfl
@[simp] theorem addLocks_streams (c : Core) (n : Nat) (ps : List Span) : (c.addLocks n ps).streams = c.streams := rfl
@[simp] theorem addLocks_teamCount (c : Core) (n : Nat) (ps : List Span) : (c.addLocks n ps).teamCount = c.teamCount := rfl
@[simp] theorem addLocks_mredBanks (c : Core) (n : Nat) (ps : List Span) : (c.addLocks n ps).mredBanks = c.mredBanks := rfl
@[simp] theorem addLocks_chan (c : Core) (n : Nat) (ps : List Span) : (c.addLocks n ps).chan = c.chan := rfl
@[simp] theorem addLocks_idScopes (c : Core) (n : Nat) (ps : List Span) : (c.addLocks n ps).idScopes = c.idScopes := rfl
@[simp] theorem addLocks_merge (c : Core) (n : Nat) (ps : List Span) : (c.addLocks n ps).merge = c.merge := rfl
@[simp] theorem addLocks_walks (c : Core) (n : Nat) (ps : List Span) : (c.addLocks n ps).walks = c.walks := rfl
@[simp] theorem addLocks_flagged (c : Core) (n : Nat) (ps : List Span) : (c.addLocks n ps).flagged = c.flagged := rfl
@[simp] theorem addLocks_uiReady (c : Core) (n : Nat) (ps : List Span) : (c.addLocks n ps).uiReady = c.uiReady := rfl
@[simp] theorem addLocks_yieldAt (c : Core) (n : Nat) (ps : List Span) : (c.addLocks n ps).yieldAt = c.yieldAt := rfl
@[simp] theorem addLocks_tx (c : Core) (n : Nat) (ps : List Span) : (c.addLocks n ps).tx = c.tx := rfl
@[simp] theorem addLocks_frame (c : Core) (n : Nat) (ps : List Span) : (c.addLocks n ps).frame = c.frame := rfl
@[simp] theorem addLocks_rmstats (c : Core) (n : Nat) (ps : List Span) : (c.addLocks n ps).rmstats = c.rmstats := rfl
@[simp] theorem addLocks_granules (c : Core) (n : Nat) (ps : List Span) : (c.addLocks n ps).granules = c.granules := rfl
@[simp] theorem addLocks_escScopes (c : Core) (n : Nat) (ps : List Span) : (c.addLocks n ps).escScopes = c.escScopes := rfl
@[simp] theorem addLocks_gathers (c : Core) (n : Nat) (ps : List Span) : (c.addLocks n ps).gathers = c.gathers := rfl
@[simp] theorem addLocks_landings (c : Core) (n : Nat) (ps : List Span) : (c.addLocks n ps).landings = c.landings := rfl

/-! ## Core.freeLocks -/

@[simp] theorem freeLocks_who (c : Core) (n : Nat) : (c.freeLocks n).who = c.who := rfl
@[simp] theorem freeLocks_run (c : Core) (n : Nat) : (c.freeLocks n).run = c.run := rfl
@[simp] theorem freeLocks_pc (c : Core) (n : Nat) : (c.freeLocks n).pc = c.pc := rfl
@[simp] theorem freeLocks_nextPc (c : Core) (n : Nat) : (c.freeLocks n).nextPc = c.nextPc := rfl
@[simp] theorem freeLocks_regs (c : Core) (n : Nat) : (c.freeLocks n).regs = c.regs := rfl
@[simp] theorem freeLocks_csr (c : Core) (n : Nat) : (c.freeLocks n).csr = c.csr := rfl
@[simp] theorem freeLocks_gens (c : Core) (n : Nat) : (c.freeLocks n).gens = c.gens := rfl
@[simp] theorem freeLocks_task (c : Core) (n : Nat) : (c.freeLocks n).task = c.task := rfl
@[simp] theorem freeLocks_scratch (c : Core) (n : Nat) : (c.freeLocks n).scratch = c.scratch := rfl
@[simp] theorem freeLocks_fetched (c : Core) (n : Nat) : (c.freeLocks n).fetched = c.fetched := rfl
@[simp] theorem freeLocks_leases (c : Core) (n : Nat) : (c.freeLocks n).leases = c.leases := rfl
@[simp] theorem freeLocks_slotLocks (c : Core) (n : Nat) : (c.freeLocks n).slotLocks = c.slotLocks := rfl
@[simp] theorem freeLocks_stalling (c : Core) (n : Nat) : (c.freeLocks n).stalling = c.stalling := rfl
@[simp] theorem freeLocks_stallCounted (c : Core) (n : Nat) : (c.freeLocks n).stallCounted = c.stallCounted := rfl
@[simp] theorem freeLocks_stageId (c : Core) (n : Nat) : (c.freeLocks n).stageId = c.stageId := rfl
@[simp] theorem freeLocks_entries (c : Core) (n : Nat) : (c.freeLocks n).entries = c.entries := rfl
@[simp] theorem freeLocks_streams (c : Core) (n : Nat) : (c.freeLocks n).streams = c.streams := rfl
@[simp] theorem freeLocks_teamCount (c : Core) (n : Nat) : (c.freeLocks n).teamCount = c.teamCount := rfl
@[simp] theorem freeLocks_mredBanks (c : Core) (n : Nat) : (c.freeLocks n).mredBanks = c.mredBanks := rfl
@[simp] theorem freeLocks_chan (c : Core) (n : Nat) : (c.freeLocks n).chan = c.chan := rfl
@[simp] theorem freeLocks_idScopes (c : Core) (n : Nat) : (c.freeLocks n).idScopes = c.idScopes := rfl
@[simp] theorem freeLocks_merge (c : Core) (n : Nat) : (c.freeLocks n).merge = c.merge := rfl
@[simp] theorem freeLocks_walks (c : Core) (n : Nat) : (c.freeLocks n).walks = c.walks := rfl
@[simp] theorem freeLocks_flagged (c : Core) (n : Nat) : (c.freeLocks n).flagged = c.flagged := rfl
@[simp] theorem freeLocks_uiReady (c : Core) (n : Nat) : (c.freeLocks n).uiReady = c.uiReady := rfl
@[simp] theorem freeLocks_yieldAt (c : Core) (n : Nat) : (c.freeLocks n).yieldAt = c.yieldAt := rfl
@[simp] theorem freeLocks_tx (c : Core) (n : Nat) : (c.freeLocks n).tx = c.tx := rfl
@[simp] theorem freeLocks_frame (c : Core) (n : Nat) : (c.freeLocks n).frame = c.frame := rfl
@[simp] theorem freeLocks_rmstats (c : Core) (n : Nat) : (c.freeLocks n).rmstats = c.rmstats := rfl
@[simp] theorem freeLocks_granules (c : Core) (n : Nat) : (c.freeLocks n).granules = c.granules := rfl
@[simp] theorem freeLocks_escScopes (c : Core) (n : Nat) : (c.freeLocks n).escScopes = c.escScopes := rfl
@[simp] theorem freeLocks_gathers (c : Core) (n : Nat) : (c.freeLocks n).gathers = c.gathers := rfl
@[simp] theorem freeLocks_landings (c : Core) (n : Nat) : (c.freeLocks n).landings = c.landings := rfl

/-! ## Core.putEsc -/

@[simp] theorem putEsc_who (c : Core) (e : Nat) (x : Esc) : (c.putEsc e x).who = c.who := rfl
@[simp] theorem putEsc_run (c : Core) (e : Nat) (x : Esc) : (c.putEsc e x).run = c.run := rfl
@[simp] theorem putEsc_pc (c : Core) (e : Nat) (x : Esc) : (c.putEsc e x).pc = c.pc := rfl
@[simp] theorem putEsc_nextPc (c : Core) (e : Nat) (x : Esc) : (c.putEsc e x).nextPc = c.nextPc := rfl
@[simp] theorem putEsc_regs (c : Core) (e : Nat) (x : Esc) : (c.putEsc e x).regs = c.regs := rfl
@[simp] theorem putEsc_csr (c : Core) (e : Nat) (x : Esc) : (c.putEsc e x).csr = c.csr := rfl
@[simp] theorem putEsc_gens (c : Core) (e : Nat) (x : Esc) : (c.putEsc e x).gens = c.gens := rfl
@[simp] theorem putEsc_task (c : Core) (e : Nat) (x : Esc) : (c.putEsc e x).task = c.task := rfl
@[simp] theorem putEsc_fetched (c : Core) (e : Nat) (x : Esc) : (c.putEsc e x).fetched = c.fetched := rfl
@[simp] theorem putEsc_leases (c : Core) (e : Nat) (x : Esc) : (c.putEsc e x).leases = c.leases := rfl
@[simp] theorem putEsc_locks (c : Core) (e : Nat) (x : Esc) : (c.putEsc e x).locks = c.locks := rfl
@[simp] theorem putEsc_slotLocks (c : Core) (e : Nat) (x : Esc) : (c.putEsc e x).slotLocks = c.slotLocks := rfl
@[simp] theorem putEsc_stalling (c : Core) (e : Nat) (x : Esc) : (c.putEsc e x).stalling = c.stalling := rfl
@[simp] theorem putEsc_stallCounted (c : Core) (e : Nat) (x : Esc) : (c.putEsc e x).stallCounted = c.stallCounted := rfl
@[simp] theorem putEsc_stageId (c : Core) (e : Nat) (x : Esc) : (c.putEsc e x).stageId = c.stageId := rfl
@[simp] theorem putEsc_entries (c : Core) (e : Nat) (x : Esc) : (c.putEsc e x).entries = c.entries := rfl
@[simp] theorem putEsc_streams (c : Core) (e : Nat) (x : Esc) : (c.putEsc e x).streams = c.streams := rfl
@[simp] theorem putEsc_teamCount (c : Core) (e : Nat) (x : Esc) : (c.putEsc e x).teamCount = c.teamCount := rfl
@[simp] theorem putEsc_mredBanks (c : Core) (e : Nat) (x : Esc) : (c.putEsc e x).mredBanks = c.mredBanks := rfl
@[simp] theorem putEsc_chan (c : Core) (e : Nat) (x : Esc) : (c.putEsc e x).chan = c.chan := rfl
@[simp] theorem putEsc_idScopes (c : Core) (e : Nat) (x : Esc) : (c.putEsc e x).idScopes = c.idScopes := rfl
@[simp] theorem putEsc_merge (c : Core) (e : Nat) (x : Esc) : (c.putEsc e x).merge = c.merge := rfl
@[simp] theorem putEsc_walks (c : Core) (e : Nat) (x : Esc) : (c.putEsc e x).walks = c.walks := rfl
@[simp] theorem putEsc_flagged (c : Core) (e : Nat) (x : Esc) : (c.putEsc e x).flagged = c.flagged := rfl
@[simp] theorem putEsc_uiReady (c : Core) (e : Nat) (x : Esc) : (c.putEsc e x).uiReady = c.uiReady := rfl
@[simp] theorem putEsc_yieldAt (c : Core) (e : Nat) (x : Esc) : (c.putEsc e x).yieldAt = c.yieldAt := rfl
@[simp] theorem putEsc_tx (c : Core) (e : Nat) (x : Esc) : (c.putEsc e x).tx = c.tx := rfl
@[simp] theorem putEsc_frame (c : Core) (e : Nat) (x : Esc) : (c.putEsc e x).frame = c.frame := rfl
@[simp] theorem putEsc_rmstats (c : Core) (e : Nat) (x : Esc) : (c.putEsc e x).rmstats = c.rmstats := rfl
@[simp] theorem putEsc_granules (c : Core) (e : Nat) (x : Esc) : (c.putEsc e x).granules = c.granules := rfl
@[simp] theorem putEsc_escScopes (c : Core) (e : Nat) (x : Esc) : (c.putEsc e x).escScopes = c.escScopes := rfl
@[simp] theorem putEsc_gathers (c : Core) (e : Nat) (x : Esc) : (c.putEsc e x).gathers = c.gathers := rfl
@[simp] theorem putEsc_landings (c : Core) (e : Nat) (x : Esc) : (c.putEsc e x).landings = c.landings := rfl

/-! ## Core.storeLocal -/

@[simp] theorem storeLocal_who (c : Core) (o : Nat) (bs : List Byte) : (c.storeLocal o bs).who = c.who := rfl
@[simp] theorem storeLocal_run (c : Core) (o : Nat) (bs : List Byte) : (c.storeLocal o bs).run = c.run := rfl
@[simp] theorem storeLocal_pc (c : Core) (o : Nat) (bs : List Byte) : (c.storeLocal o bs).pc = c.pc := rfl
@[simp] theorem storeLocal_nextPc (c : Core) (o : Nat) (bs : List Byte) : (c.storeLocal o bs).nextPc = c.nextPc := rfl
@[simp] theorem storeLocal_regs (c : Core) (o : Nat) (bs : List Byte) : (c.storeLocal o bs).regs = c.regs := rfl
@[simp] theorem storeLocal_csr (c : Core) (o : Nat) (bs : List Byte) : (c.storeLocal o bs).csr = c.csr := rfl
@[simp] theorem storeLocal_gens (c : Core) (o : Nat) (bs : List Byte) : (c.storeLocal o bs).gens = c.gens := rfl
@[simp] theorem storeLocal_task (c : Core) (o : Nat) (bs : List Byte) : (c.storeLocal o bs).task = c.task := rfl
@[simp] theorem storeLocal_fetched (c : Core) (o : Nat) (bs : List Byte) : (c.storeLocal o bs).fetched = c.fetched := rfl
@[simp] theorem storeLocal_leases (c : Core) (o : Nat) (bs : List Byte) : (c.storeLocal o bs).leases = c.leases := rfl
@[simp] theorem storeLocal_locks (c : Core) (o : Nat) (bs : List Byte) : (c.storeLocal o bs).locks = c.locks := rfl
@[simp] theorem storeLocal_slotLocks (c : Core) (o : Nat) (bs : List Byte) : (c.storeLocal o bs).slotLocks = c.slotLocks := rfl
@[simp] theorem storeLocal_stalling (c : Core) (o : Nat) (bs : List Byte) : (c.storeLocal o bs).stalling = c.stalling := rfl
@[simp] theorem storeLocal_stallCounted (c : Core) (o : Nat) (bs : List Byte) : (c.storeLocal o bs).stallCounted = c.stallCounted := rfl
@[simp] theorem storeLocal_stageId (c : Core) (o : Nat) (bs : List Byte) : (c.storeLocal o bs).stageId = c.stageId := rfl
@[simp] theorem storeLocal_entries (c : Core) (o : Nat) (bs : List Byte) : (c.storeLocal o bs).entries = c.entries := rfl
@[simp] theorem storeLocal_streams (c : Core) (o : Nat) (bs : List Byte) : (c.storeLocal o bs).streams = c.streams := rfl
@[simp] theorem storeLocal_teamCount (c : Core) (o : Nat) (bs : List Byte) : (c.storeLocal o bs).teamCount = c.teamCount := rfl
@[simp] theorem storeLocal_mredBanks (c : Core) (o : Nat) (bs : List Byte) : (c.storeLocal o bs).mredBanks = c.mredBanks := rfl
@[simp] theorem storeLocal_chan (c : Core) (o : Nat) (bs : List Byte) : (c.storeLocal o bs).chan = c.chan := rfl
@[simp] theorem storeLocal_idScopes (c : Core) (o : Nat) (bs : List Byte) : (c.storeLocal o bs).idScopes = c.idScopes := rfl
@[simp] theorem storeLocal_merge (c : Core) (o : Nat) (bs : List Byte) : (c.storeLocal o bs).merge = c.merge := rfl
@[simp] theorem storeLocal_walks (c : Core) (o : Nat) (bs : List Byte) : (c.storeLocal o bs).walks = c.walks := rfl
@[simp] theorem storeLocal_flagged (c : Core) (o : Nat) (bs : List Byte) : (c.storeLocal o bs).flagged = c.flagged := rfl
@[simp] theorem storeLocal_uiReady (c : Core) (o : Nat) (bs : List Byte) : (c.storeLocal o bs).uiReady = c.uiReady := rfl
@[simp] theorem storeLocal_yieldAt (c : Core) (o : Nat) (bs : List Byte) : (c.storeLocal o bs).yieldAt = c.yieldAt := rfl
@[simp] theorem storeLocal_tx (c : Core) (o : Nat) (bs : List Byte) : (c.storeLocal o bs).tx = c.tx := rfl
@[simp] theorem storeLocal_frame (c : Core) (o : Nat) (bs : List Byte) : (c.storeLocal o bs).frame = c.frame := rfl
@[simp] theorem storeLocal_rmstats (c : Core) (o : Nat) (bs : List Byte) : (c.storeLocal o bs).rmstats = c.rmstats := rfl
@[simp] theorem storeLocal_escScopes (c : Core) (o : Nat) (bs : List Byte) : (c.storeLocal o bs).escScopes = c.escScopes := rfl
@[simp] theorem storeLocal_gathers (c : Core) (o : Nat) (bs : List Byte) : (c.storeLocal o bs).gathers = c.gathers := rfl
@[simp] theorem storeLocal_landings (c : Core) (o : Nat) (bs : List Byte) : (c.storeLocal o bs).landings = c.landings := rfl

/-! ## Core.flag -/

@[simp] theorem flag_who (c : Core) (f : Flags) : (c.flag f).who = c.who := rfl
@[simp] theorem flag_run (c : Core) (f : Flags) : (c.flag f).run = c.run := rfl
@[simp] theorem flag_pc (c : Core) (f : Flags) : (c.flag f).pc = c.pc := rfl
@[simp] theorem flag_nextPc (c : Core) (f : Flags) : (c.flag f).nextPc = c.nextPc := rfl
@[simp] theorem flag_regs (c : Core) (f : Flags) : (c.flag f).regs = c.regs := rfl
@[simp] theorem flag_gens (c : Core) (f : Flags) : (c.flag f).gens = c.gens := rfl
@[simp] theorem flag_task (c : Core) (f : Flags) : (c.flag f).task = c.task := rfl
@[simp] theorem flag_scratch (c : Core) (f : Flags) : (c.flag f).scratch = c.scratch := rfl
@[simp] theorem flag_fetched (c : Core) (f : Flags) : (c.flag f).fetched = c.fetched := rfl
@[simp] theorem flag_leases (c : Core) (f : Flags) : (c.flag f).leases = c.leases := rfl
@[simp] theorem flag_locks (c : Core) (f : Flags) : (c.flag f).locks = c.locks := rfl
@[simp] theorem flag_slotLocks (c : Core) (f : Flags) : (c.flag f).slotLocks = c.slotLocks := rfl
@[simp] theorem flag_stalling (c : Core) (f : Flags) : (c.flag f).stalling = c.stalling := rfl
@[simp] theorem flag_stallCounted (c : Core) (f : Flags) : (c.flag f).stallCounted = c.stallCounted := rfl
@[simp] theorem flag_stageId (c : Core) (f : Flags) : (c.flag f).stageId = c.stageId := rfl
@[simp] theorem flag_entries (c : Core) (f : Flags) : (c.flag f).entries = c.entries := rfl
@[simp] theorem flag_streams (c : Core) (f : Flags) : (c.flag f).streams = c.streams := rfl
@[simp] theorem flag_teamCount (c : Core) (f : Flags) : (c.flag f).teamCount = c.teamCount := rfl
@[simp] theorem flag_mredBanks (c : Core) (f : Flags) : (c.flag f).mredBanks = c.mredBanks := rfl
@[simp] theorem flag_chan (c : Core) (f : Flags) : (c.flag f).chan = c.chan := rfl
@[simp] theorem flag_idScopes (c : Core) (f : Flags) : (c.flag f).idScopes = c.idScopes := rfl
@[simp] theorem flag_merge (c : Core) (f : Flags) : (c.flag f).merge = c.merge := rfl
@[simp] theorem flag_walks (c : Core) (f : Flags) : (c.flag f).walks = c.walks := rfl
@[simp] theorem flag_flagged (c : Core) (f : Flags) : (c.flag f).flagged = c.flagged := rfl
@[simp] theorem flag_uiReady (c : Core) (f : Flags) : (c.flag f).uiReady = c.uiReady := rfl
@[simp] theorem flag_yieldAt (c : Core) (f : Flags) : (c.flag f).yieldAt = c.yieldAt := rfl
@[simp] theorem flag_tx (c : Core) (f : Flags) : (c.flag f).tx = c.tx := rfl
@[simp] theorem flag_frame (c : Core) (f : Flags) : (c.flag f).frame = c.frame := rfl
@[simp] theorem flag_rmstats (c : Core) (f : Flags) : (c.flag f).rmstats = c.rmstats := rfl
@[simp] theorem flag_granules (c : Core) (f : Flags) : (c.flag f).granules = c.granules := rfl
@[simp] theorem flag_escScopes (c : Core) (f : Flags) : (c.flag f).escScopes = c.escScopes := rfl
@[simp] theorem flag_gathers (c : Core) (f : Flags) : (c.flag f).gathers = c.gathers := rfl
@[simp] theorem flag_landings (c : Core) (f : Flags) : (c.flag f).landings = c.landings := rfl

/-! ## Core.retire -/

@[simp] theorem retire_gens (c : Core) : (c.retire).gens = c.gens := rfl
@[simp] theorem retire_task (c : Core) : (c.retire).task = c.task := rfl
@[simp] theorem retire_fetched (c : Core) : (c.retire).fetched = c.fetched := rfl
@[simp] theorem retire_leases (c : Core) : (c.retire).leases = c.leases := rfl
@[simp] theorem retire_locks (c : Core) : (c.retire).locks = c.locks := rfl
@[simp] theorem retire_slotLocks (c : Core) : (c.retire).slotLocks = c.slotLocks := rfl
@[simp] theorem retire_streams (c : Core) : (c.retire).streams = c.streams := rfl
@[simp] theorem retire_teamCount (c : Core) : (c.retire).teamCount = c.teamCount := rfl
@[simp] theorem retire_mredBanks (c : Core) : (c.retire).mredBanks = c.mredBanks := rfl
@[simp] theorem retire_chan (c : Core) : (c.retire).chan = c.chan := rfl
@[simp] theorem retire_idScopes (c : Core) : (c.retire).idScopes = c.idScopes := rfl
@[simp] theorem retire_merge (c : Core) : (c.retire).merge = c.merge := rfl
@[simp] theorem retire_walks (c : Core) : (c.retire).walks = c.walks := rfl
@[simp] theorem retire_flagged (c : Core) : (c.retire).flagged = c.flagged := rfl
@[simp] theorem retire_yieldAt (c : Core) : (c.retire).yieldAt = c.yieldAt := rfl
@[simp] theorem retire_tx (c : Core) : (c.retire).tx = c.tx := rfl
@[simp] theorem retire_frame (c : Core) : (c.retire).frame = c.frame := rfl
@[simp] theorem retire_rmstats (c : Core) : (c.retire).rmstats = c.rmstats := rfl
@[simp] theorem retire_granules (c : Core) : (c.retire).granules = c.granules := rfl
@[simp] theorem retire_escScopes (c : Core) : (c.retire).escScopes = c.escScopes := rfl
@[simp] theorem retire_gathers (c : Core) : (c.retire).gathers = c.gathers := rfl
@[simp] theorem retire_landings (c : Core) : (c.retire).landings = c.landings := rfl

/-! ## Core.wake -/

@[simp] theorem wake_who (c : Core) : (c.wake).who = c.who := rfl
@[simp] theorem wake_nextPc (c : Core) : (c.wake).nextPc = c.nextPc := rfl
@[simp] theorem wake_regs (c : Core) : (c.wake).regs = c.regs := rfl
@[simp] theorem wake_csr (c : Core) : (c.wake).csr = c.csr := rfl
@[simp] theorem wake_gens (c : Core) : (c.wake).gens = c.gens := rfl
@[simp] theorem wake_task (c : Core) : (c.wake).task = c.task := rfl
@[simp] theorem wake_scratch (c : Core) : (c.wake).scratch = c.scratch := rfl
@[simp] theorem wake_fetched (c : Core) : (c.wake).fetched = c.fetched := rfl
@[simp] theorem wake_leases (c : Core) : (c.wake).leases = c.leases := rfl
@[simp] theorem wake_locks (c : Core) : (c.wake).locks = c.locks := rfl
@[simp] theorem wake_slotLocks (c : Core) : (c.wake).slotLocks = c.slotLocks := rfl
@[simp] theorem wake_entries (c : Core) : (c.wake).entries = c.entries := rfl
@[simp] theorem wake_streams (c : Core) : (c.wake).streams = c.streams := rfl
@[simp] theorem wake_teamCount (c : Core) : (c.wake).teamCount = c.teamCount := rfl
@[simp] theorem wake_mredBanks (c : Core) : (c.wake).mredBanks = c.mredBanks := rfl
@[simp] theorem wake_chan (c : Core) : (c.wake).chan = c.chan := rfl
@[simp] theorem wake_idScopes (c : Core) : (c.wake).idScopes = c.idScopes := rfl
@[simp] theorem wake_merge (c : Core) : (c.wake).merge = c.merge := rfl
@[simp] theorem wake_walks (c : Core) : (c.wake).walks = c.walks := rfl
@[simp] theorem wake_flagged (c : Core) : (c.wake).flagged = c.flagged := rfl
@[simp] theorem wake_yieldAt (c : Core) : (c.wake).yieldAt = c.yieldAt := rfl
@[simp] theorem wake_tx (c : Core) : (c.wake).tx = c.tx := rfl
@[simp] theorem wake_frame (c : Core) : (c.wake).frame = c.frame := rfl
@[simp] theorem wake_rmstats (c : Core) : (c.wake).rmstats = c.rmstats := rfl
@[simp] theorem wake_granules (c : Core) : (c.wake).granules = c.granules := rfl
@[simp] theorem wake_escScopes (c : Core) : (c.wake).escScopes = c.escScopes := rfl
@[simp] theorem wake_gathers (c : Core) : (c.wake).gathers = c.gathers := rfl
@[simp] theorem wake_landings (c : Core) : (c.wake).landings = c.landings := rfl

end Sys2Proof.Machine
end

