-- ==== Sys2Proof/Laws/Ops.lean ====
section
/-! SUPPORT. What each shared operation can do: the records that a change of the state puts back, taking an exception,
holding and blocking, and what keeps a memory canonical. -/

namespace Sys2Proof.Machine

/-! ## Records put back -/

/-- A cluster put back is found under its own id. -/
theorem cluster_setCluster (s : State) (c : Cluster) : (s.setCluster c).cluster c.id = c := by
  simp only [State.cluster, State.setCluster, lookup]
  rw [find_upsert_self Cluster.id _ c (by simp) (by intro y hy; simpa using hy)]
  rfl

/-- Putting a cluster back changes no other cluster. -/
theorem cluster_setCluster_ne (s : State) (c : Cluster) (n : Nat) (h : n ≠ c.id) :
    (s.setCluster c).cluster n = s.cluster n := by
  simp only [State.cluster, State.setCluster, lookup]
  rw [find_upsert_other Cluster.id _ c (by intro y hy; rw [hy]; simpa using Ne.symm h)]

/-- A die put back is found under its own id. -/
theorem die_setDie (s : State) (d : Die) : (s.setDie d).die d.id = d := by
  simp only [State.die, State.setDie, lookup]
  rw [find_upsert_self Die.id _ d (by simp) (by intro y hy; simpa using hy)]
  rfl

/-- Putting a die back changes no other die. -/
theorem die_setDie_ne (s : State) (d : Die) (n : Nat) (h : n ≠ d.id) : (s.setDie d).die n = s.die n := by
  simp only [State.die, State.setDie, lookup]
  rw [find_upsert_other Die.id _ d (by intro y hy; rw [hy]; simpa using Ne.symm h)]

/-- A queue put back is found under its own index. -/
theorem queue_setQueue (s : State) (q : Queue) : (s.setQueue q).queue q.idx = q := by
  simp only [State.queue, State.setQueue, lookup]
  rw [find_upsert_self Queue.idx _ q (by simp) (by intro y hy; simpa using hy)]
  rfl

/-- Putting a queue back changes no other queue. -/
theorem queue_setQueue_ne (s : State) (q : Queue) (n : Nat) (h : n ≠ q.idx) : (s.setQueue q).queue n = s.queue n := by
  simp only [State.queue, State.setQueue, lookup]
  rw [find_upsert_other Queue.idx _ q (by intro y hy; rw [hy]; simpa using Ne.symm h)]

/-- A launch put back is found under its own id. -/
theorem launchOf_setLaunch (s : State) (l : Launch) : (s.setLaunch l).launchOf l.id = some l := by
  simp only [State.launchOf, State.setLaunch, lookup]
  exact find_upsert_self Launch.id _ l (by simp) (by intro y hy; simpa using hy) _

/-- Putting a launch back changes no other launch. -/
theorem launchOf_setLaunch_ne (s : State) (l : Launch) (n : Nat) (h : n ≠ l.id) :
    (s.setLaunch l).launchOf n = s.launchOf n := by
  simp only [State.launchOf, State.setLaunch, lookup]
  exact find_upsert_other Launch.id _ l (by intro y hy; rw [hy]; simpa using Ne.symm h) _

/-- A team put back is found under its own id. -/
theorem teamOf_setTeam (s : State) (t : Team) : (s.setTeam t).teamOf t.id = some t := by
  simp only [State.teamOf, State.setTeam, lookup]
  exact find_upsert_self Team.id _ t (by simp) (by intro y hy; simpa using hy) _

/-- Putting a team back changes no other team. -/
theorem teamOf_setTeam_ne (s : State) (t : Team) (n : Nat) (h : n ≠ t.id) : (s.setTeam t).teamOf n = s.teamOf n := by
  simp only [State.teamOf, State.setTeam, lookup]
  exact find_upsert_other Team.id _ t (by intro y hy; rw [hy]; simpa using Ne.symm h) _

/-! ## Taking an exception -/

/-- Inside a transaction an exception is noted and aborts it (R294). -/
theorem trap_aborts (s : State) (f : Flt) (h : 0 < s.core.tx.depth) :
    s.trap f = (s.setCore (s.core.noteTxFault s.core.pc f)).abortTx s.core.who 5 0 0 := by
  unfold State.trap State.faultAt
  rw [getCore_self]
  exact if_pos h

/-- A supervisor core outside a transaction halts (R430). -/
theorem trap_halts (s : State) (f : Flt) (h : s.core.tx.depth = 0) (hs : s.core.isSup = true) :
    s.trap f = s.haltAt s.core.who f s.core.pc [] := by
  unfold State.trap State.faultAt
  rw [getCore_self]
  simp [h, hs]

/-- A tile core outside a transaction that is not parked yet parks (R392). -/
theorem trap_parks (s : State) (f : Flt) (h : s.core.tx.depth = 0) (hs : s.core.isSup = false)
    (hr : s.core.run ≠ .parked) : s.trap f = s.park s.core.who f s.core.pc none true [] := by
  unfold State.trap State.faultAt
  rw [getCore_self]
  simp [h, hs, hr]

/-! ## Holding, blocking and stalling -/

/-- A stall only marks its chain (R84). -/
theorem stall_marks (s : State) : s.stall = .next { s with core := { s.core with stalling := true } } := rfl

/-- A blocked core has not retired (R112). -/
theorem block_keeps (s : State) (b : Block) : (s.block b).core.pc = s.core.pc ∧ (s.block b).core.run = .blocked b ∧
    (s.block b).core.regs = s.core.regs := ⟨rfl, rfl, rfl⟩

/-- A held core has not retired. -/
theorem hold_keeps (s : State) (i : Instr) (o : Ops) : (s.hold i o).core.pc = s.core.pc ∧
    (s.hold i o).core.run = .held i o ∧ (s.hold i o).core.regs = s.core.regs := ⟨rfl, rfl, rfl⟩

/-- A woken core runs on after its chain. -/
theorem wake_goes_on (c : Core) : c.wake.run = .running ∧ c.wake.pc = c.nextPc ∧ c.wake.regs = c.regs := ⟨rfl, rfl, rfl⟩

/-! ## Canonical memories -/

/-- What a fold of messages leaves as it was. -/
theorem foldl_mem {α : Type} (f : State → α → State) (hf : ∀ s a, (f s a).mem = s.mem) (l : List α) :
    ∀ s : State, (l.foldl f s).mem = s.mem := by
  induction l with
  | nil => intro s; rfl
  | cons a t ih => intro s; rw [List.foldl_cons, ih, hf]

/-- An invalidation is a message, and leaves memory as it was. -/
theorem sendInv_mem (s : State) (line m : Nat) : (s.sendInv line m).mem = s.mem := by
  unfold State.sendInv
  split <;> rfl

/-- So do the invalidations of a region. -/
theorem invalidatePeers_mem (s : State) (pa : Nat) : (s.invalidatePeers pa).mem = s.mem :=
  foldl_mem _ (fun s m => sendInv_mem s (pa / 128) m) _ s

/-- Bytes performed at an L2 or at a home stand in memory, whatever is told to other modules. -/
theorem perform_mem (s : State) (cells : List (Nat × Byte)) :
    (s.perform cells).mem = cells.foldl (fun (m : Memory) (c : Nat × Byte) => m.write c.1 c.2) s.mem := by
  cases cells with
  | nil => rfl
  | cons c t =>
    unfold State.perform
    dsimp only
    split
    · exact invalidatePeers_mem _ _
    · split
      · exact foldl_mem (fun (s : State) (r : Nat × List Byte) => s.send (.store r.1 r.2)) (fun _ _ => rfl) _ _
      · rfl

/-- Bytes performed at an L2 or at a home keep memory canonical. -/
theorem perform_wf (s : State) (cells : List (Nat × Byte)) (h : s.mem.wf = true) : (s.perform cells).mem.wf = true := by
  rw [perform_mem]
  exact wf_foldWrite _ _ h

/-- Bytes stored in local memory keep it canonical. -/
theorem storeLocal_wf (c : Core) (o : Nat) (bs : List Byte) (h : c.scratch.wf = true) :
    (c.storeLocal o bs).scratch.wf = true := wf_writeBytes bs c.scratch o h

/-- An escapement written keeps local memory canonical. -/
theorem putEsc_wf (c : Core) (e : Nat) (x : Esc) (h : c.scratch.wf = true) : (c.putEsc e x).scratch.wf = true :=
  wf_writeNat _ _ _ _ (wf_writeNat _ _ _ _ (wf_writeNat _ _ _ _ h))

/-- A line put into memory keeps it canonical. -/
theorem putLine_wf (s : State) (line : Nat) (data : List Byte) (h : s.mem.wf = true) :
    (s.putLine line data).mem.wf = true := wf_writeBytes _ _ _ h

/-- Memory of another module that a link reaches, or is not asked for. -/
theorem reach_far (s : State) (pa : Nat) (d : Word) (hf : s.farPa pa = true) (h : ∀ f, s.reach pa d ≠ .bad f) :
    s.reach pa d = .ok () := by
  simp only [State.farPa, Bool.and_eq_true, decide_eq_true_eq] at hf
  unfold State.reach at h ⊢
  have hn : ¬ (256 ≤ modOf pa ∨ hbmEnd ≤ lpaOf pa) := by omega
  by_cases hl : s.ports.linkup = 0
  · simp [hf, hn, hl] at h
  · simp only [hn, hf, if_true, if_false]
    exact if_neg hl

/-- A page that is not refused is found alike inside a transaction and outside. -/
theorem checkPageTx_of_answered (s : State) (tx : Bool) (k : Kind) (va : Nat) (t : Tlb)
    (h : ∀ f, s.checkPage true k va t ≠ .bad f) : s.checkPageTx tx k va t = s.checkPage true k va t := by
  unfold State.checkPageTx
  split
  · next hc =>
    simp only [Bool.and_eq_true] at hc
    simp only [State.checkPage, hc.2, if_true] at h ⊢
    rw [reach_far s _ _ hc.1.2 (fun f hr => by simp [hr, Res.andThen] at h)]
    rfl
  · rfl

/-- Outside a transaction a thread's access is translated as any other is. -/
theorem translateTx_plain (s : State) (a : Agent) (asid : Nat) (inline : Bool) (k : Kind) (va : Nat) :
    s.translateTx a asid inline false k va = s.translate a asid inline k va := by
  have hc : s.checkPageTx false k va = s.checkPage true k va := by funext t; simp [State.checkPageTx]
  cases a with
  | tile id => simp only [State.translateTx, State.translate, State.translateTile, hc]
  | sup d => simp [State.translateTx]

/-- A failure is handed on. -/
theorem andThen_bad {α β : Type} (f : Flt) (g : α → Res β) : (Res.bad f).andThen g = .bad f := rfl

/-- So is a wait. -/
theorem andThen_wait {α β : Type} (g : α → Res β) : (Res.wait : Res α).andThen g = .wait := rfl

/-- A task's translation that does not fail is the same inside a transaction. -/
theorem translateTx_tile (s : State) (id asid : Nat) (inline tx : Bool) (k : Kind) (va : Nat)
    (h : ∀ f, s.translateTile id asid inline k va ≠ .bad f) :
    s.translateTx (.tile id) asid inline tx k va = s.translateTile id asid inline k va := by
  unfold State.translateTile at h
  unfold State.translateTx State.translateTile
  dsimp only at h ⊢
  by_cases hv : 2 ^ 52 ≤ va
  · rw [if_pos hv, if_pos hv]
  · rw [if_neg hv] at h
    rw [if_neg hv, if_neg hv]
    generalize s.tlbFind (dieOfCluster (clusterOf id)) (clusterOf id) asid va = o at h ⊢
    cases o with
    | some t => exact checkPageTx_of_answered s tx k va t h
    | none =>
      cases inline with
      | false => exact (if_neg Bool.false_ne_true).trans (if_neg Bool.false_ne_true).symm
      | true =>
        simp only [if_true] at h ⊢
        generalize s.walk (dieOfCluster (clusterOf id)) asid va = w at h ⊢
        cases w with
        | ok t => exact checkPageTx_of_answered s tx k va t h
        | bad f => exact (andThen_bad f _).trans (andThen_bad f _).symm
        | wait => exact (andThen_wait _).trans (andThen_wait _).symm

/-- The supervisor's answers outside a transaction hold inside one. -/
theorem translateTx_sup (s : State) (d asid : Nat) (inline tx : Bool) (k : Kind) (va : Nat)
    (h : ∀ f, s.translate (.sup d) asid inline k va ≠ .bad f) :
    s.translateTx (.sup d) asid inline tx k va = s.translate (.sup d) asid inline k va := by
  simp only [State.translateTx]
  split
  · next hf =>
    simp only [Bool.and_eq_true] at hf
    simp only [State.translate] at h ⊢
    split
    · next hv => rw [if_pos hv] at h; exact absurd rfl (h _)
    · next hv =>
      rw [if_neg hv] at h
      split
      · rfl
      · next hd =>
        rw [if_neg hd] at h
        rw [reach_far s va _ hf.2 (fun f hr => by simp [hr, Res.andThen] at h)]
        rfl
  · rfl

/-- Inside a transaction too, wherever that does not fail. -/
theorem translateTx_of_answered (s : State) (a : Agent) (asid : Nat) (inline tx : Bool) (k : Kind) (va : Nat)
    (h : ∀ f, s.translate a asid inline k va ≠ .bad f) :
    s.translateTx a asid inline tx k va = s.translate a asid inline k va := by
  cases a with
  | tile id => exact translateTx_tile s id asid inline tx k va h
  | sup d => exact translateTx_sup s d asid inline tx k va h

/-! ## One cycle's updates and landings (R101, R139) -/

/-- An update of an escapement keeps local memory canonical, and every register, entry and landing. -/
theorem update_frame (c : Core) (e time : Nat) (delta : Option Int) (arrivals : Option (Nat × Nat)) :
    (c.update e time delta arrivals).who = c.who ∧ (c.update e time delta arrivals).regs = c.regs ∧
    (c.update e time delta arrivals).entries = c.entries ∧ (c.update e time delta arrivals).landings = c.landings ∧
    (c.scratch.wf = true → (c.update e time delta arrivals).scratch.wf = true) :=
  ⟨rfl, rfl, rfl, rfl, fun h => putEsc_wf c e _ h⟩

/-- A remote store that lands writes local memory alone, and keeps it canonical. -/
theorem landStore_frame (c : Core) (time from_ o : Nat) (bs : List Byte) :
    (c.landStore time from_ o bs).who = c.who ∧ (c.landStore time from_ o bs).regs = c.regs ∧
    (c.landStore time from_ o bs).csr = c.csr ∧ (c.landStore time from_ o bs).entries = c.entries ∧
    (c.scratch.wf = true → (c.landStore time from_ o bs).scratch.wf = true) :=
  ⟨rfl, rfl, rfl, rfl, fun h => storeLocal_wf c o _ h⟩

/-! ## What other modules bring -/

/-- A line's bytes from another module change memory alone, and keep it canonical. -/
theorem farLine_frame (s : State) (line : Nat) : (s.farLine line).core = s.core ∧ (s.farLine line).others = s.others ∧
    (s.farLine line).l2 = s.l2 ∧ (s.farLine line).ports = s.ports ∧
    (s.mem.wf = true → (s.farLine line).mem.wf = true) := by
  unfold State.farLine
  generalize (List.range 128).map (fun i => Config.freeByte (s.free + i)) = bs
  exact ⟨rfl, rfl, rfl, rfl, wf_writeBytes bs s.mem _⟩

/-- An invalidation that is sent changes the ports alone. -/
theorem sendInv_frame (s : State) (line m : Nat) : (s.sendInv line m).core = s.core ∧
    (s.sendInv line m).others = s.others ∧ (s.sendInv line m).l2 = s.l2 ∧ (s.sendInv line m).mem = s.mem := by
  unfold State.sendInv
  split <;> exact ⟨rfl, rfl, rfl, rfl⟩

/-- What an L2 asks of a home, or of a peer, leaves every core and every L2 as it is, and keeps memory canonical. -/
theorem ask_frame (s : State) (pa : Nat) (own : Bool) :
    (s.ask pa own).core = s.core ∧ (s.ask pa own).others = s.others ∧ (s.ask pa own).l2 = s.l2 ∧
    (s.mem.wf = true → (s.ask pa own).mem.wf = true) := by
  have far (t : State) (line : Nat) (h1 : t.core = s.core) (h2 : t.others = s.others) (h3 : t.l2 = s.l2)
      (h4 : t.mem = s.mem) : (t.farLine line).core = s.core ∧ (t.farLine line).others = s.others ∧
      (t.farLine line).l2 = s.l2 ∧ (s.mem.wf = true → (t.farLine line).mem.wf = true) := by
    have hf := farLine_frame t line
    generalize t.farLine line = u at hf ⊢
    exact ⟨hf.1.trans h1, hf.2.1.trans h2, hf.2.2.1.trans h3, by rw [← h4]; exact hf.2.2.2.2⟩
  simp only [State.ask]
  split
  · split
    · exact far _ _ rfl rfl rfl rfl
    · split <;> exact ⟨rfl, rfl, rfl, id⟩
  · split
    · exact ⟨rfl, rfl, rfl, id⟩
    · rename_i x _
      have h := sendInv_frame s (pa / 128) x.mod
      have f := far _ (pa / 128) h.1 h.2.1 h.2.2.1 h.2.2.2
      generalize (s.sendInv (pa / 128) x.mod).farLine (pa / 128) = u at f ⊢
      exact f

/-! ## The bridge -/

/-- With no posted write before it, an access finds the bridge as it stands. -/
@[simp] theorem ahead_idle (p : Ports) (h : p.posted = []) : p.ahead = p := by
  cases p; simp_all [Ports.ahead]

/-- A bridge with no posted write performs none. -/
theorem drainPosted_idle (s : State) (n : Nat) (h : s.ports.posted = []) : s.drainPosted n = s := by
  cases n <;> simp [State.drainPosted, h]

end Sys2Proof.Machine
end

