-- ==== Sys2Proof/Laws/PerInstr.lean ====
section
/-! SUPPORT. Statements made of each instruction as syntax: an instruction that a chain starts has a row of the opcode map,
and words; a step of the part has none (R47, R48). -/

namespace Sys2Proof.Laws.Encoding

/-- The instruction stands in the opcode map, on a page and at an op6 that the map lists, and then it has words; or no
chain starts it, and it has none (R47, R48). -/
def Statement (i : Instr) : Prop :=
  (i.isChain = true → (∃ page op f, i.layout = some (page, op, f) ∧ page ≤ 9 ∧ op < 0x3C ∧ (form page op).isSome = true) ∧
    encode i ≠ []) ∧ (i.isChain = false → encode i = [])

/-- A chain with a row of the map. -/
theorem of_row (i : Instr) (page op : Nat) (f : Fields) (fm : Form) (h : i.layout = some (page, op, f))
    (hf : form page op = some fm) (hp : page ≤ 9) (ho : op < 0x3C) : Statement i := by
  refine ⟨fun _ => ⟨⟨page, op, f, h, hp, ho, by rw [hf]; rfl⟩, ?_⟩, fun hc => ?_⟩
  · simp [encode, h, hf, Chain.words]
  · simp [Instr.isChain, h] at hc

/-- A step of the part. -/
theorem of_step (i : Instr) (h : i.layout = none) : Statement i := by
  refine ⟨fun hc => ?_, fun _ => ?_⟩
  · simp [Instr.isChain, h] at hc
  · simp [encode, h]

theorem nop : Statement .nop := of_row _ _ _ _ _ rfl rfl (by decide) (by decide)
theorem pick (x : Src) : Statement (.pick x) := of_row _ _ _ _ _ rfl rfl (by decide) (by decide)
theorem put (d : Dst) (x : Src) : Statement (.put d x) := of_row _ _ _ _ _ rfl rfl (by decide) (by decide)
theorem add (x y : Src) : Statement (.add x y) := of_row _ _ _ _ _ rfl rfl (by decide) (by decide)
theorem sub (x y : Src) : Statement (.sub x y) := of_row _ _ _ _ _ rfl rfl (by decide) (by decide)
theorem addi (x : Src) (imm : Int) : Statement (.addi x imm) := of_row _ _ _ _ _ rfl rfl (by decide) (by decide)
theorem mul (x y : Src) : Statement (.mul x y) := of_row _ _ _ _ _ rfl rfl (by decide) (by decide)
theorem and (x y : Src) : Statement (.and x y) := of_row _ _ _ _ _ rfl rfl (by decide) (by decide)
theorem or (x y : Src) : Statement (.or x y) := of_row _ _ _ _ _ rfl rfl (by decide) (by decide)
theorem xor (x y : Src) : Statement (.xor x y) := of_row _ _ _ _ _ rfl rfl (by decide) (by decide)
theorem andi (x : Src) (imm : Nat) : Statement (.andi x imm) := of_row _ _ _ _ _ rfl rfl (by decide) (by decide)
theorem shl (x y : Src) : Statement (.shl x y) := of_row _ _ _ _ _ rfl rfl (by decide) (by decide)
theorem shr (x y : Src) : Statement (.shr x y) := of_row _ _ _ _ _ rfl rfl (by decide) (by decide)
theorem sra (x y : Src) : Statement (.sra x y) := of_row _ _ _ _ _ rfl rfl (by decide) (by decide)
theorem shli (x : Src) (n : Nat) : Statement (.shli x n) := of_row _ _ _ _ _ rfl rfl (by decide) (by decide)
theorem shri (x : Src) (n : Nat) : Statement (.shri x n) := of_row _ _ _ _ _ rfl rfl (by decide) (by decide)
theorem srai (x : Src) (n : Nat) : Statement (.srai x n) := of_row _ _ _ _ _ rfl rfl (by decide) (by decide)
theorem ceq (x y : Src) : Statement (.ceq x y) := of_row _ _ _ _ _ rfl rfl (by decide) (by decide)
theorem clt (x y : Src) : Statement (.clt x y) := of_row _ _ _ _ _ rfl rfl (by decide) (by decide)
theorem cltu (x y : Src) : Statement (.cltu x y) := of_row _ _ _ _ _ rfl rfl (by decide) (by decide)
theorem clti (x : Src) (imm : Int) : Statement (.clti x imm) := of_row _ _ _ _ _ rfl rfl (by decide) (by decide)
theorem min (x y : Src) : Statement (.min x y) := of_row _ _ _ _ _ rfl rfl (by decide) (by decide)
theorem max (x y : Src) : Statement (.max x y) := of_row _ _ _ _ _ rfl rfl (by decide) (by decide)
theorem minu (x y : Src) : Statement (.minu x y) := of_row _ _ _ _ _ rfl rfl (by decide) (by decide)
theorem maxu (x y : Src) : Statement (.maxu x y) := of_row _ _ _ _ _ rfl rfl (by decide) (by decide)
theorem popc (x : Src) : Statement (.popc x) := of_row _ _ _ _ _ rfl rfl (by decide) (by decide)
theorem clz (x : Src) : Statement (.clz x) := of_row _ _ _ _ _ rfl rfl (by decide) (by decide)
theorem ctz (x : Src) : Statement (.ctz x) := of_row _ _ _ _ _ rfl rfl (by decide) (by decide)
theorem li (imm : Int) : Statement (.li imm) := of_row _ _ _ _ _ rfl rfl (by decide) (by decide)
theorem ldc (n : Fin 256) : Statement (.ldc n) := of_row _ _ _ _ _ rfl rfl (by decide) (by decide)
theorem lld (w : Width) (addr : Src) (off : Int) : Statement (.lld w addr off) := of_row _ _ _ _ _ rfl rfl (by decide) (by decide)
theorem lstB (addr val : Src) (off : Int) : Statement (.lstB addr val off) := of_row _ _ _ _ _ rfl rfl (by decide) (by decide)
theorem lstH (addr val : Src) (off : Int) : Statement (.lstH addr val off) := of_row _ _ _ _ _ rfl rfl (by decide) (by decide)
theorem lstW (addr val : Src) (off : Int) : Statement (.lstW addr val off) := of_row _ _ _ _ _ rfl rfl (by decide) (by decide)
theorem lstD (addr val : Src) (off : Int) : Statement (.lstD addr val off) := of_row _ _ _ _ _ rfl rfl (by decide) (by decide)
theorem br (off : Int) : Statement (.br off) := of_row _ _ _ _ _ rfl rfl (by decide) (by decide)
theorem bz (x : Src) (off : Int) : Statement (.bz x off) := of_row _ _ _ _ _ rfl rfl (by decide) (by decide)
theorem bnz (x : Src) (off : Int) : Statement (.bnz x off) := of_row _ _ _ _ _ rfl rfl (by decide) (by decide)
theorem call (off : Int) : Statement (.call off) := of_row _ _ _ _ _ rfl rfl (by decide) (by decide)
theorem jr (x : Src) : Statement (.jr x) := of_row _ _ _ _ _ rfl rfl (by decide) (by decide)
theorem dbnz (k : Fin 16) (off : Int) : Statement (.dbnz k off) := of_row _ _ _ _ _ rfl rfl (by decide) (by decide)
theorem ewait (x : Src) : Statement (.ewait x) := of_row _ _ _ _ _ rfl rfl (by decide) (by decide)
theorem earr (x : Src) : Statement (.earr x) := of_row _ _ _ _ _ rfl rfl (by decide) (by decide)
theorem await (x : Src) : Statement (.await x) := of_row _ _ _ _ _ rfl rfl (by decide) (by decide)
theorem wlease (r : LeaseReg) : Statement (.wlease r) := of_row _ _ _ _ _ rfl rfl (by decide) (by decide)
theorem chime : Statement .chime := of_row _ _ _ _ _ rfl rfl (by decide) (by decide)
theorem yield : Statement .yield := of_row _ _ _ _ _ rfl rfl (by decide) (by decide)
theorem endTask : Statement .endTask := of_row _ _ _ _ _ rfl rfl (by decide) (by decide)
theorem brk (n : Nat) : Statement (.brk n) := of_row _ _ _ _ _ rfl rfl (by decide) (by decide)
theorem svc (n : Nat) : Statement (.svc n) := of_row _ _ _ _ _ rfl rfl (by decide) (by decide)
theorem sel (x y cond : Src) : Statement (.sel x y cond) := of_row _ _ _ _ _ rfl rfl (by decide) (by decide)
theorem bmux (x y s : Src) (lo hi : Fin 16) : Statement (.bmux x y s lo hi) := of_row _ _ _ _ _ rfl rfl (by decide) (by decide)
theorem fshl (x y n : Src) : Statement (.fshl x y n) := of_row _ _ _ _ _ rfl rfl (by decide) (by decide)
theorem fshr (x y n : Src) : Statement (.fshr x y n) := of_row _ _ _ _ _ rfl rfl (by decide) (by decide)
theorem mulh (x y : Src) : Statement (.mulh x y) := of_row _ _ _ _ _ rfl rfl (by decide) (by decide)
theorem mulhu (x y : Src) : Statement (.mulhu x y) := of_row _ _ _ _ _ rfl rfl (by decide) (by decide)
theorem div (x y : Src) : Statement (.div x y) := of_row _ _ _ _ _ rfl rfl (by decide) (by decide)
theorem divu (x y : Src) : Statement (.divu x y) := of_row _ _ _ _ _ rfl rfl (by decide) (by decide)
theorem rem (x y : Src) : Statement (.rem x y) := of_row _ _ _ _ _ rfl rfl (by decide) (by decide)
theorem remu (x y : Src) : Statement (.remu x y) := of_row _ _ _ _ _ rfl rfl (by decide) (by decide)
theorem madd (x y z : Src) : Statement (.madd x y z) := of_row _ _ _ _ _ rfl rfl (by decide) (by decide)
theorem lea (x y : Src) (sh : Fin 64) : Statement (.lea x y sh) := of_row _ _ _ _ _ rfl rfl (by decide) (by decide)
theorem bext (x pos len : Src) : Statement (.bext x pos len) := of_row _ _ _ _ _ rfl rfl (by decide) (by decide)
theorem bdep (x val : Src) (pos : Fin 64) (len : Nat) : Statement (.bdep x val pos len) := of_row _ _ _ _ _ rfl rfl (by decide) (by decide)
theorem sext (x : Src) (bits : Nat) : Statement (.sext x bits) := of_row _ _ _ _ _ rfl rfl (by decide) (by decide)
theorem zext (x : Src) (bits : Nat) : Statement (.zext x bits) := of_row _ _ _ _ _ rfl rfl (by decide) (by decide)
theorem rotl (x n : Src) : Statement (.rotl x n) := of_row _ _ _ _ _ rfl rfl (by decide) (by decide)
theorem bswap (x : Src) : Statement (.bswap x) := of_row _ _ _ _ _ rfl rfl (by decide) (by decide)
theorem clamp (x lo hi : Src) : Statement (.clamp x lo hi) := of_row _ _ _ _ _ rfl rfl (by decide) (by decide)
theorem rdsv (i : Fin 32) : Statement (.rdsv i) := of_row _ _ _ _ _ rfl rfl (by decide) (by decide)
theorem wrsv (i : Fin 32) (x : Src) : Statement (.wrsv i x) := of_row _ _ _ _ _ rfl rfl (by decide) (by decide)
theorem rdtime : Statement .rdtime := of_row _ _ _ _ _ rfl rfl (by decide) (by decide)
theorem ldg (w : Width) (acq : Bool) (s : Scope) (d : Dst) (addr : Src) (off : Int) : Statement (.ldg w acq s d addr off) := of_row _ _ _ _ _ rfl rfl (by decide) (by decide)
theorem stg (w : StWidth) (rel : Bool) (s : Scope) (addr val : Src) (off : Int) : Statement (.stg w rel s addr val off) := of_row _ _ _ _ _ rfl rfl (by decide) (by decide)
theorem amoW (op : AmoOp) (s : Scope) (addr val : Src) : Statement (.amoW op s addr val) := of_row _ _ _ _ _ rfl rfl (by decide) (by decide)
theorem amoD (op : AmoOp) (s : Scope) (addr val : Src) : Statement (.amoD op s addr val) := of_row _ _ _ _ _ rfl rfl (by decide) (by decide)
theorem casW (s : Scope) (addr expect new : Src) : Statement (.casW s addr expect new) := of_row _ _ _ _ _ rfl rfl (by decide) (by decide)
theorem casD (s : Scope) (addr expect new : Src) : Statement (.casD s addr expect new) := of_row _ _ _ _ _ rfl rfl (by decide) (by decide)
theorem fence (kind : FenceKind) (s : Scope) (e : Bool) : Statement (.fence kind s e) := of_row _ _ _ _ _ rfl rfl (by decide) (by decide)
theorem ifence : Statement .ifence := of_row _ _ _ _ _ rfl rfl (by decide) (by decide)
theorem flush (kind : FlushKind) (lvl : FlushLevel) (addr len : Src) : Statement (.flush kind lvl addr len) := of_row _ _ _ _ _ rfl rfl (by decide) (by decide)
theorem pref (addr len : Src) (lvl : Fin 3) : Statement (.pref addr len lvl) := of_row _ _ _ _ _ rfl rfl (by decide) (by decide)
theorem resid (addr len : Src) (mode : Fin 3) : Statement (.resid addr len mode) := of_row _ _ _ _ _ rfl rfl (by decide) (by decide)
theorem vcfg (ty : VType) (fm : MReg) : Statement (.vcfg ty fm) := of_row _ _ _ _ _ rfl rfl (by decide) (by decide)
theorem vadd (d a b : VReg) : Statement (.vadd d a b) := of_row _ _ _ _ _ rfl rfl (by decide) (by decide)
theorem vsub (d a b : VReg) : Statement (.vsub d a b) := of_row _ _ _ _ _ rfl rfl (by decide) (by decide)
theorem vmul (d a b : VReg) : Statement (.vmul d a b) := of_row _ _ _ _ _ rfl rfl (by decide) (by decide)
theorem vmulh (d a b : VReg) : Statement (.vmulh d a b) := of_row _ _ _ _ _ rfl rfl (by decide) (by decide)
theorem vfma (d a b : VReg) : Statement (.vfma d a b) := of_row _ _ _ _ _ rfl rfl (by decide) (by decide)
theorem vdiv (d a b : VReg) : Statement (.vdiv d a b) := of_row _ _ _ _ _ rfl rfl (by decide) (by decide)
theorem vsqrt (d a : VReg) : Statement (.vsqrt d a) := of_row _ _ _ _ _ rfl rfl (by decide) (by decide)
theorem vrcp (d a : VReg) : Statement (.vrcp d a) := of_row _ _ _ _ _ rfl rfl (by decide) (by decide)
theorem vrsq (d a : VReg) : Statement (.vrsq d a) := of_row _ _ _ _ _ rfl rfl (by decide) (by decide)
theorem vexp2 (d a : VReg) : Statement (.vexp2 d a) := of_row _ _ _ _ _ rfl rfl (by decide) (by decide)
theorem vlog2 (d a : VReg) : Statement (.vlog2 d a) := of_row _ _ _ _ _ rfl rfl (by decide) (by decide)
theorem vmin (d a b : VReg) : Statement (.vmin d a b) := of_row _ _ _ _ _ rfl rfl (by decide) (by decide)
theorem vmax (d a b : VReg) : Statement (.vmax d a b) := of_row _ _ _ _ _ rfl rfl (by decide) (by decide)
theorem vabs (d a : VReg) : Statement (.vabs d a) := of_row _ _ _ _ _ rfl rfl (by decide) (by decide)
theorem vand (d a b : VReg) : Statement (.vand d a b) := of_row _ _ _ _ _ rfl rfl (by decide) (by decide)
theorem vor (d a b : VReg) : Statement (.vor d a b) := of_row _ _ _ _ _ rfl rfl (by decide) (by decide)
theorem vxor (d a b : VReg) : Statement (.vxor d a b) := of_row _ _ _ _ _ rfl rfl (by decide) (by decide)
theorem vbmux (d a b : VReg) (lo hi : Fin 16) : Statement (.vbmux d a b lo hi) := of_row _ _ _ _ _ rfl rfl (by decide) (by decide)
theorem vshl (d a b : VReg) : Statement (.vshl d a b) := of_row _ _ _ _ _ rfl rfl (by decide) (by decide)
theorem vshr (d a b : VReg) : Statement (.vshr d a b) := of_row _ _ _ _ _ rfl rfl (by decide) (by decide)
theorem vsra (d a b : VReg) : Statement (.vsra d a b) := of_row _ _ _ _ _ rfl rfl (by decide) (by decide)
theorem vfshl (d a b : VReg) (n : Fin 64) : Statement (.vfshl d a b n) := of_row _ _ _ _ _ rfl rfl (by decide) (by decide)
theorem vfshr (d a b : VReg) (n : Fin 64) : Statement (.vfshr d a b n) := of_row _ _ _ _ _ rfl rfl (by decide) (by decide)
theorem vpopc (d a : VReg) : Statement (.vpopc d a) := of_row _ _ _ _ _ rfl rfl (by decide) (by decide)
theorem vclz (d a : VReg) : Statement (.vclz d a) := of_row _ _ _ _ _ rfl rfl (by decide) (by decide)
theorem vceq (fd : MReg) (a b : VReg) : Statement (.vceq fd a b) := of_row _ _ _ _ _ rfl rfl (by decide) (by decide)
theorem vclt (fd : MReg) (a b : VReg) : Statement (.vclt fd a b) := of_row _ _ _ _ _ rfl rfl (by decide) (by decide)
theorem vcle (fd : MReg) (a b : VReg) : Statement (.vcle fd a b) := of_row _ _ _ _ _ rfl rfl (by decide) (by decide)
theorem vsel (d a b : VReg) : Statement (.vsel d a b) := of_row _ _ _ _ _ rfl rfl (by decide) (by decide)
theorem vsplat (d : VReg) (x : Src) : Statement (.vsplat d x) := of_row _ _ _ _ _ rfl rfl (by decide) (by decide)
theorem vext (a : VReg) (idx : Src) : Statement (.vext a idx) := of_row _ _ _ _ _ rfl rfl (by decide) (by decide)
theorem vins (d : VReg) (x idx : Src) : Statement (.vins d x idx) := of_row _ _ _ _ _ rfl rfl (by decide) (by decide)
theorem vperm (d a idx : VReg) : Statement (.vperm d a idx) := of_row _ _ _ _ _ rfl rfl (by decide) (by decide)
theorem vslide (d a : VReg) (dist : Src) : Statement (.vslide d a dist) := of_row _ _ _ _ _ rfl rfl (by decide) (by decide)
theorem vred (op : RedOp) (a : VReg) : Statement (.vred op a) := of_row _ _ _ _ _ rfl rfl (by decide) (by decide)
theorem vcvt (f g : CFmt) (r : Rnd) (d a : VReg) : Statement (.vcvt f g r d a) := of_row _ _ _ _ _ rfl rfl (by decide) (by decide)
theorem vmask (tbl : Fin 16) (fd fa fb : MReg) : Statement (.vmask tbl fd fa fb) := of_row _ _ _ _ _ rfl rfl (by decide) (by decide)
theorem vld (d : VReg) (addr : Src) : Statement (.vld d addr) := of_row _ _ _ _ _ rfl rfl (by decide) (by decide)
theorem vst (a : VReg) (addr : Src) : Statement (.vst a addr) := of_row _ _ _ _ _ rfl rfl (by decide) (by decide)
theorem vldg (d : VReg) (addr : Src) : Statement (.vldg d addr) := of_row _ _ _ _ _ rfl rfl (by decide) (by decide)
theorem vstg (a : VReg) (addr : Src) : Statement (.vstg a addr) := of_row _ _ _ _ _ rfl rfl (by decide) (by decide)
theorem vgath (d : VReg) (base : Src) (idx : VReg) : Statement (.vgath d base idx) := of_row _ _ _ _ _ rfl rfl (by decide) (by decide)
theorem vscat (a : VReg) (base : Src) (idx : VReg) : Statement (.vscat a base idx) := of_row _ _ _ _ _ rfl rfl (by decide) (by decide)
theorem mma (a : Acc) (cw : Src) (p : MPair) : Statement (.mma a cw p) := of_row _ _ _ _ _ rfl rfl (by decide) (by decide)
theorem mmat (a : Acc) (cw : Src) (p : MPair) : Statement (.mmat a cw p) := of_row _ _ _ _ _ rfl rfl (by decide) (by decide)
theorem mred (i32 : Bool) (a : Acc) (len : Nat) : Statement (.mred i32 a len) := of_row _ _ _ _ _ rfl rfl (by decide) (by decide)
theorem mzero (a : Acc) : Statement (.mzero a) := of_row _ _ _ _ _ rfl rfl (by decide) (by decide)
theorem mld (a : Acc) (addr : Src) : Statement (.mld a addr) := of_row _ _ _ _ _ rfl rfl (by decide) (by decide)
theorem mst (f : Fmt) (r : Rnd) (a : Acc) (addr : Src) : Statement (.mst f r a addr) := of_row _ _ _ _ _ rfl rfl (by decide) (by decide)
theorem amov (d : VReg) (a : Acc) (col : Nat) : Statement (.amov d a col) := of_row _ _ _ _ _ rfl rfl (by decide) (by decide)
theorem mwait (a : Acc) : Statement (.mwait a) := of_row _ _ _ _ _ rfl rfl (by decide) (by decide)
theorem copy (src dst : Src) : Statement (.copy src dst) := of_row _ _ _ _ _ rfl rfl (by decide) (by decide)
theorem copyf (src dst : Src) (q : MQuad) (stream2 : Bool) : Statement (.copyf src dst q stream2) := of_row _ _ _ _ _ rfl rfl (by decide) (by decide)
theorem gath (table idx dst : Src) : Statement (.gath table idx dst) := of_row _ _ _ _ _ rfl rfl (by decide) (by decide)
theorem stage (n : Nat) : Statement (.stage n) := of_row _ _ _ _ _ rfl rfl (by decide) (by decide)
theorem xdone : Statement .xdone := of_row _ _ _ _ _ rfl rfl (by decide) (by decide)
theorem einit (x n : Src) : Statement (.einit x n) := of_row _ _ _ _ _ rfl rfl (by decide) (by decide)
theorem eexp (x bytes : Src) : Statement (.eexp x bytes) := of_row _ _ _ _ _ rfl rfl (by decide) (by decide)
theorem earrn (x n : Src) : Statement (.earrn x n) := of_row _ _ _ _ _ rfl rfl (by decide) (by decide)
theorem etest (x : Src) : Statement (.etest x) := of_row _ _ _ _ _ rfl rfl (by decide) (by decide)
theorem uien (x : Src) : Statement (.uien x) := of_row _ _ _ _ _ rfl rfl (by decide) (by decide)
theorem uidis : Statement .uidis := of_row _ _ _ _ _ rfl rfl (by decide) (by decide)
theorem uiret : Statement .uiret := of_row _ _ _ _ _ rfl rfl (by decide) (by decide)
theorem tbegin (off : Int) : Statement (.tbegin off) := of_row _ _ _ _ _ rfl rfl (by decide) (by decide)
theorem tend : Statement .tend := of_row _ _ _ _ _ rfl rfl (by decide) (by decide)
theorem tabort (code : Nat) : Statement (.tabort code) := of_row _ _ _ _ _ rfl rfl (by decide) (by decide)
theorem tstat : Statement .tstat := of_row _ _ _ _ _ rfl rfl (by decide) (by decide)
theorem tcaddW (addr val : Src) : Statement (.tcaddW addr val) := of_row _ _ _ _ _ rfl rfl (by decide) (by decide)
theorem tcaddF (addr val : Src) : Statement (.tcaddF addr val) := of_row _ _ _ _ _ rfl rfl (by decide) (by decide)
theorem tcmaxW (addr val : Src) : Statement (.tcmaxW addr val) := of_row _ _ _ _ _ rfl rfl (by decide) (by decide)
theorem tcminW (addr val : Src) : Statement (.tcminW addr val) := of_row _ _ _ _ _ rfl rfl (by decide) (by decide)
theorem tcorD (addr val : Src) : Statement (.tcorD addr val) := of_row _ _ _ _ _ rfl rfl (by decide) (by decide)
theorem tdepth : Statement .tdepth := of_row _ _ _ _ _ rfl rfl (by decide) (by decide)
theorem hsift (heap score id : Src) : Statement (.hsift heap score id) := of_row _ _ _ _ _ rfl rfl (by decide) (by decide)
theorem vhsift (block : Src) (score : VReg) (id : Src) : Statement (.vhsift block score id) := of_row _ _ _ _ _ rfl rfl (by decide) (by decide)
theorem hsort (block : Src) : Statement (.hsort block) := of_row _ _ _ _ _ rfl rfl (by decide) (by decide)
theorem route (rec : Src) : Statement (.route rec) := of_row _ _ _ _ _ rfl rfl (by decide) (by decide)
theorem rtbl (rec : Src) : Statement (.rtbl rec) := of_row _ _ _ _ _ rfl rfl (by decide) (by decide)
theorem mrg (rec : Src) : Statement (.mrg rec) := of_row _ _ _ _ _ rfl rfl (by decide) (by decide)
theorem umrg (rec : Src) : Statement (.umrg rec) := of_row _ _ _ _ _ rfl rfl (by decide) (by decide)
theorem rmstat (rec : Src) : Statement (.rmstat rec) := of_row _ _ _ _ _ rfl rfl (by decide) (by decide)
theorem xsend (src count : Src) (w : Nat) : Statement (.xsend src count w) := of_row _ _ _ _ _ rfl rfl (by decide) (by decide)
theorem xrecv (dst : Src) (w : Nat) : Statement (.xrecv dst w) := of_row _ _ _ _ _ rfl rfl (by decide) (by decide)
theorem xput (src drec : Src) : Statement (.xput src drec) := of_row _ _ _ _ _ rfl rfl (by decide) (by decide)
theorem rput (sh val : Src) (off : Int) : Statement (.rput sh val off) := of_row _ _ _ _ _ rfl rfl (by decide) (by decide)
theorem rget (d : Dst) (sh : Src) : Statement (.rget d sh) := of_row _ _ _ _ _ rfl rfl (by decide) (by decide)
theorem renq (handle rec : Src) : Statement (.renq handle rec) := of_row _ _ _ _ _ rfl rfl (by decide) (by decide)
theorem wenq (target rec : Src) : Statement (.wenq target rec) := of_row _ _ _ _ _ rfl rfl (by decide) (by decide)
theorem qpop (dst : Src) : Statement (.qpop dst) := of_row _ _ _ _ _ rfl rfl (by decide) (by decide)
theorem qtry (dst : Src) : Statement (.qtry dst) := of_row _ _ _ _ _ rfl rfl (by decide) (by decide)
theorem permit (walk n : Src) : Statement (.permit walk n) := of_row _ _ _ _ _ rfl rfl (by decide) (by decide)
theorem walk (rec : Src) : Statement (.walk rec) := of_row _ _ _ _ _ rfl rfl (by decide) (by decide)
theorem chimex (layer : Src) : Statement (.chimex layer) := of_row _ _ _ _ _ rfl rfl (by decide) (by decide)
theorem succ (i : Fin 8) (ma mb : Src) : Statement (.succ i ma mb) := of_row _ _ _ _ _ rfl rfl (by decide) (by decide)
theorem carve (word : Src) : Statement (.carve word) := of_row _ _ _ _ _ rfl rfl (by decide) (by decide)
theorem launch (handle rec : Src) : Statement (.launch handle rec) := of_row _ _ _ _ _ rfl rfl (by decide) (by decide)
theorem sig (ctr : Src) : Statement (.sig ctr) := of_row _ _ _ _ _ rfl rfl (by decide) (by decide)
theorem rdcsr (n : Csr) : Statement (.rdcsr n) := of_row _ _ _ _ _ rfl rfl (by decide) (by decide)
theorem wrcsr (n : Csr) (x : Src) : Statement (.wrcsr n x) := of_row _ _ _ _ _ rfl rfl (by decide) (by decide)
theorem mbox (x y : Src) : Statement (.mbox x y) := of_row _ _ _ _ _ rfl rfl (by decide) (by decide)
theorem park (core : Src) : Statement (.park core) := of_row _ _ _ _ _ rfl rfl (by decide) (by decide)
theorem unpark (core : Src) (mode : UnparkMode) : Statement (.unpark core mode) := of_row _ _ _ _ _ rfl rfl (by decide) (by decide)
theorem rpl (core : Src) (i : Nat) : Statement (.rpl core i) := of_row _ _ _ _ _ rfl rfl (by decide) (by decide)
theorem wpl (core : Src) (i : Nat) (x : Src) : Statement (.wpl core i x) := of_row _ _ _ _ _ rfl rfl (by decide) (by decide)
theorem tlbinv (addr sel : Src) : Statement (.tlbinv addr sel) := of_row _ _ _ _ _ rfl rfl (by decide) (by decide)
theorem pclr (line : Src) : Statement (.pclr line) := of_row _ _ _ _ _ rfl rfl (by decide) (by decide)
theorem ctxsave (team area : Src) : Statement (.ctxsave team area) := of_row _ _ _ _ _ rfl rfl (by decide) (by decide)
theorem ctxload (team area : Src) : Statement (.ctxload team area) := of_row _ _ _ _ _ rfl rfl (by decide) (by decide)
theorem pendingArrival (a : Agent) (tag : Nat) : Statement (.pendingArrival a tag) := of_step _ rfl
theorem ewaitWake (a : Agent) : Statement (.ewaitWake a) := of_step _ rfl
theorem awaitWake (a : Agent) : Statement (.awaitWake a) := of_step _ rfl
theorem wleaseWake (a : Agent) : Statement (.wleaseWake a) := of_step _ rfl
theorem mwaitWake (a : Agent) : Statement (.mwaitWake a) := of_step _ rfl
theorem qpopWake (a : Agent) : Statement (.qpopWake a) := of_step _ rfl
theorem chimeRelease (launch : Nat) : Statement (.chimeRelease launch) := of_step _ rfl
theorem startRelease (launch : Nat) : Statement (.startRelease launch) := of_step _ rfl
theorem remoteArrival (n : Nat) : Statement (.remoteArrival n) := of_step _ rfl
theorem userLevelInterrupt (a : Agent) : Statement (.userLevelInterrupt a) := of_step _ rfl
theorem pageTableWalk (die asid va : Nat) : Statement (.pageTableWalk die asid va) := of_step _ rfl
theorem messageDelivery (die row : Nat) (merge : Bool) : Statement (.messageDelivery die row merge) := of_step _ rfl
theorem globalLoadReturns (a : Agent) (tag : Nat) : Statement (.globalLoadReturns a tag) := of_step _ rfl
theorem atomicCompletes (a : Agent) (tag : Nat) : Statement (.atomicCompletes a tag) := of_step _ rfl
theorem fenceCompletion (a : Agent) : Statement (.fenceCompletion a) := of_step _ rfl
theorem flushWalkCompletes (a : Agent) (tag : Nat) : Statement (.flushWalkCompletes a tag) := of_step _ rfl
theorem releaseCompletion (a : Agent) : Statement (.releaseCompletion a) := of_step _ rfl
theorem pclrCompletion (a : Agent) : Statement (.pclrCompletion a) := of_step _ rfl
theorem tlbinvCompletion (a : Agent) : Statement (.tlbinvCompletion a) := of_step _ rfl
theorem vectorExecution (a : Agent) : Statement (.vectorExecution a) := of_step _ rfl
theorem channelOperationCompletes (a : Agent) (id : Word32) : Statement (.channelOperationCompletes a id) := of_step _ rfl
theorem commandPlacement (a : Agent) (id : Word32) : Statement (.commandPlacement a id) := of_step _ rfl
theorem matrixOperationStart (a : Agent) (stream : Fin 4) : Statement (.matrixOperationStart a stream) := of_step _ rfl
theorem matrixOperationCompletes (a : Agent) (stream : Fin 4) : Statement (.matrixOperationCompletes a stream) := of_step _ rfl
theorem teamRendezvous (team : Nat) : Statement (.teamRendezvous team) := of_step _ rfl
theorem mredMessage (a : Agent) : Statement (.mredMessage a) := of_step _ rfl
theorem commitPoint (a : Agent) : Statement (.commitPoint a) := of_step _ rfl
theorem transactionAbort (a : Agent) : Statement (.transactionAbort a) := of_step _ rfl
theorem routeCompletion (die : Nat) : Statement (.routeCompletion die) := of_step _ rfl
theorem tableStaged (die : Nat) : Statement (.tableStaged die) := of_step _ rfl
theorem rmstatCompletion (a : Agent) (tag : Nat) : Statement (.rmstatCompletion a tag) := of_step _ rfl
theorem mrgCompletion (a : Agent) : Statement (.mrgCompletion a) := of_step _ rfl
theorem windowStart (launch w : Nat) : Statement (.windowStart launch w) := of_step _ rfl
theorem lastPayloadBeat (launch w : Nat) : Statement (.lastPayloadBeat launch w) := of_step _ rfl
theorem windowEnd (launch w : Nat) : Statement (.windowEnd launch w) := of_step _ rfl
theorem xputDelivery (a : Agent) (id : Word32) : Statement (.xputDelivery a id) := of_step _ rfl
theorem rputLanding (a : Agent) (tag : Nat) : Statement (.rputLanding a tag) := of_step _ rfl
theorem rputAcknowledgement (a : Agent) (tag : Nat) : Statement (.rputAcknowledgement a tag) := of_step _ rfl
theorem rgetReply (a : Agent) (tag : Nat) : Statement (.rgetReply a tag) := of_step _ rfl
theorem tileDelivery (owner : Nat) (wid : Fin 8) : Statement (.tileDelivery owner wid) := of_step _ rfl
theorem enqueue (a : Agent) (id : Word32) : Statement (.enqueue a id) := of_step _ rfl
theorem launchRecordTaken (queue : Nat) : Statement (.launchRecordTaken queue) := of_step _ rfl
theorem dependencesMet (launch : Nat) : Statement (.dependencesMet launch) := of_step _ rfl
theorem dispatch (launch team die gx gy : Nat) : Statement (.dispatch launch team die gx gy) := of_step _ rfl
theorem admission (launch : Nat) (place : List (Nat × Nat × Nat)) : Statement (.admission launch place) := of_step _ rfl
theorem teamRetirement (team : Nat) : Statement (.teamRetirement team) := of_step _ rfl
theorem handOver (team : Nat) : Statement (.handOver team) := of_step _ rfl
theorem carveRenegotiation (team : Nat) : Statement (.carveRenegotiation team) := of_step _ rfl
theorem deadlineExpiry (save : Nat) : Statement (.deadlineExpiry save) := of_step _ rfl
theorem cooperativeEviction (save : Nat) : Statement (.cooperativeEviction save) := of_step _ rfl
theorem restore (save : Nat) : Statement (.restore save) := of_step _ rfl
theorem unitLeavesCoherence (u : CohUnit) : Statement (.unitLeavesCoherence u) := of_step _ rfl
theorem softError (line : Nat) : Statement (.softError line) := of_step _ rfl
theorem inv (line from_ : Nat) : Statement (.inv line from_) := of_step _ rfl
theorem invack (line from_ : Nat) : Statement (.invack line from_) := of_step _ rfl
theorem grant (line : Nat) (to_ : Granted) : Statement (.grant line to_) := of_step _ rfl
theorem wback (line : Nat) (data : List Byte) : Statement (.wback line data) := of_step _ rfl
theorem poison (line : Nat) : Statement (.poison line) := of_step _ rfl
theorem chimearr (launch module : Nat) (given : List (Option (BitVec 16))) : Statement (.chimearr launch module given) := of_step _ rfl
theorem chimerel (launch : Nat) (release : Option (Option (BitVec 16))) : Statement (.chimerel launch release) := of_step _ rfl
theorem qrec (from_ : Nat) (handle : Word) (rec : FarRecord) (sv : List Word) : Statement (.qrec from_ handle rec sv) := of_step _ rfl
theorem qack (a : Agent) (id : Word32) (code : Fin 4) : Statement (.qack a id code) := of_step _ rfl
theorem myzilTlbinv (from_ : Nat) (addr sel : Word) : Statement (.myzilTlbinv from_ addr sel) := of_step _ rfl
theorem tlback (from_ : Nat) : Statement (.tlback from_) := of_step _ rfl
theorem notice (vector : Nat) : Statement (.notice vector) := of_step _ rfl
theorem linkUp (n : Fin 32) : Statement (.linkUp n) := of_step _ rfl
theorem linkDown (n : Fin 32) : Statement (.linkDown n) := of_step _ rfl
theorem moduleReset (made : List Byte) : Statement (.moduleReset made) := of_step _ rfl
theorem selfTestComplete (fn : ModFn) (ok : Bool) : Statement (.selfTestComplete fn ok) := of_step _ rfl
theorem frameReceive (port : EthPort) (pa : Nat) (data : List Byte) (counter : Nat) :
    Statement (.frameReceive port pa data counter) := of_step _ rfl
theorem frameTransmit (port : EthPort) (pa len : Nat) : Statement (.frameTransmit port pa len) := of_step _ rfl
theorem hostRead (bar : Fin 3) (off len : Nat) : Statement (.hostRead bar off len) := of_step _ rfl
theorem hostWrite (bar : Fin 3) (off : Nat) (data : List Byte) : Statement (.hostWrite bar off data) := of_step _ rfl
theorem doorbell (queue : Nat) (index : Word) : Statement (.doorbell queue index) := of_step _ rfl
theorem queueDescriptorWrite (queue : Nat) (word : Fin 4) (x : Word) : Statement (.queueDescriptorWrite queue word x) := of_step _ rfl
theorem run : Statement .run := of_step _ rfl
theorem idle : Statement .idle := of_step _ rfl
theorem standby : Statement .standby := of_step _ rfl
theorem off : Statement .off := of_step _ rfl
theorem clusterGate (die cluster : Nat) (gate : Bool) : Statement (.clusterGate die cluster gate) := of_step _ rfl
theorem dieGate (die : Nat) (gate : Bool) : Statement (.dieGate die gate) := of_step _ rfl
theorem sliceGate (die slice : Nat) (gate : Bool) : Statement (.sliceGate die slice gate) := of_step _ rfl
theorem pcapWrite (cap : BitVec 16) : Statement (.pcapWrite cap) := of_step _ rfl
theorem thermalAlarm (temp : BitVec 16) : Statement (.thermalAlarm temp) := of_step _ rfl
theorem fallback : Statement .fallback := of_step _ rfl
theorem alarmClear : Statement .alarmClear := of_step _ rfl
theorem modidWrite (id : BitVec 9) : Statement (.modidWrite id) := of_step _ rfl
theorem loadImage (buf len : Word) : Statement (.loadImage buf len) := of_step _ rfl
theorem attestationQuote (buf len : Word) : Statement (.attestationQuote buf len) := of_step _ rfl
theorem readIdentity (buf len : Word) : Statement (.readIdentity buf len) := of_step _ rfl
theorem firmwareRequestDone : Statement .firmwareRequestDone := of_step _ rfl
theorem registerWrite (off : Nat) (x : Word) : Statement (.registerWrite off x) := of_step _ rfl
theorem plotRegistration (a : Agent) (tag : Nat) : Statement (.plotRegistration a tag) := of_step _ rfl

end Sys2Proof.Laws.Encoding
end

