-- ==== Sys2Proof/Tests/Slice0.lean ====
section
/-! SUPPORT. The model's own tests: decoded words, ill-formed instructions, a step of each kind, and for each statement
a state and operands that meet its hypotheses. -/

section

set_option Elab.async false

open Sys2Proof Sys2Proof.Machine

namespace Sys2Proof.Tests

/-! ## Decoding

The words are those of the worked encodings of the spec, one table per page. -/

/-- The words decode to the instruction, which is well formed and encodes to them. -/
def reads (p : List Nat × Instr) : Bool :=
  decodeWords p.1 == .instr p.2 p.1.length && p.2.wf && encode p.2 == p.1

/-- R50 of the encoding section and R105. -/
theorem test_decode_page0 : ([
    ([0x0000], .nop), ([0x73FD], .li (-3)), ([0xF061, 0x72A0], .li 100000), ([0xF500, 0x0902], .put (.m 40) (.t 2)),
    ([0xFD11, 0x0C00], .add (.t 0) (.c 17)), ([0x9FE0], .jr (.k 15)), ([0xA29B], .dbnz 4 (-5)),
    ([0xA640], .ewait (.k 2)), ([0xA840], .earr (.t 2)), ([0xAE20], .await (.k 1)), ([0xB400], .chime),
    ([0xB800], .yield), ([0xC003], .brk 3)] : List (List Nat × Instr)).all reads = true := by decide +kernel

/-- The worked encodings of R124. -/
theorem test_decode_page1 : ([
    ([0xF840, 0xF410, 0x1A45], .mulhu (.k 2) (.m 5)), ([0xF841, 0xF404, 0x2C30], .madd (.t 1) (.k 0) (.m 33)),
    ([0xF862, 0x0623], .sel (.k 1) (.t 3) (.m 2)), ([0xF842, 0xF096, 0x0801], .bmux (.t 0) (.t 1) (.t 2) 6 9),
    ([0xF840, 0xF410, 0x1EA9], .div (.k 5) (.m 9)), ([0xF840, 0xF108, 0x3A60], .bdep (.k 3) (.t 0) 8 4),
    ([0xF840, 0x50A0], .rdsv 5), ([0xF840, 0x54B1], .wrsv 5 (.k 1)), ([0xF840, 0x5800], .rdtime)]
    : List (List Nat × Instr)).all reads = true := by decide +kernel

/-- The worked encodings of R173. -/
theorem test_decode_page2 : ([
    ([0xF8A5, 0x0672], .ldg .w true .die (.k 3) (.k 2) 0),
    ([0xF8B7, 0xF420, 0xF010, 0x0A48], .stg .d true .sys (.k 2) (.m 40) 16),
    ([0xF880, 0x0C14], .amoW .add .cl (.t 0) (.k 4)), ([0xF895, 0x1251], .amoD .max .die (.k 2) (.k 1)),
    ([0xF8A3, 0xF001, 0x1651], .casW .die (.k 2) (.k 1) (.m 3)), ([0xF889, 0x1C00], .fence .rel .die false),
    ([0xF892, 0x1C00], .fence .full .pkg true), ([0xF880, 0x2000], .ifence),
    ([0xF884, 0x2653], .flush .clean .l2 (.k 2) (.k 3)), ([0xF880, 0xF001, 0x2A53], .pref (.k 2) (.k 3) 1),
    ([0xF880, 0xF001, 0x2E53], .resid (.k 2) (.k 3) 1)] : List (List Nat × Instr)).all reads = true := by
  decide +kernel

/-- The worked encodings of R212. -/
theorem test_decode_page3 : ([
    ([0xF8C0, 0x04C1], .vcfg .fp32 1), ([0xF8C3, 0x0822], .vadd 1 2 3), ([0xF8C6, 0x1885], .vfma 4 5 6),
    ([0xF8E2, 0x6C22], .vceq 2 1 2), ([0xF8C0, 0xF420, 0x7C08], .vsplat 0 (.m 40)), ([0xF8C2, 0x90E0], .vred .max 7),
    ([0xF8C0, 0xF00B, 0x9509], .vcvt (.shared .fp32) (.shared .bf16) .rne 8 9),
    ([0xF8E3, 0xF004, 0x9822], .vmask 4 3 1 2), ([0xF8C0, 0x9C72], .vld 3 (.k 2)),
    ([0xF8C2, 0xAC33], .vgath 1 (.k 3) 2)] : List (List Nat × Instr)).all reads = true := by decide +kernel

/-- The worked encodings of R262. -/
theorem test_decode_page4 : ([
    ([0xF922, 0xF410, 0x0400], .mma 0 (.m 0) 1), ([0xF924, 0x0830], .mmat 1 (.k 0) 2),
    ([0xF900, 0xF010, 0x0C00], .mred false 0 16), ([0xF900, 0xF084, 0x0C40], .mred true 2 4),
    ([0xF900, 0x1060], .mzero 3), ([0xF900, 0x1432], .mld 1 (.k 2)), ([0xF900, 0x1812], .mst .bf16 .rne 0 (.k 2)),
    ([0xF926, 0x1833], .mst .qb4 .sr 1 (.k 3)), ([0xF900, 0xF005, 0x1C20], .amov 1 0 5), ([0xF900, 0x2040], .mwait 2)]
    : List (List Nat × Instr)).all reads = true := by decide +kernel

/-- The worked encodings of R241 and R104. -/
theorem test_decode_page5 : ([
    ([0xF940, 0x0632], .copy (.k 1) (.k 2)), ([0xF968, 0xF001, 0x0A11], .copyf (.k 0) (.k 1) 2 false),
    ([0xF952, 0x0E11], .gath (.k 0) (.k 1) (.k 2)), ([0xF940, 0xF003, 0x1000], .stage 3), ([0xF940, 0x1400], .xdone),
    ([0xF940, 0x2AA0], .uien (.k 5)), ([0xF940, 0x2C00], .uidis), ([0xF940, 0x3000], .uiret),
    ([0xF940, 0x1A11], .einit (.k 0) (.k 1))] : List (List Nat × Instr)).all reads = true := by decide +kernel

/-- The worked encodings of R299. -/
theorem test_decode_page6 : ([
    ([0xF980, 0xF014, 0x0400], .tbegin 20), ([0xF980, 0x0800], .tend), ([0xF980, 0xF007, 0x0C00], .tabort 7),
    ([0xF980, 0x1000], .tstat), ([0xF980, 0x1651], .tcaddW (.k 2) (.k 1)), ([0xF980, 0x1811], .tcaddF (.t 0) (.k 1)),
    ([0xF980, 0x1E51], .tcmaxW (.k 2) (.k 1)), ([0xF980, 0x2251], .tcminW (.k 2) (.k 1)),
    ([0xF980, 0xF420, 0x2648], .tcorD (.k 2) (.m 40)), ([0xF980, 0x2800], .tdepth)]
    : List (List Nat × Instr)).all reads = true := by decide +kernel

/-- The worked encodings of R304 and R325. -/
theorem test_decode_page7 : ([
    ([0xF9D5, 0x0640], .hsift (.k 2) (.t 0) (.k 5)), ([0xF9D5, 0x0A43], .vhsift (.k 2) 3 (.k 5)),
    ([0xF9C0, 0x0E40], .hsort (.k 2)), ([0xF9C0, 0x1220], .route (.k 1)), ([0xF9C0, 0x1620], .rtbl (.k 1)),
    ([0xF9C0, 0x2280], .rmstat (.k 4)), ([0xF9C0, 0x1800], .mrg (.t 0)), ([0xF9C0, 0x1A60], .mrg (.k 3)),
    ([0xF9C0, 0x1C00], .umrg (.t 0))] : List (List Nat × Instr)).all reads = true := by decide +kernel

/-- The worked encodings of R349, but for that of `xrecv k3, #5`: its base word follows from the fields (log entry 9).
-/
theorem test_decode_page8 : ([
    ([0xFA00, 0xF003, 0x0632], .xsend (.k 1) (.k 2) 3), ([0xFA00, 0xF005, 0x0A60], .xrecv (.k 3) 5),
    ([0xFA00, 0xF490, 0x050C], .xsend (.m 8) (.m 12) 0), ([0xFA00, 0x0E32], .xput (.k 1) (.k 2)),
    ([0xFA00, 0xF010, 0x1251], .rput (.k 2) (.k 1) 16), ([0xFA00, 0x1692], .rget (.k 4) (.k 2)),
    ([0xFA00, 0x1A32], .renq (.k 1) (.k 2)), ([0xFA00, 0x2260], .qpop (.k 3)),
    ([0xFA00, 0x2A20], .permit (.k 1) (.t 0)), ([0xFA00, 0x2E40], .walk (.k 2)),
    ([0xFA00, 0xFC0E, 0x3000], .chimex (.c 14))] : List (List Nat × Instr)).all reads = true := by decide +kernel

/-- The worked encodings of R375 and R409. -/
theorem test_decode_page9 : ([
    ([0xFA51, 0x0450], .succ 2 (.k 0) (.k 1)), ([0xFA61, 0xF410, 0x0400], .succ 0 (.m 0) (.m 1)),
    ([0xFA40, 0x0A60], .carve (.k 3)), ([0xFA40, 0x0E32], .launch (.k 1) (.k 2)), ([0xFA40, 0x1280], .sig (.k 4)),
    ([0xFA40, 0x1E32], .mbox (.k 1) (.k 2)), ([0xFA40, 0x2220], .park (.k 1)),
    ([0xFA40, 0xF001, 0x2620], .unpark (.k 1) .replay), ([0xFA40, 0xF040, 0x2A20], .rpl (.k 1) 64),
    ([0xFA40, 0xF044, 0x2E32], .wpl (.k 1) 68 (.k 2)), ([0xFA40, 0x3253], .tlbinv (.k 2) (.k 3)),
    ([0xFA40, 0x3640], .pclr (.k 2)), ([0xFA40, 0x3A32], .ctxsave (.k 1) (.k 2)),
    ([0xFA40, 0x3E32], .ctxload (.k 1) (.k 2))] : List (List Nat × Instr)).all reads = true := by decide +kernel

/-- Reserved words of R47 and R124 trap at their first word (R50, R52). -/
theorem test_decode_reserved :
    decodeWords [0xC800] = .bad ⟨.illegal, 0, 1⟩ ∧ decodeWords [0xF800, 0x0C00] = .bad ⟨.illegal, 0, 1⟩ ∧
      decodeWords [0xF3FF] = .more := by decide +kernel

/-- A CSR number that R407 does not list is ILLEGAL (R408), here the number 0 of a missing IMM and 0x3FF; NFLAGS is
0x010. -/
theorem test_decode_csr : decodeTableWord 32 0xFA401800 = none ∧
    decodeWords [0xFA40, 0xF3FF, 0x1400] = .bad ⟨.illegal, 2, 3⟩ ∧
    reads ([0xFA40, 0xF010, 0x1400], .rdcsr .nflags) = true := by decide +kernel

/-! ## Well-formedness

One ill-formed instruction for each check. -/

/-- Each is ill formed: an immediate too wide (R38), two constant words (R39), a range (R50), an agent outside the
part (R8). -/
theorem test_wf_refuses : ([
    .addi (.t 0) (2 ^ 44), .andi (.t 0) (2 ^ 45), .shli (.t 0) 64, .li (2 ^ 49), .lld .d (.m 40) (2 ^ 29),
    .lstB (.c 0) (.c 1) 0, .br (-(2 ^ 49) - 1), .bz (.t 0) (2 ^ 44), .dbnz 0 (2 ^ 44), .brk 1024, .svc 1024,
    .sel (.c 0) (.t 0) (.c 1), .add (.c 0) (.c 1), .amoD .fadd .cl (.t 0) (.t 1), .amoD .max .cl (.c 0) (.c 1),
    .bdep (.t 0) (.t 1) 0 65, .sext (.t 0) 0, .zext (.t 0) 65, .ldg .w false .cl (.k 0) (.t 0) (2 ^ 29),
    .stg .w false .cl (.t 0) (.t 1) (2 ^ 29), .mred false 0 0, .amov 0 0 80, .stage 257, .tbegin (2 ^ 29),
    .tabort 256, .xsend (.t 0) (.t 1) 256, .xrecv (.t 0) 256, .rpl (.t 0) 256, .wpl (.t 0) 256 (.t 1),
    .ewaitWake (.tile 2560), .commitPoint (.sup 8)] : List Instr).all (fun i => !i.wf) = true := by decide +kernel

/-! ## Witnesses

For each statement, states and operands that meet its hypotheses together. -/

/-- The control registers of a core with a local memory of 256 KiB and nothing carved. -/
def csr0 : Csrs := { carvew := 16 + 31 * 64, xnext := 5, xdone := 4 }

/-- Registers with the given k registers, the others zero. -/
def regs0 (ks : List Word) : Regs := { k := Vector.ofFn fun i => ks.getD i.val 0 }

/-- A tile core that runs a task, about to execute a two-byte chain at 0x1000. -/
def tileCore (ks : List Word) : Core :=
  { who := .tile 0, run := .running, pc := 0x1000, nextPc := 0x1002, regs := regs0 ks, csr := csr0
    task := some { launch := 1, team := 1, rank := 0, gang := false, ctx := 1, asid := 0 } }

/-- A module whose tile core 0 runs, with the ports ready. -/
def st (ks : List Word) : State :=
  { core := tileCore ks, ports := { ready := BitVec.allOnes 64 } }

/-- The same with the supervisor core of die 0. -/
def sp (ks : List Word) : State :=
  { core := { tileCore ks with who := .sup 0, task := none }, ports := { ready := BitVec.allOnes 64 } }

/-- A core with no pending position and no lease reads any operand. -/
theorem canRead_of (c : Core) (h1 : ∀ i : Fin 16, (c.train.get i).tag = none) (h2 : c.leases = []) (xs names) :
    c.CanRead xs names := by
  refine ⟨fun x _ => ?_, fun r _ => by simp [Core.leased, h2]⟩
  cases x <;> simp [Core.pending, h1]

theorem canRead_st (ks xs names) : (st ks).core.CanRead xs names := by
  refine canRead_of _ (fun i => ?_) rfl xs names
  rw [show (st ks).core.train = Vector.replicate 16 {} by unfold Core.train; split <;> rfl]; simp [Vector.get]

theorem canRead_sp (ks xs names) : (sp ks).core.CanRead xs names := by
  refine canRead_of _ (fun i => ?_) rfl xs names
  rw [show (sp ks).core.train = Vector.replicate 16 {} by unfold Core.train; split <;> rfl]; simp [Vector.get]

/-- The division corner and a constant operand, of ScalarInstructionsPushTheirResult. -/
theorem witness_scalar : (∃ p, ScalarRule (st [1 <<< 63, -1]).core (st [1 <<< 63, -1]).time (.div (.k 0) (.k 1))
      [.k 0, .k 1] p) ∧ (Instr.div (.k 0) (.k 1)).wf = true ∧
    (st [1 <<< 63, -1]).core.CanRead [.k 0, .k 1] (namesOf [.k 0, .k 1]) ∧
    ∃ p, ScalarRule (st []).core (st []).time (.sel (.t 15) (.m 63) (.c 255)) [.t 15, .m 63, .c 255] p :=
  ⟨⟨_, .div _ _⟩, by decide, canRead_st .., ⟨_, .sel _ _ _⟩⟩

/-- The last doubleword of the local memory, of LocalAccessesMoveTheirBytes. -/
theorem witness_local : (st [0x3FFF8]).core.CanRead [.k 0, .k 1] (namesOf [.k 0, .k 1]) ∧
    (st [0x3FFF8]).core.CanRead [.k 0] (namesOf [.k 0]) ∧
    LocalOk (st [0x3FFF8]).core ((st [0x3FFF8]).core.value (.k 0)) 0 8 false 0x3FFF8 ∧
    LocalOk (st [0x3FFF8]).core ((st [0x3FFF8]).core.value (.k 0)) 0 8 true 0x3FFF8 ∧
    (st [0x3FFF8]).core.vectorHolds 0x3FFF8 8 = false ∧ (st [0x3FFF8]).core.entryRoom = true ∧
    (st [0x3FFF8]).core.scratch.wf = true ∧ StoreForm (.lstD (.k 0) (.k 1) 0) (.k 0) (.k 1) 0 8 := by
  refine ⟨canRead_st .., canRead_st .., ?_, ?_, by decide +kernel, by decide +kernel, by decide, .lstD _ _ _⟩ <;>
    (unfold LocalOk; decide +kernel)

/-- A core that has locked the first bytes above its constants as the destination of an operation. -/
def lockedSt (ks : List Word) : State :=
  { st ks with core := { tileCore ks with locks := [{ own := 9, dst := true, glob := false, low := 0x5000, high := 0x6000 },
                                                   { own := 9, dst := true, glob := true, low := 0x5000, high := 0x6000 }] } }

/-- A fault of each check, in order, of LocalAccessFaultsInTheOrderOfItsChecks. -/
theorem witness_local_faults :
    localFault (st [-1]).core ((st [-1]).core.value (.k 0)) 0 8 false = some .carve ∧
    localFault (st [0x40001]).core ((st [0x40001]).core.value (.k 0)) 0 2 false = some .align ∧
    localFault (st [0x40000]).core ((st [0x40000]).core.value (.k 0)) 0 1 false = some .carve ∧
    localFault (st [0x7FF]).core ((st [0x7FF]).core.value (.k 0)) 0 1 true = some .carve ∧
    localFault (lockedSt [0x5000]).core ((lockedSt [0x5000]).core.value (.k 0)) 0 8 false = some .rangelock := by
  decide +kernel

/-- Both outcomes of a branch, the last register as its counter, and an odd target, of BranchesGoToTheirTarget. -/
theorem witness_branch : (∃ w t, BranchRule (st []).core (.dbnz 15 (-1)) [] [.scalar (.k 15)] w t) ∧
    (∃ t, BranchRule (st [0]).core (.bz (.k 0) 4) [.k 0] (namesOf [.k 0]) none t) ∧
    (∃ t, BranchRule (st [2]).core (.jr (.k 0)) [.k 0] (namesOf [.k 0]) none t) ∧
    (st [0]).core.CanRead [.k 0] (namesOf [.k 0]) ∧ (st []).core.CanRead [] [.scalar (.k 15)] ∧
    ((st [3]).core.value (.k 0)).getLsbD 0 = true ∧ (st [3]).core.tx.depth = 0 ∧ (st [3]).core.run ≠ .parked :=
  ⟨⟨_, _, .dbnz 15 _⟩, ⟨_, .bz _ _⟩, ⟨_, .jr _ (by decide +kernel)⟩, canRead_st .., canRead_st .., by decide +kernel,
    by decide, by decide⟩

/-- The first and the last escapement, and the extreme byte counts, of EscapementWritesKeepEveryOtherByte. -/
theorem witness_escapement : OwnRef ((st [0x800, 0xFFFFFFFF]).core.value (.k 0)) 0 ∧
    OwnRef ((st [0x47F0, 0]).core.value (.k 0)) 1023 ∧ (st [0x800, 0xFFFFFFFF]).core.CanRead [.k 0, .k 1] (namesOf [.k 0, .k 1]) ∧
    ((st [0x800, 0xFFFFFFFF]).core.value (.k 1)).toNat < 2 ^ 32 ∧ (st [0x800]).core.vectorHolds (0x800 + 16 * 0) 16 = false ∧
    (st [0x47F0]).core.vectorHolds (0x800 + 16 * 1023) 16 = false ∧ (st [0x47F0]).core.gathers = [] ∧
    (st [0x800]).core.scratch.wf = true ∧ ((st [0x800]).core.esc 0).odd = false ∧
    -(2 ^ 31) ≤ ((st [0, -(2 ^ 31)]).core.value (.k 1)).toInt ∧ ((st [0, 2 ^ 31 - 1]).core.value (.k 1)).toInt < 2 ^ 31 := by
  refine ⟨by unfold OwnRef; decide +kernel, by unfold OwnRef; decide +kernel, canRead_st .., ?_⟩; decide +kernel

/-- One arrival and the largest run, on the last escapement, of ArrivalsLandOnTheOwnEscapement. -/
theorem witness_arrival : OwnRef ((st [0x47F0, 0xFFFFFFFF]).core.value (.k 0)) 1023 ∧
    ((st [0x47F0]).core.esc 1023).odd = false ∧ (st [0x47F0]).core.accessesDone false = true ∧
    (st [0x47F0]).core.localsDone = true ∧ (st [0x47F0]).core.rputUnlanded (st [0x47F0]).serial = false ∧
    (∀ g ∈ (st [0x47F0]).core.gathers, g.e = 1023 → g.time ≠ 0) ∧
    (st [0x47F0]).core.scratch.wf = true ∧ 0 < ((st [0x47F0, 0xFFFFFFFF]).core.value (.k 1)).toNat ∧
    ((st [0x47F0, 0xFFFFFFFF]).core.value (.k 1)).toNat < 2 ^ 32 ∧ (st [0x47F0]).core.entryRoom = true ∧
    ((st [0x47F0]).core.esc 1023).ph < 16 :=
  ⟨by unfold OwnRef; decide +kernel, by decide +kernel⟩

/-- A core with odd bits in escapement 0. -/
def oddSt : State := { st [0x800, 1] with core := { tileCore [0x800, 1] with scratch := [(0x80D, 1)] } }

/-- A reference that fails each check, values out of range, and odd bits, of EscapementWritesKeepEveryOtherByte; and
`earrn` of no arrivals, of ArrivalsLandOnTheOwnEscapement. -/
theorem witness_references :
    let bad (x : Word) (own : Bool) := refFault (st [x]) ((st [x]).core.value (.k 0)) own
    (∃ xs x own, EscForm (.earrn (.k 0) (.k 1)) xs x own) ∧ (∃ xs x own, EscForm (.etest (.k 0)) xs x own) ∧
    (∀ ks, (st ks).core.CanRead [.k 0, .k 1] (namesOf [.k 0, .k 1]) ∧ (st ks).core.inHandler = false ∧ (st ks).core.tx.depth = 0) ∧
    bad (2 ^ 37 + 0x800) false = some .format ∧ bad (2 ^ 36 + 0x800) true = some .format ∧ bad 0x801 true = some .align ∧
    bad 0x7F0 true = some .carve ∧ bad 0x4800 false = some .carve ∧ bad (2 ^ 36 + 5 * 2 ^ 24 + 0x800) false = some .remote ∧
    bad 0x47F0 false = none ∧ escValueBad (st [0x800, 2 ^ 32]).core (.einit (.k 0) (.k 1)) ∧
    escValueBad (st [0x800, 2 ^ 31]).core (.eexp (.k 0) (.k 1)) ∧ ¬ escValueBad oddSt.core (.eexp (.k 0) (.k 1)) ∧
    OwnRef (oddSt.core.value (.k 0)) 0 ∧ (oddSt.core.esc 0).odd = true ∧ oddSt.core.vectorHolds 0x800 16 = false ∧
    (st [0x47F0, 0]).core.value (.k 1) = 0 ∧
    ∀ e < 1024, ((st [0x47F0, 0]).core.esc e).odd = false ∧ (st [0x47F0, 0]).core.vectorHolds (0x800 + 16 * e) 16 = false := by
  refine ⟨⟨_, _, _, .earrn _ _⟩, ⟨_, _, _, .etest _⟩, fun ks => ⟨canRead_st .., ?_, rfl⟩, by decide +kernel, by decide +kernel,
    by decide +kernel, by decide +kernel, by decide +kernel, by decide +kernel, by decide +kernel,
    by unfold escValueBad; decide +kernel, by unfold escValueBad; decide +kernel, by unfold escValueBad; decide +kernel,
    by unfold OwnRef; decide +kernel, by decide +kernel⟩
  show (st []).core.inHandler = false
  decide

/-- A load that has not been performed. -/
def loadOut : Entry := { tag := 3, instr := .ldg .d false .cl (.k 2) (.k 0) 0, addr := 0 }

/-- No handler and no transaction, an own escapement, and every outcome of each wait, of
BlockingInstructionsCompleteOrBlock: phase 0 awaited at parity 9 and 8, ids 5, 4 and 3, with a load out and without, a
free register and a leased one. -/
theorem witness_blocking : (st []).core.inHandler = false ∧ (st []).core.tx.depth = 0 ∧
    OwnRef ((st [0x8000000000000800]).core.value (.k 0)) 0 ∧ OwnRef ((st [0x9000000000000800]).core.value (.k 0)) 0 ∧
    ((st []).core.esc 0).odd = false ∧ (16 - fld (0x8000000000000800 : Word) 63 60) % 16 = 8 ∧
    (16 - fld (0x9000000000000800 : Word) 63 60) % 16 = 7 ∧ (st []).core.loadsBack = true ∧ (st []).core.gathers = [] ∧
    (st []).core.esc 0 = ({ tileCore [] with entries := [loadOut] } : Core).esc 0 ∧
    ({ tileCore [] with entries := [loadOut] } : Core).loadsBack = false ∧
    2 ^ 31 ≤ ((st []).core.csr.xnext - 1 - 5).toNat ∧ ((st []).core.csr.xdone - 3).toNat = 1 ∧
    ((st []).core.csr.xdone - 4).toNat = 0 ∧ ((st []).core.csr.xnext - 1 - 4).toNat = 0 ∧ (st []).core.leased (.acc 3) = false ∧
    (({ tileCore [] with leases := [{ reg := .acc 3, own := 1 }] } : Core).leased (.acc 3)) = true :=
  ⟨by decide, by decide, by unfold OwnRef; decide +kernel, by unfold OwnRef; decide +kernel, by decide +kernel⟩

/-- A core in a state of its run. -/
def runs (r : Run) : State := { st [] with core := { tileCore [] with run := r } }

/-- Each wait with its condition met, of WakesGoOnAfterTheBlockingChain. -/
theorem witness_wakes : ((runs (.blocked (.ewait 0 9))).getCore (.tile 0)).run = .blocked (.ewait 0 9) ∧
    (((runs (.blocked (.ewait 0 9))).getCore (.tile 0)).esc 0).ph < 16 ∧
    ((((runs (.blocked (.ewait 0 9))).getCore (.tile 0)).esc 0).ph + 16 - 9 % 16) % 16 ≤ 7 ∧
    ((runs (.blocked (.await 3))).getCore (.tile 0)).run = .blocked (.await 3) ∧
    (∀ r, ((runs r).getCore (.tile 0)).loadsBack = true ∧ ((runs r).getCore (.tile 0)).gathers = []) ∧
    (∀ b ∈ [Block.ewait 0 9, .await 3], ((runs (.waking b)).getCore (.tile 0)).run = .waking b ∧
      (({ runs (.waking b) with core := { (runs (.waking b)).core with entries := [loadOut] } } : State).getCore
        (.tile 0)).loadsBack = false) ∧
    1 ≤ (((runs (.blocked (.await 3))).getCore (.tile 0)).csr.xdone - 3).toNat ∧
    (((runs (.blocked (.await 3))).getCore (.tile 0)).csr.xdone - 3).toNat < 2 ^ 31 ∧
    ((runs (.blocked (.wlease (.vec 31)))).getCore (.tile 0)).run = .blocked (.wlease (.vec 31)) ∧
    ((runs (.blocked (.wlease (.vec 31)))).getCore (.tile 0)).leased (.vec 31) = false ∧
    ((runs (.blocked (.mwait 3))).getCore (.tile 0)).run = .blocked (.mwait 3) ∧
    ((runs (.blocked (.mwait 3))).getCore (.tile 0)).leased (.acc 3) = false :=
  ⟨by decide +kernel, by decide +kernel, by decide +kernel, by decide +kernel, fun _ => ⟨rfl, rfl⟩, by decide +kernel⟩

/-- A tile core outside a handler and a transaction with no vector instruction, of EndStopsTheThread. -/
theorem witness_end : (st []).core.Plain ∧ (st []).core.vqueue = [] := ⟨by unfold Core.Plain; decide, by decide⟩

/-- A running tile core with no unfinished instruction, and a supervisor core, of
AFaultParksATileAndHaltsASupervisor. -/
theorem witness_fault : (st []).core.isSup = false ∧ (st []).core.tx.depth = 0 ∧ (st []).core.run = .running ∧
    (st []).core.run ≠ .parked ∧ (st []).core.entries = [] ∧ (sp []).core.who = .sup 0 ∧ (sp []).core.tx.depth = 0 ∧ (sp []).core.run ≠ .halted ∧
    (sp []).core.entries = [] := by decide

/-- A core in a handler, and a tile core, of ChainsOutOfTheirModeTakePriv. -/
theorem witness_priv : ({ tileCore [] with csr := { csr0 with uictl := 1 <<< 62 } } : Core).inHandler = true ∧
    (st []).core.isSup = false := by decide +kernel

/-- An unfinished `etest` whose value lands in cycle 1, and an arrival from a core with no earlier remote store, of
PendingValuesAndRemoteArrivalsLand. -/
theorem witness_lands :
    let e : Entry := { tag := 7, instr := .etest (.k 0), addr := 0x1000, tr := true, ready := true, due := some 1 }
    let s := { st [] with core := { tileCore [] with entries := [e] } }
    let r : Arrival := { n := 3, from_ := 4, core := 0, off := 0x800, count := 1, bytes := 0, scope := .cl }
    (s.getCore (.tile 0)).entry e.tag = some e ∧ 1 ≤ s.time + 1 ∧
    ({ st [] with arrivals := [r] } : State).arrivals.find? (fun x => x.n == r.n) = some r ∧
    ({ st [] with arrivals := [r] } : State).arrivalReady r = true := by decide +kernel

/-- A check that answers a value with a property. -/
theorem okOf {α : Type} {r : Res α} {p : α → Bool} (h : (match r with | .ok x => p x | _ => false) = true) :
    ∃ x, r = .ok x ∧ p x = true := by
  cases r <;> simp at h; exact ⟨_, rfl, h⟩

/-- An address of the module's own memory, as its supervisor core reaches it, is at the L2. -/
theorem atTheL2_sp (s : State) (d pa : Nat) (h1 : isDevice pa = false) (h2 : s.foreign pa = false)
    (h3 : s.poisoned pa = false) (h4 : s.clusters = [] ∧ s.ports.held = [])
    (h5 : s.cores.all (fun c => c.tx.depth == 0) = true) : AtTheL2 s (.sup d) pa := by
  refine ⟨rfl, h1, h2, h3, by simp [h4.1], by simp [h4.2], ?_⟩
  simpa [List.all_eq_true] using h5

/-- The last doubleword of the address space of a task, not translated yet, of GlobalAccessesEnterTheMemoryUnit. -/
theorem witness_global_enter :
    let s := st [0xFFFFFFFFFFFF8, 1, 2]
    let o : Ops := { a := s.core.value (.k 0), b := s.core.value (.k 1), c := s.core.value (.k 2) }
    let x : Access := { ea := 0xFFFFFFFFFFFF8, n := 8, kind := .at_, scope := .die }
    AccessForm s.core (.casD .die (.k 0) (.k 1) (.k 2)) [.k 0, .k 1, .k 2] (namesOf [.k 0, .k 1, .k 2]) o true none ∧
    s.core.CanRead [.k 0, .k 1, .k 2] (namesOf [.k 0, .k 1, .k 2]) ∧
    accessOf (.casD .die (.k 0) (.k 1) (.k 2)) o = some x ∧ x.rel = false ∧ x.ea.toNat < 2 ^ 52 ∧ x.ea.toNat % x.n = 0 ∧
    s.core.rangeLocked true x.ea.toNat x.n x.kind.writes = false ∧
    s.translate s.core.who s.core.asid false x.kind x.ea.toNat = .wait ∧ s.core.entryRoom = true ∧ s.core.entries = [] :=
  ⟨.casD _ _ _ _, canRead_st .., by decide +kernel⟩

/-- An access of each kind of fault, of GlobalAccessesFaultInTheOrderOfTheirChecks: the address 2^52, an odd word, and a
word in a locked destination. -/
theorem witness_global_faults :
    let x (a : Word) : Access := { ea := a, n := 4, kind := .at_, scope := .cl }
    (∀ s : State, AccessForm s.core (.amoW .add .cl (.k 0) (.k 1)) [.k 0, .k 1] (namesOf [.k 0, .k 1])
      { a := s.core.value (.k 0), b := s.core.value (.k 1) } true none) ∧
    (∀ ks, (st ks).core.CanRead [.k 0, .k 1] (namesOf [.k 0, .k 1])) ∧
    (lockedSt [0x5FFC]).core.CanRead [.k 0, .k 1] (namesOf [.k 0, .k 1]) ∧ (st []).core.isSup = false ∧
    accessOf (.amoW .add .cl (.k 0) (.k 1)) { a := (st [1 <<< 52]).core.value (.k 0) } = some (x (1 <<< 52)) ∧
    2 ^ 52 ≤ (x (1 <<< 52)).ea.toNat ∧
    accessOf (.amoW .add .cl (.k 0) (.k 1)) { a := (st [0xFFFFFFFFFFFFF]).core.value (.k 0) } = some (x 0xFFFFFFFFFFFFF) ∧
    (x 0xFFFFFFFFFFFFF).ea.toNat < 2 ^ 52 ∧ (x 0xFFFFFFFFFFFFF).ea.toNat % 4 ≠ 0 ∧
    accessOf (.amoW .add .cl (.k 0) (.k 1)) { a := (lockedSt [0x5FFC]).core.value (.k 0) } = some (x 0x5FFC) ∧
    (lockedSt [0x5FFC]).core.rangeLocked true (x 0x5FFC).ea.toNat 4 true = true := by
  refine ⟨fun s => .amoW _ _ _ _, fun ks => canRead_st .., ?_, by decide +kernel⟩
  refine canRead_of _ (fun i => ?_) ?_ _ _
  · rw [show (lockedSt [0x5FFC]).core.train = Vector.replicate 16 {} by unfold Core.train; split <;> rfl]; simp [Vector.get]
  · rfl

/-- A doubleword of die 0's memory that the supervisor core stores to and loads from at the L2, of
GlobalStoreStoresItsBytesAndNoOther and GlobalLoadReadsMemoryAndReturns. -/
theorem witness_global_l2 :
    let s := sp [0x8000, 5]
    s.core.CanRead [.k 0, .k 1] (namesOf [.k 0, .k 1]) ∧ s.core.CanRead [.k 0] (.scalar (.k 2) :: namesOf [.k 0]) ∧
    (0x8000 : Word) = s.core.value (.k 0) + BitVec.ofInt 64 0 ∧ (0x8000 : Word).toNat < 2 ^ 52 ∧
    (0x8000 : Word).toNat % storeBytes .d = 0 ∧ s.core.rangeLocked true 0x8000 8 true = false ∧
    s.core.rangeLocked true 0x8000 8 false = false ∧
    s.translate s.core.who s.core.asid false .wr 0x8000 = .ok (supPage, 0x8000) ∧
    s.translate s.core.who s.core.asid false .rd 0x8000 = .ok (supPage, 0x8000) ∧ AtTheL2 s s.core.who 0x8000 ∧
    s.core.entries = [] ∧ s.mem.wf = true :=
  ⟨canRead_sp .., canRead_sp .., by decide +kernel, by decide +kernel, by decide +kernel, by decide +kernel, by decide +kernel,
    by decide +kernel, by decide +kernel,
    atTheL2_sp _ _ _ (by decide +kernel) (by decide +kernel) (by decide) ⟨rfl, rfl⟩ (by decide), rfl, rfl⟩

/-- The same core with one unfinished instruction, and a state of its run. -/
def spWith (r : Run) (e : List Entry) : State :=
  { sp [] with core := { tileCore [] with who := .sup 0, task := none, run := r, entries := e } }

/-- A returned load, of GlobalLoadReadsMemoryAndReturns, and atomics at the last word before the end of a page's frame,
of AtomicsReadAndWriteOneWordAtOnce. -/
theorem witness_global_unit :
    let l : Entry := { tag := 3, instr := .ldg .w false .cl (.k 2) (.k 0) 0, addr := 0, ready := true, result := 9 }
    let e : Entry := { tag := 3, instr := .casW .sys (.k 0) (.k 1) (.k 2), addr := 0, ops := { a := 0xFFFC, b := 1, c := 2 } }
    let s := spWith .running [e]
    ((spWith .running [l]).getCore (.sup 0)).entries = [l] ∧ l.ready = true ∧
    l.shadow = ((spWith .running [l]).getCore (.sup 0)).inHandler ∧ (s.getCore (.sup 0)).entries = [e] ∧ (∃ f, AtomicRule e.ops e.instr 4 f) ∧
    (∃ f, AtomicRule e.ops (.amoD .swap .sys (.k 0) (.k 1)) 8 f) ∧ (∃ f, AtomicRule e.ops (.amoW .fmax .cl (.k 0) (.k 1)) 4 f) ∧
    e.tx = false ∧ e.ready = false ∧
    (s.getCore (.sup 0)).going = true ∧
    s.translate (.sup 0) (s.getCore (.sup 0)).asid false .at_ e.ops.a.toNat = .ok (supPage, 0xFFFC) ∧ 0xFFFC % 4 = 0 ∧
    AtTheL2 s (.sup 0) 0xFFFC ∧ s.mem.wf = true :=
  ⟨by decide, rfl, by decide, by decide, ⟨_, .casW _ _ _ _⟩, ⟨_, .amoD _ _ _ _ _ .swap⟩, ⟨_, .amoM _ _ _⟩, rfl, rfl, by decide, by decide +kernel, by decide,
    atTheL2_sp _ _ _ (by decide +kernel) (by decide +kernel) (by decide) ⟨rfl, rfl⟩ (by decide), rfl⟩

/-- A vector access of FP32 elements at 0x8000. -/
def vecAccess (i : Instr) : Entry := { tag := 3, instr := i, addr := 0, ops := { b := 0x8000 }, cfg0 := 6 }

/-- A `vldg` and a `vstg` of FP32 elements by the supervisor core, each element at the L2, of
GlobalStoreStoresItsBytesAndNoOther and GlobalLoadReadsMemoryAndReturns. -/
theorem witness_vector_global : ∀ p ∈ [(Instr.vldg 31 (.k 0), Kind.rd), (.vstg 31 (.k 0), .wr)],
    let s := spWith .running [vecAccess p.1]
    VectorMayRun s (.sup 0) (vecAccess p.1) ∧ (s.getCore (.sup 0)).active (vecAccess p.1) 63 = true ∧ s.mem.wf = true ∧
    (∀ i < 64, ∀ j < i, 0x8000 + j * 4 ≠ 0x8000 + i * 4) ∧
    ElementsAtTheL2 s (.sup 0) (vecAccess p.1) p.2 fun j => 0x8000 + j * 4 := by
  intro p hp
  have h : (spWith .running [vecAccess p.1]).issueHalted = false ∧
      ((spWith .running [vecAccess p.1]).getCore (.sup 0)).active (vecAccess p.1) 63 = true ∧
      ∀ j < 64, isDevice (0x8000 + j * 4) = false ∧ (spWith .running [vecAccess p.1]).foreign (0x8000 + j * 4) = false ∧
        (0x8000 + j * 4) % 4 = 0 ∧ (spWith .running [vecAccess p.1]).translate (.sup 0)
          ((spWith .running [vecAccess p.1]).getCore (.sup 0)).asid false p.2 (0x8000 + j * 4) =
            .ok (supPage, 0x8000 + j * 4) := by
    revert p; decide +kernel
  refine ⟨⟨rfl, h.1, rfl⟩, h.2.1, rfl, fun i _ j h => by omega, rfl, ?_⟩
  have hw : vwidth (cfgType (vecAccess p.1).cfg0) = 32 := by
    show vwidth (cfgType 6) = 32
    decide
  simp only [hw]
  intro j hj _
  obtain ⟨a, b, c, d⟩ := h.2.2 j hj
  exact ⟨c, atTheL2_sp _ _ _ a b rfl ⟨rfl, rfl⟩ rfl, supPage, d⟩

/-- A releasing store that issues, and the completions of a fence, of `sig` and of a releasing store, of
FencesAndReleasesHoldTheirCoreUntilDone. -/
theorem witness_fences :
    let i : Instr := .stg .d true .pkg (.k 0) (.k 1) 0
    let e : Entry := { tag := 3, instr := i, addr := 0, ops := { a := 0x8000, b := 1 } }
    let s := spWith (.held i e.ops) [e]
    (st []).core.entryRoom = true ∧ (sp [0x8000]).core.tx.depth = 0 ∧
    (0x8000 : Word) = (sp [0x8000]).core.value (.k 0) + BitVec.ofInt 64 0 ∧
    (sp [0x8000]).core.rangeLocked true 0x8000 8 true = false ∧
    (∀ f, (sp [0x8000]).translate (.sup 0) (sp [0x8000]).core.asid false .wr (0x8000 : Word).toNat ≠ .bad f) ∧
    ((runs (.held (.fence .full .pkg true) {})).getCore (.tile 0)).run = .held (.fence .full .pkg true) {} ∧
    ((runs (.held (.fence .full .pkg true) {})).getCore (.tile 0)).accessesDone true = true ∧
    ((runs (.held (.fence .full .pkg true) {})).release (.tile 0) .pkg).fenceReady (.tile 0) .full .pkg true = true ∧
    ((runs (.held (.sig (.k 0)) { a := 0x7FFF })).getCore (.tile 0)).run = .held (.sig (.k 0)) { a := 0x7FFF } ∧
    ((runs (.held (.sig (.k 0)) { a := 0x7FFF })).getCore (.tile 0)).entries = [] ∧
    (s.getCore (.sup 0)).run = .held i e.ops ∧ (s.getCore (.sup 0)).entries = [e] ∧ e.tx = false ∧ e.ready = false ∧
    (0x8000 : Word) = e.ops.a + BitVec.ofInt 64 0 ∧
    s.translate (.sup 0) (s.getCore (.sup 0)).asid false .wr (0x8000 : Word).toNat = .ok (supPage, 0x8000) ∧
    AtTheL2 s (.sup 0) 0x8000 ∧ s.mem.wf = true := by
  refine ⟨by decide +kernel, by decide, by decide +kernel, by decide +kernel, ?_, by decide, by decide +kernel, by decide +kernel,
    by decide, by decide, by decide, by decide, rfl, rfl, by decide +kernel, by decide +kernel, ?_, rfl⟩
  · rw [show (sp [0x8000]).translate (.sup 0) (sp [0x8000]).core.asid false .wr (0x8000 : Word).toNat = .ok (supPage, 0x8000)
      by decide +kernel]
    intro f h; cases h
  · exact atTheL2_sp _ _ _ (by decide +kernel) (by decide +kernel) (by decide) ⟨rfl, rfl⟩ (by decide)

/-- The longest flush, of CacheControlRetires. -/
theorem witness_cache : (st []).core.tx.depth = 0 ∧ (st [0, 0x100000000]).core.CanRead [.k 0, .k 1] (namesOf [.k 0, .k 1]) ∧
    ((st [0, 0x100000000]).core.value (.k 1)).toNat ≤ 2 ^ 32 ∧ (st []).core.flushes < 4 ∧ (st []).core.entryRoom = true :=
  ⟨by decide, canRead_st .., by decide +kernel⟩

/-- A `resid` over a line whose translation is held, of CacheControlRetires. -/
theorem witness_resid :
    let s : State := { st [0x8000, 128] with
      clusters := [{ id := 0, tlb := [⟨0, 0, 30, 0, true, false, .cl, true, true, false⟩] }] }
    s.core.CanRead [.k 0, .k 1] (namesOf [.k 0, .k 1]) ∧ s.core.who = .tile 0 ∧
    ∀ va, (s.core.value (.k 0)).toNat ≤ va → va < (s.core.value (.k 0)).toNat + (s.core.value (.k 1)).toNat →
      (s.tlbFind (dieOfCluster (clusterOf 0)) (clusterOf 0) s.core.asid va).isSome = true := by
  intro s
  refine ⟨canRead_st .., by decide, fun va h1 h2 => ?_⟩
  have e : (s.core.value (.k 0)).toNat = 0x8000 ∧ (s.core.value (.k 1)).toNat = 128 := by decide +kernel
  have h : ∀ j < 128, (s.tlbFind 0 0 s.core.asid (0x8000 + j)).isSome = true := by decide +kernel
  have := h (va - 0x8000) (by omega)
  rwa [show 0x8000 + (va - 0x8000) = va by omega] at this

/-- A module with page tables: the entry of address space 0 names the root table at 0x10000, whose first entry names a
table at 0x20000, whose first entry maps the first gigabyte onto itself (R396). -/
def walkSt : State :=
  { st [] with mem := [(0, 1), (2, 1), (0x10000, 1), (0x10002, 2), (0x20000, 0x7F), (0x20001, 1)] }

/-- A core whose fetch waits for a walk, and a walk that ends, of MemoryUnitStepsComplete. -/
theorem witness_walk : walkSt.waiters 0 0 0x1000 = [(.tile 0, 0x1000, none)] ∧
    ((walkSt.walkTo 0 0 0x1000).getCore (.tile 0)).entries = [] ∧
    ∃ t, (walkSt.walkTo 0 0 0x1000).walk 0 0 0x1000 = .ok t ∧ (t.pa == 0) = true :=
  ⟨by decide +kernel, by decide +kernel, okOf (p := fun t : Tlb => t.pa == 0) (by decide +kernel)⟩

/-- A flush whose walk ends. -/
theorem walkedOf {r : State × Res Unit} {p : State → Bool}
    (h : (match r.2 with | .ok _ => p r.1 | _ => false) = true) : ∃ s1, r = (s1, .ok ()) ∧ p s1 = true := by
  obtain ⟨s1, x⟩ := r; cases x <;> simp at h; exact ⟨_, rfl, h⟩

/-- A flush of one line by the supervisor core, and a transactional store whose page is translated, of
MemoryUnitStepsComplete. -/
theorem witness_units :
    let i : Instr := .flush .cinv .l2 (.k 0) (.k 1)
    let e : Entry := { tag := 3, instr := i, addr := 0, ops := { a := 0x8000, b := 128 } }
    let f : Entry := { tag := 3, instr := .stg .d false .cl (.k 0) (.k 1) 0, addr := 0, ops := { a := 0x8000, b := 1 }, tx := true }
    let x : Access := { ea := 0x8000, n := 8, kind := .wr, scope := .cl }
    let s := { sp [] with core := { tileCore [] with who := .sup 0, task := none, entries := [f], tx := { depth := 1 } } }
    ((spWith .running [e]).getCore (.sup 0)).entries = [e] ∧ e.ready = false ∧
    (∃ s1 : State, (spWith .running [e]).flushRun (.sup 0) .cinv .l2 e.ops.a e.ops.b = (s1, .ok ()) ∧
      ((s1.getCore (.sup 0)).entries == [e]) = true) ∧
    (s.getCore (.sup 0)).entries = [f] ∧ accessOf f.instr f.ops = some x ∧ f.tx = true ∧ f.ready = false ∧
    (s.getCore (.sup 0)).txLive = true ∧ (s.getCore (.sup 0)).going = true ∧
    s.translate (.sup 0) (s.getCore (.sup 0)).asid false x.kind x.ea.toNat = .ok (supPage, 0x8000) :=
  ⟨by decide, rfl, walkedOf (p := fun s1 : State => (s1.getCore (.sup 0)).entries == _) (by decide +kernel), by decide +kernel⟩

/-- A core in a transaction of a depth. -/
def txSt (d : Nat) : State := { st [] with core := { tileCore [] with tx := { depth := d } } }

/-- Every depth that TransactionInstructionsKeepTheirDepth treats apart, outside a handler, the deepest with no held copy.
-/
theorem witness_tx : (∀ d < 8, (txSt d).core.inHandler = false ∧ (txSt d).core.tx.depth = d) ∧
    (txSt 0).core.quietScalars = true ∧ (txSt 0).core.loadsBack = true ∧ (txSt 7).core.heldCopies.length ≤ 16 := by
  decide +kernel

/-- A transaction of the deepest nesting with held copies, up to the number of VHELD, that a home has aborted with the
highest code, and the highest number of `tabort`, of AbortsRestoreTheBegin. -/
theorem witness_abort :
    let op (n : Nat) : EngOp := { id := BitVec.ofNat 32 (4 + n), tag := 9 + n, instr := .copy (.k 0) (.k 1), addr := 0
                                  ops := [], recs := [], held := true }
    let s (n : Nat) : State := { st [] with core := { tileCore [] with
      chan := (List.range n).map op, tx := { depth := 7, doom := some (15, 2559) } } }
    (∀ n < 17, 0 < (s n).core.tx.depth ∧ (s n).core.tx.depth ≤ 7 ∧ (s n).core.heldCopies.length = n ∧
      ((s n).getCore (.tile 0)).tx.doom = some (15, 2559) ∧ 0 < ((s n).getCore (.tile 0)).tx.depth ∧
      (s n).core.inHandler = false) ∧
    255 < 256 ∧ 15 < 16 := by decide +kernel

/-- A transaction at its commit point with nothing registered, of CommitEndsTheTransaction. -/
theorem witness_commit :
    let s := { st [] with core := { tileCore [] with tx := { depth := 1 }, run := .held .tend {} } }
    (s.getCore (.tile 0)).run = .held .tend {} ∧ (s.getCore (.tile 0)).txLive = true ∧
    (s.getCore (.tile 0)).entries.any Entry.tx = false ∧ (s.getCore (.tile 0)).accessesDone false = true ∧
    (s.getCore (.tile 0)).lockRoom ((s.getCore (.tile 0)).heldCopies.flatMap EngOp.spans) = true ∧
    (s.getCore (.tile 0)).tx.spec = [] ∧
    (s.getCore (.tile 0)).tx.deltas = [] ∧ ∀ k ∈ s.clusters, k.lines = [] := by decide +kernel

/-- A transaction at its commit point with two stored bytes and a delta of each size beside them, of
CommitEndsTheTransaction. -/
theorem witness_commit_writes :
    let x : Tx := { depth := 1, spec := [(0x8000, 1), (0x8001, 2)]
                    deltas := [{ kind := 1, pa := 0x8010, value := 0xFFFFFFFF }, { kind := 4, pa := 0x8018, value := -1 }] }
    let s := { st [] with core := { tileCore [] with tx := x, run := .held .tend {} } }
    CommitsHere s (.tile 0) ∧ s.mem.wf = true ∧ (s.getCore (.tile 0)).txLive = true ∧
    (s.getCore (.tile 0)).lockRoom ((s.getCore (.tile 0)).heldCopies.flatMap EngOp.spans) = true := by
  unfold CommitsHere; decide +kernel

/-- A vector load of the last 256 bytes, a gather, and `hsort` of an empty queue, with room in the queue, of
VectorInstructionsEnterTheirQueue; a core under an integer type and one under a floating type. -/
theorem witness_vector_enter :
    let s := st [0x3FF00]
    VectorForm s.core (.vld 31 (.k 0)) [.k 0] (.vec 31 :: namesOf [.k 0]) { a := vcode 31, b := s.core.value (.k 0) }
      (s.core.windowOf (s.core.value (.k 0))) false none ∧
    VectorForm s.core (.vgath 0 (.k 0) 31) [.k 0] (.vec 0 :: (namesOf [.k 0] ++ [.vec 31]))
      { a := vcode 0, b := s.core.value (.k 0), c := vcode 31 } 0 false none ∧
    VectorForm s.core (.vred .add 0) [] [.vec 0] { a := vcode 0 } 0 true none ∧
    s.core.CanRead [.k 0] (.vec 31 :: namesOf [.k 0]) ∧ s.core.vqueue.length < 16 ∧ s.core.entryRoom = true ∧
    vfloat s.core.vtype = none ∧ vfloat ({ tileCore [] with csr := { csr0 with vcfg := 6 } } : Core).vtype ≠ none :=
  ⟨.vld _ _ (by decide +kernel), .vgath _ _ _ (by decide +kernel), .vred _ _, canRead_st .., by decide +kernel⟩

/-- A core whose only unfinished instruction is this one, under INT64 and mask f7. -/
def vecSt (i : Instr) (o : Ops) : State :=
  { st [] with core := { tileCore [] with entries := [{ tag := 3, instr := i, addr := 0, ops := o, cfg0 := 0x73 }] } }

/-- An instruction of each kind that runs, under INT64 and under a floating type, of VectorElementsTakeTheirResults. -/
theorem witness_vector_run :
    let s (i : Instr) (o : Ops) := vecSt i o
    let e (i : Instr) (o : Ops) : Entry := { tag := 3, instr := i, addr := 0, ops := o, cfg0 := 0x73 }
    let c := (vecSt .nop {}).core
    (∀ i o, VectorMayRun (s i o) (.tile 0) (e i o)) ∧ vfloat (cfgType 0x73) = none ∧ (vfloat (cfgType 0x76)).isSome = true ∧
    (∃ f, LaneRule (cfgType 0x73) {} (.vadd 31 0 31) 31 0 31 f) ∧ (∃ f, LaneRule (cfgType 0x76) {} (.vfshl 31 0 31 63) 31 0 31 f) ∧
    (∃ r ops, FloatRule (.vlog2 31 0) 31 0 0 r ops) ∧
    (∃ x, MoveRule c 64 { c := -1 } (c.active (e .nop {})) (.vslide 31 0 (.k 0)) 31 x) ∧
    (∃ x, MaskRule c (cfgType 0x73) (c.active (e .nop {})) (.vcle 0 0 31) 0 x) ∧
    (∃ x, MaskRule c (cfgType 0x76) (c.active (e .nop {})) (.vclt 7 0 31) 7 x) ∧
    (∃ v fl, ReduceRule (cfgType 0x73) [] .min v fl) ∧ (∃ v fl, ReduceRule (cfgType 0x76) [] .add v fl) ∧
    (∃ i, i = Instr.vcvt (.shared .fp32) (.shared .bf16) .sr 31 0 ∧ VectorMayRun (s i {}) (.tile 0) (e i {})) := by
  have run : ∀ i o, VectorMayRun (vecSt i o) (.tile 0) { tag := 3, instr := i, addr := 0, ops := o, cfg0 := 0x73 } :=
    fun i o => ⟨rfl, show (st []).issueHalted = false by decide, rfl⟩
  exact ⟨run, by decide, by decide, ⟨_, .vadd _ _ _ (by decide)⟩, ⟨_, .vfshl _ _ _ _⟩, ⟨_, _, .vlog2 _ _⟩, ⟨_, .vslide _ _ _⟩,
    ⟨_, .vcle _ _ _ (by decide)⟩, ⟨_, .float _ _ _ fp32 (by rfl) _ _ (.inr (.inl ⟨rfl, rfl⟩))⟩,
    ⟨_, _, .min (by decide)⟩, ⟨_, _, .addF fp32 (by rfl)⟩, _, rfl, run _ _⟩

/-- A store and a load of window 0 at the last 256 bytes, of VectorLocalAccessesMoveActiveElements. -/
theorem witness_vector_local : (vecSt (.vst 31 (.k 0)) { b := 0x3FF00 }).issueHalted = false ∧
    ((vecSt (.vld 31 (.k 0)) { b := 0x3FF00 }).getCore (.tile 0)).going = true ∧ fld (0x3FF00 : Word) 23 21 = 0 ∧
    ((vecSt (.vst 31 (.k 0)) { b := 0x3FF00 }).getCore (.tile 0)).scratch.wf = true := by decide +kernel

/-- Words in local memory. -/
def put (o : Nat) (ws : List Word) (m : Memory) : Memory := m.writeBytes o (ws.flatMap fun w => bytesOfNat 8 w.toNat)

/-- A core with one vector instruction under FP32, unmasked, and words in its local memory and in v31. -/
def laneSt (i : Instr) (o : Ops) (aw : Word) (mem : Memory) (index : VecReg) : State :=
  { st [] with
    core := { tileCore [] with
      entries := [{ tag := 3, instr := i, addr := 0, ops := o, cfg0 := 6, cfg1 := aw }]
      scratch := mem, regs := { regs0 [] with v := Vector.ofFn fun r => if r = 31 then index else 0 } } }

/-- Windows that move bytes and one that converts to a block's format, indexes in range and one beyond the carve, of
VectorLocalAccessesMoveActiveElements. -/
theorem witness_windows_and_gathers :
    let e (i : Instr) (b aw : Word) : Entry := { tag := 3, instr := i, addr := 0, ops := { b := b }, cfg0 := 6, cfg1 := aw }
    let g : Entry := e (.vgath 0 (.k 0) 31) 0x8000 0
    let c (index : VecReg) : Core := (laneSt (.vgath 0 (.k 0) 31) { b := 0x8000 } 0 [] index).core
    (∀ i ∈ [Instr.vld 31 (.k 0), .vst 31 (.k 0), .vgath 0 (.k 0) 31, .vscat 0 (.k 0) 31, .hsort (.k 0)],
      VectorMayRun (laneSt i { b := 0x8000 } 1 [] 0) (.tile 0) (e i 0x8000 1)) ∧
    movesRaw (e .nop 0x8000 0) ∧ movesRaw (e .nop (0x8000 + 2 ^ 21) 11) ∧ ¬ movesRaw (e .nop (0x8000 + 2 ^ 21) 1) ∧
    ¬ movesRaw (e .nop (0x8000 + 2 ^ 21) 4) ∧ (∀ i < 64, (c 0).active g i = true ∧ gatherOk (c 0) g 31 true i) ∧
    (c 0xFFFFFFFF).active g 0 = true ∧ ¬ gatherOk (c 0xFFFFFFFF) g 31 false 0 ∧ (c 0xFFFFFFFF).isSup = false ∧
    (c 0xFFFFFFFF).tx.depth = 0 ∧ (c 0xFFFFFFFF).run = .running := by
  unfold VectorMayRun movesRaw gatherOk; decide +kernel

/-- A block of heaps in each state: a heap, a sorted block, and one to be cleared; and a heap with an insertion, of
VectorLocalAccessesMoveActiveElements. -/
theorem witness_heaps :
    let c (head : Word) : Core := (laneSt (.hsort (.k 0)) { a := 0x8000 } 0 (put 0x8000 [head] []) 0).core
    HeapsAt (c 16) 0x8000 false 0x8000 16 ∧ HeapsAt (c (1 + 2 * 2 ^ 8)) 0x8000 false 0x8000 1 ∧
    HeapsAt (c (3 + 2 ^ 8 + 2 ^ 16)) 0x8000 true 0x8000 3 ∧ (c 16).scratch.wf = true ∧
    NoNan [(0x40400000, 5), (0x3F800000, 1), (0x40000000, 2)] ∧ ranksAbove (0x40400000, 5) (0x3F800000, 1) = true ∧
    ranksAbove (0xBF800000, 5) (0x3F800000, 1) = false ∧ HeapOrder 2 [(0x3F800000, 1), (0x40000000, 2)] := by
  unfold HeapsAt NoNan
  refine ⟨by decide +kernel, by decide +kernel, by decide +kernel, by decide +kernel, ?_, by decide +kernel,
    by decide +kernel, fun j h1 h2 => ?_⟩
  · simp only [List.forall_mem_cons, List.not_mem_nil]
    exact ⟨by decide +kernel, by decide +kernel, by decide +kernel, fun _ h => h.elim⟩
  obtain rfl : j = 1 := by omega
  decide +kernel

/-- RegisterMovesWriteOneRegister. -/
theorem witness_put : (st []).core.CanRead [.t 15] (nameDst (.m 63) :: namesOf [.t 15]) := canRead_st ..

/-- A layout record of a row of n INT8 elements in own scratch, in either role (R232). -/
def row (dst : Bool) (base n : Nat) : List Word :=
  [base, (if dst then 2 ^ 17 else 0) + 2 ^ 15 + 2 ^ 5 + 10, n, 0, 0, 0, n, 0, 0, 0, 2 ^ 16, 0].map (BitVec.ofNat 64)

/-- A table record of rows of n INT8 elements. -/
def tableRow (base n rows : Nat) : List Word :=
  [base, 2 ^ 15 + 2 * 2 ^ 5 + 10, n + rows * 2 ^ 21, 0, n, 0, n + 2 ^ 12, 0, 0, 0, 2 ^ 16 + 8, 0].map (BitVec.ofNat 64)

/-- An INT8 product of 5 by 7 with K = 3 (R252). -/
def control : Word := BitVec.ofNat 64 (5 + 7 * 2 ^ 9 + 3 * 2 ^ 19 + 10 * 2 ^ 35 + 10 * 2 ^ 39 + 2 ^ 43)

/-- A core with a source record at 0x5000, a destination record at 0x5100, a table record at 0x5200, an index list at
0x5300 with the one index 1, a command in m8 to m11 and an operand pair in m12 and m13. -/
def copySt : State :=
  { st [0x5000, 0x5100, 0x5200, 0x5300] with
    core := { tileCore [0x5000, 0x5100, 0x5200, 0x5300] with
      regs := { regs0 [0x5000, 0x5100, 0x5200, 0x5300, control] with
        m := Vector.ofFn fun i => if i = 8 then control else if i = 9 then 0x10000 else if i = 10 then 0x11000
             else if i = 11 then 3 else if i = 12 then 0x10000 else if i = 13 then 0x11000 else 0 }
      scratch := put 0x5000 (row false 0x8000 64) (put 0x5100 (row true 0x9000 64)
        (put 0x5200 (tableRow 0x8000 64 2) (put 0x5300 [2 ^ 32 + 1] []))) } }

theorem canRead_copySt (xs names) : copySt.core.CanRead xs names := by
  refine canRead_of _ (fun i => ?_) rfl xs names
  rw [show copySt.core.train = Vector.replicate 16 {} by unfold Core.train; split <;> rfl]; simp [Vector.get]

/-- Requests of each instruction of the channel that pass their checks, of ChannelInstructionsTakeAnId. -/
theorem witness_channel : (∃ q, ChannelForm copySt (.copy (.k 0) (.k 1)) [.k 0, .k 1] (namesOf [.k 0, .k 1]) q) ∧
    (∃ q xs names, ChannelForm copySt (.copyf (.k 0) (.k 1) 2 true) xs names q) ∧
    (∃ q, ChannelForm copySt (.gath (.k 2) (.k 3) (.k 1)) [.k 2, .k 3, .k 1] (namesOf [.k 2, .k 3, .k 1]) q) ∧
    (∀ xs names, copySt.core.CanRead xs names) ∧ copySt.core.engineReady = true ∧ copySt.core.accessesDone false = true ∧
    copySt.core.tx.depth = 0 ∧ copySt.core.idFree = true ∧ copySt.core.locks.length ≤ 62 := by
  refine ⟨?_, ?_, ?_, canRead_copySt, by decide +kernel⟩
  · obtain ⟨q, h, -⟩ := okOf (r := copySt.copyReq (.copy (.k 0) (.k 1)) (copySt.core.value (.k 0)) (copySt.core.value (.k 1)) [])
      (p := fun _ => true) (by decide +kernel)
    exact ⟨q, .copy _ _ q h⟩
  · obtain ⟨q, h, -⟩ := okOf (r := copySt.copyReq (.copyf (.k 0) (.k 1) 2 true) (copySt.core.value (.k 0))
      (copySt.core.value (.k 1)) ([0, 1, 2, 3].map fun i => copySt.core.regs.m.get (quadReg 2 i)))
      (p := fun _ => true) (by decide +kernel)
    exact ⟨_, _, _, .copyf _ _ 2 true q (fun i => copySt.core.regs.m.get (quadReg 2 i)) (fun _ => rfl)
      (by decide +kernel) (by decide +kernel) h⟩
  · obtain ⟨q, h, -⟩ := okOf (r := copySt.gathReq (.gath (.k 2) (.k 3) (.k 1)) (copySt.core.value (.k 2))
      (copySt.core.value (.k 3)) (copySt.core.value (.k 1))) (p := fun _ => true) (by decide +kernel)
    exact ⟨q, .gath _ _ _ q h⟩

/-- An operation of the channel between two rows that meet at a byte. -/
def rowCopy : EngOp :=
  { id := 4, tag := 9, instr := .copy (.k 0) (.k 1), addr := 0, ops := [], recs := row false 0x8000 64 ++ row true 0x8040 64 }

/-- The channel holds one operation, whose id is next. -/
def chanSt (op : EngOp) : State := { st [] with core := { tileCore [] with chan := [op] } }

/-- A transfer between two adjacent rows, of LocalCopyMovesItsBytes. -/
theorem witness_copy : OnlyTransfer ((chanSt rowCopy).getCore (.tile 0)) rowCopy ∧ rowCopy.moved = false ∧
    rowCopy.wrote = false ∧
    PlainRow rowCopy.src 0x8000 64 ∧ PlainRow rowCopy.dst 0x8040 64 ∧ Lay.fmt rowCopy.src = Lay.fmt rowCopy.dst ∧
    Lay.esc rowCopy.dst = false ∧ ((chanSt rowCopy).getCore (.tile 0)).scratch.wf = true ∧
    0x8000 + 64 * Lay.ub rowCopy.dst ≤ 0x8040 := by
  unfold OnlyTransfer PlainRow; decide +kernel

/-- A schedule with nothing below n, one with one entry, and a command that is placed, of
StagesAndCommandsTakeTheirPlace. -/
theorem witness_stage :
    let t : Team := { id := 1, launch := 1, idx := 0, die := 0, gx := 0, gy := 0, w := 1, h := 1, words := []
                      sched := [0x5100 * 2 ^ 32 + 0x5000 * 2 ^ 8] }
    let s := { copySt with teams := [t] }
    let op : EngOp := { rowCopy with instr := .copyf (.k 0) (.k 1) 2 true, moved := true }
    s.core.engineReady = true ∧ s.core.accessesDone false = true ∧ s.core.tx.depth = 0 ∧ s.core.stageId = none ∧
    s.core.idFree = true ∧ s.core.locks.length ≤ 62 ∧ s.released 0 = [] ∧
    s.released 1 = [0x5100 * 2 ^ 32 + 0x5000 * 2 ^ 8] ∧
    (∃ q, s.copyReq (.stage 1) (BitVec.ofNat 64 (fld (0x5100 * 2 ^ 32 + 0x5000 * 2 ^ 8 : Word) 31 8))
      (BitVec.ofNat 64 (fld (0x5100 * 2 ^ 32 + 0x5000 * 2 ^ 8 : Word) 55 32)) [] = .ok q ∧ true = true) ∧
    OnlyTransfer ((chanSt op).getCore (.tile 0)) op ∧ op.moved = true ∧
    (((chanSt op).getCore (.tile 0)).streams.get 1).length < 8 :=
  ⟨by decide +kernel, by decide +kernel, by decide, by decide, by decide +kernel, by decide, by decide +kernel,
    by decide +kernel, okOf (p := fun _ => true) (by decide +kernel), by unfold OnlyTransfer; decide +kernel, rfl, by decide +kernel⟩

/-- Even and odd handler addresses, a core in a handler and one outside, and a flagged completion that interrupts, of
InterruptsEnterAndLeaveTheirHandler. -/
theorem witness_interrupt :
    let c := { tileCore [] with csr := { csr0 with uictl := 1 <<< 63 }, flagged := [(4, 0, .cl)], run := .blocked (.await 3) }
    let s := { st [] with core := c }
    (st [2]).core.CanRead [.k 0] (namesOf [.k 0]) ∧ ((st [2]).core.value (.k 0)).getLsbD 0 = false ∧
    ((st [3]).core.value (.k 0)).getLsbD 0 = true ∧ (st []).core.tx.depth = 0 ∧ (st []).core.inHandler = false ∧
    ({ tileCore [] with csr := { csr0 with uictl := 1 <<< 62 } } : Core).inHandler = true ∧
    (s.getCore (.tile 0)).flagged = [(4, 0, .cl)] ∧ (s.getCore (.tile 0)).csr.uictl.getLsbD 63 = true ∧
    (s.getCore (.tile 0)).inHandler = false ∧ (s.getCore (.tile 0)).uiReady = true ∧ (s.getCore (.tile 0)).tx.depth = 0 ∧
    (s.getCore (.tile 0)).stalling = false ∧ (s.getCore (.tile 0)).run = .blocked (.await 3) :=
  ⟨canRead_st .., by decide +kernel⟩

/-- Matrix instructions that pass their checks, of MatrixInstructionsEnterStreamZero: a product on the last bank, a load
of the last 20 KiB, and a store. -/
theorem witness_matrix_enter :
    MatrixForm copySt (.mma 3 (.k 4) 6) [.k 4] (.acc 3 :: (namesOf [.k 4] ++ namesPair 6))
      { a := bankCode 3, b := copySt.core.regs.m.get (pairLo 6), c := copySt.core.regs.m.get (pairHi 6) }
      (copySt.core.value (.k 4)) (some (.acc 3)) ∧
    MatrixForm (st [0x3B000]) (.mld 0 (.k 0)) [.k 0] (.acc 0 :: namesOf [.k 0])
      { a := bankCode 0, b := (st [0x3B000]).core.value (.k 0) } 0 (some (.acc 0)) ∧
    MatrixForm (st [0x3B000]) (.mst .fp32 .rne 0 (.k 0)) [.k 0] (.acc 0 :: namesOf [.k 0])
      { a := bankCode 0, b := (st [0x3B000]).core.value (.k 0) } 0 none ∧
    (∀ x ∈ [Src.k 4], copySt.core.pending x = false) ∧ copySt.core.leases = [] ∧ copySt.core.engineReady = true ∧
    copySt.core.accessesDone false = true ∧ copySt.core.stream0.length < 8 ∧ copySt.core.entryRoom = true ∧
    copySt.core.locks.length ≤ 62 :=
  ⟨.mma _ _ _ _ _ rfl rfl (by decide +kernel) (.inl (by decide)), .mld _ _ (by decide +kernel), .mst _ _ _ _ (by decide +kernel),
    by decide +kernel⟩

/-- An INT8 product with its element functions, and one of two floating formats, that have started with three k-groups,
of IntegerProductsFillTheirRegion. -/
theorem witness_product :
    let e (cw : Word) : Entry := { tag := 3, instr := .mma 3 (.k 4) 6, addr := 0, ops := { b := 0x10000, c := 0x11000 }
                                   cfg0 := cw, started := true, k := 40 }
    let s (cw : Word) := { st [] with core := { tileCore [] with entries := [e cw] } }
    let f : Word := BitVec.ofNat 64 (64 + 80 * 2 ^ 9 + 40 * 2 ^ 19 + 9 * 2 ^ 35 + 2 ^ 43)
    (∀ cw, ((s cw).getCore (.tile 0)).entries = [e cw] ∧ (e cw).started = true) ∧
    ([control, f].all fun cw => !cwLA cw && !cwLB cw && decide (cwM cw ≤ 64) && decide (cwN cw ≤ 80)) = true ∧
    cwFA control = 10 ∧ cwFB control = 10 ∧ cwFA f ≤ 9 ∧ cwFB f ≤ 9 ∧
    ∀ g : Nat → Nat → Int, ∃ A : Nat → Nat → Int, ∀ i k, A i k = g i k :=
  ⟨fun _ => ⟨rfl, rfl⟩, by decide +kernel, by decide +kernel, by decide +kernel, by decide +kernel, by decide +kernel,
    fun g => ⟨g, fun _ _ => rfl⟩⟩

/-- The moves of a bank before and after they start, of BankMovesStartAndTakeTheirEffect. -/
theorem witness_bank :
    let e (b : Bool) : Entry := { tag := 3, instr := .mst .fp32 .rne 3 (.k 4), addr := 0, ops := { b := 0x3B000 }, started := b }
    let s (b : Bool) := { st [] with core := { tileCore [] with entries := [e b] } }
    (∀ b, ((s b).getCore (.tile 0)).entries = [e b]) ∧ ((s false).getCore (.tile 0)).arrayBusy = false ∧
    (s false).outrun (.tile 0) 0 (e false) = false ∧ (e false).started = false ∧ (e false).ready = false ∧
    (s false).issueHalted = false ∧ ((s false).getCore (.tile 0)).going = true ∧ (e true).started = true ∧
    ((s true).getCore (.tile 0)).scratch.wf = true := by decide +kernel

/-- A team of two by one at the corner of die 0. -/
def team2 : Team := { id := 1, launch := 1, idx := 0, die := 0, gx := 0, gy := 0, w := 2, h := 1, words := [], sched := [] }

/-- A member of the team with one `mred` of its two ranks. -/
def memberCore (r : Nat) (started : Bool) : Core :=
  { tileCore [] with
    who := team2.member r
    task := some { launch := 1, team := 1, rank := r, gang := false, ctx := 1, asid := 0 }
    entries := [{ tag := 3, instr := .mred false 0 2, addr := 0, ready := true, started := started, seq := 7 }]
    mredBanks := [(7, zeroBank)] }

/-- Both members at their `mred`, then the first of the chain, the message of rank 0 at rank 1, and a third rank beyond
the chain, of TeamInstructionsMeet. -/
theorem witness_team :
    let s (b : Bool) : State := { st [] with core := memberCore 0 b, others := [memberCore 1 b], teams := [team2] }
    (s false).teamOf team2.id = some team2 ∧ 0 < team2.size ∧
    (∀ a ∈ team2.members, ((s false).getCore a).teamHead = some
      { tag := 3, instr := .mred false 0 2, addr := 0, ready := true, seq := 7 }) ∧
    lenAbove team2.size { tag := 3, instr := .mred false 0 2, addr := 0, ready := true, seq := 7 } = false ∧
    (∀ r < 2, chainPlace team2.size 2 ((s true).getCore (team2.member r)).rank = some r ∧
      ((s true).getCore (team2.member r)).task.map Task.rank = some r ∧
      ((s true).getCore (team2.member r)).task.map Task.team = some team2.id ∧ team2.member (r + 1) ≠ team2.member r ∧
      ((s true).getCore (team2.member r)).entries =
        [{ tag := 3, instr := .mred false 0 2, addr := 0, ready := true, started := true, seq := 7 }]) ∧
    (((s true).getCore (team2.member 1)).mredBanks.find? (fun m => m.1 == 7)).isSome = true ∧
    (let t : State := { st [] with core := memberCore 2 true, teams := [{ team2 with w := 3 }] }
     chainPlace (t.teamSize (t.getCore (team2.member 2))) 2 (t.getCore (team2.member 2)).rank = none ∧
       (t.getCore (team2.member 2)).entries =
         [{ tag := 3, instr := .mred false 0 2, addr := 0, ready := true, started := true, seq := 7 }]) := by decide +kernel

/-- An `mred` whose rendezvous has formed, of BankMovesStartAndTakeTheirEffect. -/
theorem witness_met :
    let e : Entry := { tag := 3, instr := .mred false 0 2, addr := 0, ready := true, met := true, seq := 7 }
    let s : State := { st [] with core := { memberCore 0 false with entries := [e] }, others := [memberCore 1 false], teams := [team2] }
    (s.getCore (team2.member 0)).entries = [e] ∧ e.started = false ∧ e.met = true ∧ s.issueHalted = false ∧
    (s.getCore (team2.member 0)).going = true ∧ (s.getCore (team2.member 0)).arrayBusy = false ∧
    s.outrun (team2.member 0) 0 e = false := by decide +kernel

/-- A core with a route record at 0x5000, a table record at 0x5040, a merge record at 0x5080 and an unmerge record at
0x50C0; the map stack is at 0x6000 with slot 1 live, and a sorted block of one entry per heap is at 0x7000. -/
def engCore : Core :=
  { tileCore [0x5000, 0x5040, 0x5080, 0x50C0] with
    csr := { csr0 with mstk := 0x6000 + 2 ^ 25 }
    scratch := put 0x5000 [0x7000 + 2 ^ 24, 2 ^ 32, 0, 0x10000, 0x12000, 2 ^ 16 + 2 ^ 28]
      (put 0x5040 [0x10000, 2 ^ 20 + 2 ^ 31]
      (put 0x5080 [0x10000, 0x11000, 0, 0x12000, 2 + 2 ^ 33, 2 + 2 ^ 13 + 2 ^ 24, 0x18, 0]
      (put 0x50C0 [0x10000, 0x20000, 0, 1, 1, 0, 0, 0] (put 0x6010 [2 + 2 ^ 16] (put 0x7000 [0x101] []))))) }

/-- The state of that core. -/
def engSt : State := { st [] with core := engCore }

theorem canRead_engSt (xs names) : engSt.core.CanRead xs names := by
  refine canRead_of _ (fun i => ?_) rfl xs names
  rw [show engSt.core.train = Vector.replicate 16 {} by unfold Core.train; split <;> rfl]; simp [Vector.get]

/-- Records that pass the checks of each instruction, of RoutingAndMergeInstructionsEnterTheirEngine. -/
theorem witness_routing_enter : EngineMayIssue engSt.core ∧ (∀ xs names, engSt.core.CanRead xs names) ∧
    (∃ p, engSt.core.routeCheck (engSt.core.value (.k 0)) = .ok p ∧ (p.2 == 1) = true) ∧
    engSt.core.recordCheck (engSt.core.value (.k 1)) 16 false = .ok 0x5040 ∧
    tableRecOk (engSt.core.scratch.words 0x5040 2) = true ∧ tbNow (engSt.core.scratch.words 0x5040 2) = true ∧
    (∃ p, engSt.core.umrgCheck (engSt.core.value (.k 3)) = .ok p ∧ (p.2.1 == 2) = true) ∧ engSt.core.idFree = true ∧
    (∃ r, engSt.core.mrgCheck (engSt.core.value (.k 2)) = .ok r ∧ decide (mgSlot r < 8) = true) ∧
    engSt.core.recordOut (engSt.core.value (.k 0)) 32 = .ok 0x5000 ∧ engSt.core.entryRoom = true :=
  ⟨by unfold EngineMayIssue; decide +kernel, canRead_engSt,
    okOf (p := fun p : List Word × Nat => p.2 == 1) (by decide +kernel), by decide +kernel, by decide +kernel, by decide +kernel,
    okOf (p := fun p : List Word × Nat × Nat => p.2.1 == 2) (by decide +kernel), by decide +kernel,
    okOf (p := fun r : List Word => decide (mgSlot r < 8)) (by decide +kernel), by decide +kernel, by decide +kernel⟩

/-- A write that does not fault. -/
theorem wroteOf {r : Res (State × Option Flt)} (h : (match r with | .ok p => p.2.isNone | _ => false) = true) :
    ∃ s1, r = .ok (s1, none) := by
  cases r with
  | ok p => obtain ⟨a, b⟩ := p; cases b <;> simp_all
  | bad _ => simp at h
  | wait => simp at h

/-- A merge that runs to its end. -/
theorem mergedOf {r : Res (State × MergeEnd)}
    (h : (match r with | .ok p => p.2.map.isSome && p.2.fault.isNone | _ => false) = true) :
    ∃ s1 x m, r = .ok (s1, x) ∧ x.map = some m ∧ x.fault = none := by
  cases r with
  | ok p =>
    simp only [Bool.and_eq_true, Option.isSome_iff_exists, Option.isNone_iff_eq_none] at h
    obtain ⟨⟨m, hm⟩, hf⟩ := h; exact ⟨p.1, p.2, m, rfl, hm, hf⟩
  | bad _ => simp at h
  | wait => simp at h

/-- The module whose supervisor core 0 has a route and then an `rtbl` at the head of its die's engine, a merge under
way, and an `rmstat` that waits, of RoutingAndMergeOperationsComplete. -/
def engRun (i : Instr) (recs : List Word) : State :=
  let op : EngOp := { id := 0, tag := 9, instr := i, addr := 0, ops := [0, 1], recs := recs }
  { sp [] with
    core := { engCore with who := .sup 0, task := none, merge := some op }
    dies := [{ id := 0, routes := [{ who := .sup 0, op := op }] }] }

theorem witness_routing_run :
    let rt := engCore.scratch.words 0x5000 8
    let tb := engCore.scratch.words 0x5040 2
    let mg := engCore.scratch.words 0x5080 8
    let e : Entry := { tag := 3, instr := .rmstat (.k 0), addr := 0, ops := { a := 0x5000 } }
    let s := spWith .running [e]
    ((engRun (.route (.k 0)) rt).die 0).routes.length = 1 ∧ rtSv0 rt + rtNsv rt ≤ 32 ∧
    (let out := routed (engRun (.route (.k 0)) rt).core.scratch rt [] 1
     ∃ s1, (engRun (.route (.k 0)) rt).writeSpans (.sup 0) .cl
       [(rtOut rt, out.lists (rtNdest rt)), (rtCnt rt, out.table (rtNdest rt) (rtNtok rt))] = .ok (s1, none)) ∧
    (∃ p : State × List Byte, (engRun (.rtbl (.k 0)) tb).engRead (.sup 0) 0 (tbImg tb) (8 * tbNexp tb) = .ok p ∧
      (wordsOf p.2).all tableEntryOk = true) ∧
    (s.getCore (.sup 0)).entries = [e] ∧ (s.getCore (.sup 0)).going = true ∧ s.routesBefore (.sup 0) e.tag = true ∧
    (s.getCore (.sup 0)).scratch.wf = true ∧ (engRun (.mrg (.k 2)) mg).core.merge.isSome = true ∧
    (engRun (.mrg (.k 2)) mg).issueHalted = false ∧
    (engRun (.mrg (.k 2)) mg).core.merge.all (fun op => !op.cancelled) = true ∧
    (engRun (.mrg (.k 2)) mg).core.streams.get 2 = [] ∧
    (∀ s : State, s.scopeDone true .cl = true) ∧
    ({ st [] with ports := { (st []).ports with invs := [(0, 1)] } } : State).scopeDone true .sys = false ∧
    ((engRun (.route (.k 0)) rt).die 0).routes.all (fun o => !o.op.wrote && o.op.status == 0) = true ∧
    (engRun (.mrg (.k 2)) mg).core.merge.all (fun op => !op.wrote) = true ∧
    ∃ s1 x m, (engRun (.mrg (.k 2)) mg).mergeRun (.sup 0) mg .cl = .ok (s1, x) ∧ x.map = some m ∧ x.fault = none :=
  ⟨by decide +kernel, by decide +kernel, wroteOf (by decide +kernel),
    okOf (p := fun p : State × List Byte => (wordsOf p.2).all tableEntryOk) (by decide +kernel), by decide +kernel,
    by decide +kernel, by decide +kernel, by decide +kernel, by decide +kernel, by decide +kernel, by decide +kernel,
    by decide +kernel, fun _ => rfl, by decide, by decide +kernel, by decide +kernel, mergedOf (by decide +kernel)⟩

/-- A route and a merge whose writes are done and that await the peers' answers, of RoutingAndMergeOperationsComplete.
-/
theorem witness_routing_wrote :
    let op : EngOp := { id := 0, tag := 9, instr := .mrg (.k 2), addr := 0, ops := [], recs := [], scope := .sys, wrote := true
                        part := 1 }
    let s : State := { sp [] with
      core := { engCore with who := .sup 0, task := none, merge := some op }
      dies := [{ id := 0, routes := [{ who := .sup 0, op := { op with instr := .route (.k 0) } }] }] }
    (s.die 0).routes.length = 1 ∧ rtSv0 [] + rtNsv [] ≤ 32 ∧ s.scopeDone true .sys = true ∧
    s.core.merge = some op ∧ op.cancelled = false ∧ op.status = 0 := by decide +kernel

/-- A member of the gang of launch 1, at a rank of its two-core team. -/
def gangCore (r : Nat) (run : Run) (ks : List Word) : Core :=
  { tileCore ks with
    who := team2.member r, run := run
    task := some { launch := 1, team := 1, rank := r, gang := true, ctx := 1, asid := 0 } }

/-- Window 3 from rank 0 to rank 1: it starts at cycle 10 of its superstep and carries up to 64 bytes. -/
def win3 : Win := { entry := 3 + 10 * 2 ^ 8 + 2 * 2 ^ 24 + 1 * 2 ^ 44 }

/-- The launch of the stand. -/
def gangLaunch (w : Win) (rel : Option Nat) (words : List Word) : Launch :=
  { id := 1, queue := 0, prio := 0, asid := 0, words := words, sv := [], met := [], wins := [w], released := rel
    admitted := true, chimeSent := true }

/-- The stand: its launch, its team and its two members, with one of them to issue. -/
def standSt (c d : Core) (l : Launch) (time : Nat) : State :=
  { st [] with core := c, others := [d], teams := [team2], launches := [l], time := time }

theorem canRead_standSt (r : Nat) (run ks d l time) (xs names) :
    (standSt (gangCore r run ks) d l time).core.CanRead xs names := by
  refine canRead_of _ (fun i => ?_) rfl xs names
  rw [show (standSt (gangCore r run ks) d l time).core.train = Vector.replicate 16 {} by unfold Core.train; split <;> rfl]
  simp [Vector.get]

/-- An `xsend` and an `xrecv` before and after the start of their window, and the three steps of the window in the first
cycle of each, of WindowsMoveTheirPayload. -/
theorem witness_windows :
    let l (rel : Option Nat) := gangLaunch win3 rel []
    let s (r : Nat) (rel : Option Nat) := standSt (gangCore r .running [0x3FFC0, 64]) (gangCore (1 - r) .running []) (l rel) 10
    let x : Entry := { tag := 3, instr := .xsend (.k 0) (.k 1) 3, addr := 0, ops := { a := 0x3FFC0, b := 64 }, tr := true }
    let y : Entry := { tag := 4, instr := .xrecv (.k 0) 3, addr := 0, ops := { a := 0x3FFC0 }, tr := true }
    let w (h : Option Word) (sent : Bool) : Win :=
      { win3 with send := some (0x3FFC0, 64, 65, 3), recv := some (0x3FFC0, 4), header := h, sent := sent }
    let t (h : Option Word) (sent : Bool) (time : Nat) := standSt { gangCore 0 .running [] with entries := [x] }
      { gangCore 1 .running [] with entries := [y] } (gangLaunch (w h sent) (some 0) []) time
    EngineMayIssue (s 0 none).core ∧ (s 0 none).core.isSup = false ∧ (s 0 none).stand (s 0 none).core = some (l none) ∧
    (s 0 none).core.entryRoom = true ∧ fld ((s 0 none).core.value (.k 0)) 63 24 = 0 ∧
    (∀ r rel xs names, (s r rel).core.CanRead xs names) ∧ (s 0 none).winOf (l none) 3 true = some (0, win3) ∧
    ((s 0 none).core.value (.k 1)).toNat < 2 ^ 32 ∧ win3.send = none ∧ win3.cap = 64 ∧
    0x3FFC0 + 64 ≤ (s 0 none).core.top ∧ (s 0 none).core.rangeLocked false 0x3FFC0 64 false = false ∧
    (l none).reachedStart win3 10 = false ∧ (l (some 0)).reachedStart win3 10 = true ∧
    (s 1 none).stand (s 1 none).core = some (l none) ∧ (s 1 none).winOf (l none) 3 false = some (0, win3) ∧
    win3.recv = none ∧ (s 1 none).core.rangeLocked false 0x3FFC0 64 true = false ∧
    ((t none false 9).winDue 1 0 (fun _ => 0)).isSome = true ∧ ((t none false 8).winDue 1 0 (fun _ => 0)).isSome = false ∧
    ((t (some 64) false 10).winDue 1 0 (fun x => x.len - 1)).isSome = true ∧
    (t (some 64) false 10).standMember 1 (w (some 64) false).src = some (.tile 0) ∧
    ((t (some 64) false 10).getCore (.tile 0)).entry 3 = some x ∧
    ((t (some 64) true 15).winDue 1 0 (fun x => x.len + (t (some 64) true 15).winH 1 x)).isSome = true ∧
    (t (some 64) true 15).standMember 1 (w (some 64) true).dst = some (.tile 1) ∧
    ((t (some 64) true 15).getCore (.tile 1)).entry 4 = some y ∧
    ((t (some 64) true 15).getCore (.tile 1)).scratch.wf = true := by
  refine ⟨by unfold EngineMayIssue; decide +kernel, by decide, by decide +kernel, by decide +kernel, by decide +kernel,
    fun _ _ _ _ => canRead_standSt .., by decide +kernel⟩

/-- A member of a stand at a chime, the stand when both members have arrived, with one layer and with two, the stand
before its start, and a stand whose root is another module, of ChimesReleaseTheirStand. -/
theorem witness_chime :
    let l := gangLaunch { win3 with ended := true } (some 0) []
    let c := standSt (gangCore 0 .running [0xFFFF]) (gangCore 1 .running []) l 20
    let s := standSt (gangCore 0 (.blocked (.chime none)) []) (gangCore 1 (.blocked (.chime none)) []) l 20
    let l0 := gangLaunch win3 none []
    let u := standSt (gangCore 0 .idle []) (gangCore 1 .idle []) l0 20
    let l2 := gangLaunch { win3 with ended := true } (some 0) [0, 0, 1 + 2 ^ 9]
    let v := standSt (gangCore 0 (.blocked (.chime none)) []) (gangCore 1 (.blocked (.chime none)) []) l2 20
    c.core.inHandler = false ∧ c.core.tx.depth = 0 ∧ c.core.isSup = false ∧ c.stand c.core = some l ∧
    c.core.CanRead [.k 0] (namesOf [.k 0]) ∧ (c.core.value (.k 0)).toNat < 2 ^ 16 ∧
    let s1 := s.shareRelease l
    s.launchOf l.id = some l ∧ s.shareArrived l = true ∧ s1.releaseDone l.scope = true ∧ s1.isRoot l = true ∧
    s1.modulesArrived l = true ∧ s1.shareLayers l ++ (s1.chimesOf l.id).flatMap Prod.snd = [none, none] ∧
    v.shareArrived l2 = true ∧ c.shareArrived l2 = false ∧ c.isRoot l2 = false ∧
    u.launchOf l0.id = some l0 ∧ l0.released = none ∧ l0.admitted = true ∧ u.standMembers l0.id = [.tile 0, .tile 1] ∧
    (∀ a ∈ u.standMembers l0.id, (u.getCore a).awaitsStart = true) ∧ u.isRoot l0 = true ∧ u.modulesArrived l0 = true ∧
    v.launchOf l2.id = some l2 ∧ v.isRoot l2 = false ∧ l2.chimeSent = true ∧ l2.released ≠ none ∧
    (∀ a ∈ v.standMembers l2.id, (v.getCore a).entries = [] ∧ (v.getCore a).isSup = false ∧ (v.getCore a).tx.depth = 0) ∧
    (let d := standSt (gangCore 0 (.blocked (.chime none)) []) (gangCore 1 (.blocked (.chime (some 3))) []) l 20
     d.launchOf l.id = some l ∧ d.clusters = [] ∧ d.releaseDone l.scope = true ∧ d.shareArrived l = true ∧ d.isRoot l = true ∧
       d.modulesArrived l = true ∧ d.shareLayers l ++ (d.chimesOf l.id).flatMap Prod.snd = [none, some 3] ∧
       ∀ a ∈ d.standMembers l.id,
         (d.getCore a).entries = [] ∧ (d.getCore a).isSup = false ∧ (d.getCore a).tx.depth = 0) :=
  ⟨by decide +kernel, by decide, by decide, by decide +kernel, canRead_standSt .., by decide +kernel⟩

/-- A member of a two-core team with a counted transfer of 56 bytes at 0x5000 and its record at 0x5100, a queue record
at 0x8000, which also serves as a `wenq` record with no payload, and a handle of queue 2. -/
def sendSt : State :=
  { st [] with
    core := { memberCore 0 false with
      entries := []
      regs := regs0 [0x5000, 0x5100, 2, 0x8000, 0x10003FFF8]
      scratch := put 0x5000 [56] (put 0x5100 [0x6000 + 1 * 2 ^ 24, 64, 0, 0] []) }
    others := [{ memberCore 1 false with entries := [] }], teams := [team2] }

/-- The same core with references to the last escapement of the other core, and to its own by its id. -/
def arrSt : State := { sendSt with core := { sendSt.core with regs := regs0 [2 ^ 36 + 2 ^ 24 + 0x47F0, 2 ^ 36 + 0x47F0, 3] } }

/-- Arrivals on another core's escapement, and on the own one by its core's id, of ArrivalsLandOnTheOwnEscapement. -/
theorem witness_remote_arrival : (∃ n, ArrivalForm arrSt.core (.earrn (.k 0) (.k 2)) [.k 0, .k 2] (.k 0) n ∧ 0 < n) ∧
    arrSt.core.CanRead [.k 0, .k 2] (namesOf [.k 0, .k 2]) ∧ RemoteRef arrSt (arrSt.core.value (.k 0)) 1 1023 ∧
    RemoteRef arrSt (arrSt.core.value (.k 1)) 0 1023 ∧ arrSt.core.who = .tile 0 ∧
    arrSt.core.accessesDone false = true ∧ arrSt.core.localsDone = true := by
  refine ⟨⟨_, .earrn _ _ (by decide +kernel), by decide +kernel⟩, canRead_of _ (fun i => ?_) rfl _ _,
    by unfold RemoteRef; decide +kernel, by unfold RemoteRef; decide +kernel, by decide +kernel⟩
  rw [show arrSt.core.train = Vector.replicate 16 {} by unfold Core.train; split <;> rfl]; simp [Vector.get]

theorem canRead_sendSt (xs names) : sendSt.core.CanRead xs names := by
  refine canRead_of _ (fun i => ?_) rfl xs names
  rw [show sendSt.core.train = Vector.replicate 16 {} by unfold Core.train; split <;> rfl]; simp [Vector.get]

/-- A request of each instruction, of SendingInstructionsTakeAnId. -/
theorem witness_send : (∃ r, SendForm sendSt (.xput (.k 0) (.k 1)) (.k 0) (.k 1) r) ∧
    (∃ r, SendForm sendSt (.renq (.k 2) (.k 3)) (.k 2) (.k 3) r) ∧ (∃ r, SendForm sendSt (.wenq (.k 2) (.k 3)) (.k 2) (.k 3) r) ∧
    (∃ r, SendForm sendSt (.launch (.k 2) (.k 3)) (.k 2) (.k 3) r) ∧ (∀ xs names, sendSt.core.CanRead xs names) ∧
    EngineMayIssue sendSt.core ∧ sendSt.core.idFree = true := by
  refine ⟨?_, ?_, ?_, ?_, canRead_sendSt, by unfold EngineMayIssue; decide +kernel, by decide +kernel⟩
  · obtain ⟨⟨r, n⟩, h, -⟩ := okOf (r := sendSt.xputCheck (sendSt.core.value (.k 0)) (sendSt.core.value (.k 1)))
      (p := fun _ => true) (by decide +kernel)
    exact ⟨r, .xput _ _ r n h⟩
  · obtain ⟨r, h, -⟩ := okOf (r := sendSt.core.renqCheck (sendSt.core.value (.k 2)) (sendSt.core.value (.k 3)))
      (p := fun _ => true) (by decide +kernel)
    exact ⟨r, .renq _ _ r h⟩
  · obtain ⟨r, h, -⟩ := okOf (r := sendSt.core.wenqCheck (sendSt.core.value (.k 2)) (sendSt.core.value (.k 3)))
      (p := fun _ => true) (by decide +kernel)
    exact ⟨r, .wenq _ _ r h⟩
  · obtain ⟨r, h, -⟩ := okOf (r := sendSt.core.renqCheck (sendSt.core.value (.k 2)) (sendSt.core.value (.k 3)))
      (p := fun _ => true) (by decide +kernel)
    exact ⟨r, .launch _ _ r h⟩

/-- A handle of the team's other core at its last doubleword, its remote store and load, and a delivery, of
RemoteScratchIsReadAndWritten. -/
theorem witness_remote :
    let p : Entry := { tag := 3, instr := .rput (.k 4) (.k 0) 0, addr := 0, ops := { a := 0x103FFF8, b := 9 } }
    let g : Entry := { tag := 3, instr := .rget (.k 5) (.k 4), addr := 0, ops := { b := 0x103FFF8 } }
    let s (e : Entry) : State := { sendSt with core := { sendSt.core with entries := [e] } }
    let op : EngOp := { id := 4, tag := 9, instr := .xput (.k 0) (.k 1), addr := 0, ops := [0x5000, 56]
                        recs := [0x6000 + 1 * 2 ^ 24, 63, 0, 0] }
    let x : State := { sendSt with core := { sendSt.core with chan := [op] } }
    sendSt.core.tx.depth = 0 ∧ sendSt.core.entryRoom = true ∧ sendSt.handleCheck 0x103FFF8 0 = .ok () ∧
    ((s p).getCore (.tile 0)).entries = [p] ∧ p.started = false ∧ ((s p).getCore (.tile 0)).going = true ∧
    fld p.ops.a 35 24 = 1 ∧ fld (p.ops.a + BitVec.ofInt 64 0) 20 0 = 0x3FFF8 ∧
    0x3FFF8 + 8 ≤ ((s p).getCore (.tile 1)).top ∧ ((s p).getCore (.tile 1)).rangeLocked false 0x3FFF8 8 true = false ∧
    ((s p).getCore (.tile 1)).landings = [] ∧ g.shadow = ((s g).getCore (.tile 0)).inHandler ∧
    ((s p).getCore (.tile 1)).scratch.wf = true ∧ ((s g).getCore (.tile 0)).entries = [g] ∧ fld g.ops.b 35 24 = 1 ∧
    fld g.ops.b 20 0 + 8 ≤ ((s g).getCore (.tile 1)).top ∧ (x.getCore (.tile 0)).chan = [op] ∧ xpMod op.recs = x.self ∧
    xpCore op.recs = 1 ∧ (x.getCore (.tile 1)).refuses 0x6000 63 = false := by decide +kernel

/-- A queue with room: enabled, of a dispatcher or of team 1, with some records. -/
def queueOf (team : Bool) (rs : List QRec) : Queue :=
  { idx := 2, d0 := 2 ^ 63 + (if team then 2 ^ 62 else 0), ringSize := 2, d3 := 1, recs := rs }

/-- A record on its way to its queue and one that another module answers, an incoming record, a pop of an empty queue
and one that wakes, of QueuesAreFilledAndPopped. -/
theorem witness_queues :
    let op (m : Bool) : EngOp := { id := 4, tag := 9, instr := .launch (.k 2) (.k 3), addr := 0, ops := [2, 0x8000], recs := []
                                   moved := m }
    let s (m : Bool) (q : Queue) : State := { sendSt with core := { sendSt.core with chan := [op m] }, queues := [q] }
    let r : QRec := { bytes := [1], sv := [] }
    let t (rs : List QRec) (run : Run) : State :=
      { sendSt with core := { sendSt.core with run := run }, queues := [queueOf true rs] }
    OnlyTransfer ((s false (queueOf false [])).getCore (.tile 0)) (op false) ∧
    OnlyTransfer ((s true (queueOf false [])).getCore (.tile 0)) (op true) ∧ (op true).isQueue = true ∧
    hdMod (wordAt (op false).ops 0) = (s false (queueOf false [])).self ∧
    (s false (queueOf false [])).queueFor (wordAt (op false).ops 0) (op false).instr = some (queueOf false []) ∧
    (queueOf false [r]).room = true ∧
    ((s false (queueOf false [])).queue (hdIdx 2)).en = true ∧ ((s false (queueOf false [])).queue (hdIdx 2)).gen = hdGen 2 ∧
    ((s false (queueOf false [])).queue (hdIdx 2)).teamBound = false ∧
    ((s false (queueOf false [])).queue (hdIdx 2)).room = true ∧
    (∀ rs run xs names, (t rs run).core.CanRead xs names) ∧ (t [] .running).core.engineReady = true ∧
    (t [] .running).core.accessesDone false = true ∧ (t [] .running).core.inHandler = false ∧
    (t [] .running).core.tx.depth = 0 ∧ (t [] .running).core.isSup = false ∧
    (t [] .running).popCheck ((t [] .running).core.value (.k 0)) = .ok (queueOf true [], 0x5000) ∧
    (t [r] .running).popCheck ((t [r] .running).core.value (.k 0)) = .ok (queueOf true [r], 0x5000) ∧
    ((t [r] (.blocked (.qpop 0x5000))).getCore (.tile 0)).run = .blocked (.qpop 0x5000) ∧
    (t [r] (.blocked (.qpop 0x5000))).boundQueue ((t [r] (.blocked (.qpop 0x5000))).getCore (.tile 0)) = some (queueOf true [r]) ∧
    (t [r] (.blocked (.qpop 0x5000))).popBefore ((t [r] (.blocked (.qpop 0x5000))).getCore (.tile 0)) = false := by
  refine ⟨by unfold OnlyTransfer; decide +kernel, by unfold OnlyTransfer; decide +kernel, by decide +kernel, by decide +kernel,
    by decide +kernel, by decide +kernel, by decide +kernel, by decide +kernel, by decide +kernel, by decide +kernel,
    fun rs run xs names => ?_, by decide +kernel⟩
  refine canRead_of _ (fun i => ?_) rfl xs names
  show (sendSt.core.train.get i).tag = none
  rw [show sendSt.core.train = Vector.replicate 16 {} by unfold Core.train; split <;> rfl]; simp [Vector.get]

/-- A write whose answer holds no fault. -/
theorem paidOf {r : Res (State × PayloadEnd)} {p : State → Bool}
    (h : (match r with | .ok x => x.2.isNone && p x.1 | _ => false) = true) : ∃ s1, r = .ok (s1, none) ∧ p s1 = true := by
  cases r with
  | ok x => obtain ⟨a, b⟩ := x; cases b <;> simp_all
  | bad _ => simp at h
  | wait => simp at h

/-- The payload of a `wenq` of another module, into an address space whose first gigabyte is mapped, of
QueuesAreFilledAndPopped. -/
theorem witness_payload :
    let s : State := { st [] with
      teams := [team2], queues := [queueOf true []], ports := { (st []).ports with linkup := 1 }
      launches := [gangLaunch win3 none []]
      mem := [(0, 1), (2, 1), (0x10000, 1), (0x10002, 2), (0x20000, 0x7F), (0x20001, 1)] }
    (s.queue (hdIdx 2)).en = true ∧ (s.queue (hdIdx 2)).gen = hdGen 2 ∧ (s.queue (hdIdx 2)).room = true ∧
    (s.queue (hdIdx 2)).teamBound = true ∧
    ∃ s1, s.writePayload (s.queue (hdIdx 2)) 0x8000 [1, 2] = .ok (s1, none) ∧ s1.releaseDone .sys = true :=
  ⟨by decide +kernel, by decide +kernel, by decide +kernel, by decide +kernel, paidOf (by decide +kernel)⟩

/-- A layout record of two rows of 16 INT8 elements in global memory, taken a row at a time. -/
def globalRows : List Word :=
  [0x8000, 2 * 2 ^ 5 + 10, 16 + 2 * 2 ^ 21, 0, 16, 0, 16 + 2 ^ 12, 0, 0, 0, 2 ^ 16 + 8, 0].map (BitVec.ofNat 64)

/-- A walk record: two tiles along dimension 1 to the first core of die 0, walk 7, two slots of 16 bytes at 0x6000. -/
def walkRec : List Word := [0x5100, 2 + 2 ^ 16 + 7 * 2 ^ 20, 2 ^ 10 + 2 ^ 15, 0x6000 + 2 ^ 24 + 16 * 2 ^ 28]

/-- The core of a team of one with these records and, in the second form, the walk they start. -/
def walkCoreSt (ws : List Walk) : State :=
  { st [] with
    core := { memberCore 0 false with
      entries := [], regs := regs0 [0x5000, 7, 1], walks := ws, scratch := put 0x5000 walkRec (put 0x5100 globalRows []) }
    teams := [{ team2 with w := 1 }]
    mem := [(0, 1), (2, 1), (0x10000, 1), (0x10002, 2), (0x20000, 0x7F), (0x20001, 1)] }

theorem canRead_walkCoreSt (ws xs names) : (walkCoreSt ws).core.CanRead xs names := by
  refine canRead_of _ (fun i => ?_) rfl xs names
  rw [show (walkCoreSt ws).core.train = Vector.replicate 16 {} by unfold Core.train; split <;> rfl]; simp [Vector.get]

/-- The records that start a walk, a `permit` up to the slots, and the last tile, of WalksDeliverTilesByCredit. -/
theorem witness_walks :
    let w (n c : Nat) : Walk := { wid := 7, words := walkRec, layout := globalRows, next := n, credits := [(0, c)] }
    EngineMayIssue (walkCoreSt []).core ∧ (walkCoreSt []).core.isSup = false ∧ (∀ ws xs names, (walkCoreSt ws).core.CanRead xs names) ∧
    (∃ p, (walkCoreSt []).walkCheck ((walkCoreSt []).core.value (.k 0)) = .ok p ∧ (p.2 == globalRows) = true) ∧
    (walkCoreSt []).clusterWalks (clusterOfAgent (walkCoreSt []).core.who) < 4 ∧ (walkCoreSt [w 0 1]).core.tx.depth = 0 ∧
    (walkCoreSt [w 0 1]).core.engineReady = true ∧ (walkCoreSt [w 0 1]).core.accessesDone false = true ∧
    (walkCoreSt [w 0 1]).permitWalk ((walkCoreSt [w 0 1]).core.value (.k 1)) ((walkCoreSt [w 0 1]).core.value (.k 2)) =
      some (.tile 0, w 0 1, 1) ∧
    ((walkCoreSt [w 1 1]).getCore (.tile 0)).walks = [w 1 1] ∧ (w 1 1).wid < 8 ∧ (∀ p ∈ (w 1 1).credits, p.2 ≠ 0) ∧
    (match (walkCoreSt [w 1 1]).moveTile (.tile 0) walkRec globalRows 1 (0x6000 + 16) [0] with
      | .ok p => p.2.isNone && (p.1.getCore (.tile 0)).walks == [w 1 1] && p.1.scopeDone (wkStore walkRec) (Lay.scope globalRows)
      | _ => false) = true ∧
    (let u : State := { st [] with ports := { (st []).ports with invs := [(0, 1)] } }
     u.scopeDone true .sys = false ∧ u.scopeDone false .sys = true) ∧
    ((walkCoreSt [{ w 1 1 with wrote := true }]).getCore (.tile 0)).walks = [{ w 1 1 with wrote := true }] :=
  ⟨by unfold EngineMayIssue; decide +kernel, by decide, canRead_walkCoreSt,
    okOf (p := fun p : List Word × Layout => p.2 == globalRows) (by decide +kernel), by decide +kernel⟩

/-- A launch record of one-core teams: code at 0x40000, two granules of scratch, one team, and successor 7 at 0x50000.
-/
def launchRec (gang : Bool) : List Word :=
  [0x40000, 1 + 2 ^ 5 + 2 * 2 ^ 10 + (if gang then 2 ^ 28 else 0) + 2 ^ 29] ++ List.replicate 19 0 ++ [2 ^ 63 + 0x50000]
    ++ List.replicate 10 0

/-- A team of one core that runs the kernel of that record. -/
def team1 : Team := { team2 with w := 1, words := launchRec false }

/-- Its launch. -/
def launch1 (gang ready : Bool) (todo : List Nat) : Launch :=
  { id := 1, queue := 2, prio := 0, asid := 0, words := launchRec gang, sv := List.replicate 32 0, met := [true, true, true, true]
    ready := ready, nt := 1, todo := todo }

/-- A `sig` of the last counter, a `carve` to the largest scratch and a `succ` of the last successor, of
TeamChainsHoldTheirCore. -/
theorem witness_team_chains :
    let s := { st [0x7FFF, 47, 0x3FFFFFFFF, 0x7FFFFFFFFFFF] with teams := [team1] }
    (∀ ks xs names, (st ks).core.CanRead xs names) ∧ s.core.tx.depth = 0 ∧ s.core.inHandler = false ∧ s.core.isSup = false ∧
    s.core.entryRoom = true ∧ (s.core.value (.k 0)).toNat < 2 ^ 15 ∧ carveOk (s.core.value (.k 1)) = true ∧
    (s.core.value (.k 2)).toNat < 2 ^ 34 ∧ (s.core.value (.k 3)).toNat < 2 ^ 47 ∧
    (lrSucc (s.kernelRec s.core) 7).getLsbD 63 = true := ⟨canRead_st, by decide +kernel⟩

/-- A result of the checks at readiness. -/
theorem preparedOf {r : Prepared} (h : (match r with | .ok _ _ _ nt _ _ _ => decide (0 < nt) | _ => false) = true) :
    ∃ s1 sv wr nt cs sch xs, r = .ok s1 sv wr nt cs sch xs ∧ 0 < nt := by
  cases r <;> simp at h; exact ⟨_, _, _, _, _, _, _, rfl, h⟩

/-- The module with a queue of die 0 that holds the record, and launches at each stage of their way, of
LaunchesAreTakenAndStarted: taken, met, picked as a queued team, and picked as a gang. -/
theorem witness_launch :
    let r : QRec := { bytes := bytesOfWords64 (launchRec false), sv := List.replicate 32 0 }
    let base : State := { State.reset with ports := { State.reset.ports with ready := BitVec.allOnes 64 } }
    let s (ls : List Launch) : State := { base with queues := [queueOf false [r]], launches := ls }
    ((s []).queue 2).en = true ∧ ((s []).queue 2).teamBound = false ∧ (s []).dispatcherReady ((s []).queue 2) = true ∧
    ((s []).queue 2).recs = [r] ∧ r.bytes ≠ [] ∧ recordCode (wordsOf r.bytes) ((s []).queue 2).home = 0 ∧
    (s [launch1 false false []]).launchOf 1 = some (launch1 false false []) ∧
    (∃ s1 sv wr nt cs sch xs, (s [launch1 false false []]).prepare true ((s [launch1 false false []]).queue 2).die
      ((s [launch1 false false []]).queue 2).home 0 (launchRec false) (List.replicate 32 0) = .ok s1 sv wr nt cs sch xs ∧ 0 < nt) ∧
    (((s [launch1 false true [0]]).probed 0).pick 0).map (fun p => (p.1.launch, p.1.team)) =
      some (launch1 false true [0], some 0) ∧
    ((s [launch1 false true [0]]).probed 0).rectFree 1 0 0 15 19 1 1 = true ∧
    (let g := (List.range 8).foldl State.probed (s [launch1 true true [0]])
     (g.pickedGang 1).isSome = true ∧ g.placeOk { launch1 true true [0] with place := [] } [(0, 15, 19)] = true) ∧
    (let l : Launch := { launch1 true true [0] with
        words := (launchRec true).set 2 (2 ^ 9), place := [(0, 15, 19)], nt := 1 }
     (s [l]).launchOf 1 = some l ∧ l.spans = true ∧ l.ready = true ∧ l.admitted = false ∧
       (s [l]).returning l.prio = false ∧ (s [l]).placeOk { l with place := [] } [(0, 15, 19)] = true) :=
  ⟨by decide +kernel, by decide +kernel, by decide +kernel, by decide +kernel, by decide +kernel, by decide +kernel,
    by decide +kernel, preparedOf (by decide +kernel), by decide +kernel, by decide +kernel, by decide +kernel⟩

/-- The team of one core, its member in a state of its run, with its record at 0x50000 of memory. -/
def teamSt (run : Run) : State :=
  { st [] with
    core := { tileCore [] with run := run }, teams := [team1], launches := [launch1 false true []]
    mem := (Memory.writeBytes [(0, 1), (2, 1), (0x10000, 1), (0x10002, 2), (0x20000, 0x7F), (0x20001, 1)] 0x50000
      (bytesOfWords64 (launchRec false))) }

/-- A member that has ended, one that asks for a `carve` and one that gives a `succ`, of
TeamsRetireRenegotiateAndHandOver. -/
theorem witness_team_ends :
    let e := teamSt .ended
    let v := teamSt (.held (.carve (.k 0)) { a := 2 })
    let h := teamSt (.held (.succ 7 (.k 0) (.k 1)) { a := 7, b := 0x3FFFFFFFF, c := 0 })
    e.teamOf 1 = some team1 ∧ e.launchOf 1 = some (launch1 false true []) ∧ lrGang (launchRec false) = false ∧
    (launch1 false true []).spans = false ∧ (∀ a ∈ team1.members, e.memberDone a = true) ∧ e.windowsEnded (launch1 false true []) = true ∧
    (e.releaseTeam team1 (launch1 false true []).scope).releaseDone (launch1 false true []).scope = true ∧ 0 < team1.size ∧
    (∃ s1 : State, (e.releaseTeam team1 (launch1 false true []).scope).retireTeams (launch1 false true []) [team1] team1.words =
      .ok s1 ∧ s1.teams.isEmpty = true) ∧ (v.getCore (.tile 0)).scr = 16 ∧
    (∀ a ∈ team1.members, (v.getCore a).carveAsked = some 2 ∧ (v.getCore a).vqueue = [] ∧ (v.getCore a).mergesDone = true ∧
      (v.getCore a).topFree (fld (2 : Word) 5 0) = true ∧ (v.getCore a).accessesDone false = true) ∧
    (∀ a ∈ team1.members, (h.getCore a).succAsked = some (7, 0x3FFFFFFFF, 0) ∧ (h.getCore a).accessesDone true = true) ∧
    ∃ p : State × List Byte, h.dieRead team1.die 0 (fld (lrSucc team1.words 7) 51 0) 256 = .ok p ∧
      (wordsOf p.2 == launchRec false && recordCode (wordsOf p.2) (h.queue 2).home == 0 &&
        team1.members.all (fun a => p.1.handReady a 0x3FFFFFFFF 0 (lrScr (wordsOf p.2)) &&
          (p.1.getCore a).succAsked == some (7, 0x3FFFFFFFF, 0)) &&
        match p.1.prepare false team1.die 15 0 (wordsOf p.2) (p.1.getCore (team1.member 0)).regs.sv.toList with
        | .ok s2 _ _ _ _ _ _ => team1.members.all fun a => (s2.getCore a).succAsked == some (7, 0x3FFFFFFFF, 0) &&
            (s2.getCore a).chan.isEmpty && (s2.getCore a).scratch.wf
        | _ => false) = true :=
  ⟨by decide +kernel, by decide +kernel, by decide +kernel, by decide +kernel, by decide +kernel, by decide +kernel, by decide +kernel, by decide,
    okOf (p := fun s1 : State => s1.teams.isEmpty) (by decide +kernel), by decide +kernel, by decide +kernel, by decide +kernel,
    okOf (by decide +kernel)⟩

/-- A CSR of every core, one of the supervisor on both kinds of core, writes of each kind with all their bits, and
values that no map allows, of ControlRegistersAreReadAndWritten. -/
theorem witness_csr : (st []).core.vqueue = [] ∧ supCsr .deadline = true ∧ (sp []).core.isSup = true ∧ (st []).core.isSup = false ∧
    (st []).core.tx.depth = 0 ∧ (∀ ks xs names, (st ks).core.CanRead xs names) ∧
    (∃ v, CsrRule ((st [-1]).core.value (.k 0)) ((st [-1]).csrRead .nflags) .nflags v) ∧
    (∃ v, CsrRule ((st [-1]).core.value (.k 0)) ((st [-1]).csrRead .rlstat) .rlstat v) ∧
    (∃ v, CsrRule ((st [6]).core.value (.k 0)) ((st [6]).csrRead .vcfg) .vcfg v) ∧
    (∃ v, CsrRule ((st [0x2C]).core.value (.k 0)) ((st [0x2C]).csrRead (.awin 6)) (.awin 6) v) ∧
    (∃ v, CsrRule ((st [-1]).core.value (.k 0)) ((st [-1]).csrRead .uictl) .uictl v) ∧
    (∃ v, CsrRule ((st [0x1FFFF0]).core.value (.k 0)) ((st [0x1FFFF0]).csrRead .mstk) .mstk v) ∧
    csrBad ((st [7]).core.value (.k 0)) ((st [7]).csrRead .vcfg) .vcfg ∧
    csrBad ((st [0xD]).core.value (.k 0)) ((st [0xD]).csrRead (.awin 0)) (.awin 0) ∧
    (let s := { st [0x10] with core := { tileCore [0x10] with csr := { csr0 with mstk := 2 ^ 24 } } }
     csrBad (s.core.value (.k 0)) (s.csrRead .mstk) .mstk) :=
  ⟨by decide, by decide, by decide, by decide, by decide, canRead_st, ⟨_, .nflags⟩, ⟨_, .rlstat⟩, ⟨_, .vcfg (by decide +kernel)⟩,
    ⟨_, .awin 6 (by decide +kernel) (by decide +kernel)⟩, ⟨_, .fixed _ (by decide)⟩,
    ⟨0x1FFFF0, .mstk _ (.inr (by decide +kernel)) (by decide +kernel)⟩, by unfold csrBad; decide +kernel,
    by unfold csrBad; decide +kernel, by unfold csrBad; decide +kernel⟩

/-- The supervisor core of die 0 beside tile core 0 in a state of its run. -/
def supSt (ks : List Word) (run : Run) : State := { sp ks with others := [{ tileCore [] with run := run }] }

theorem canRead_supSt (ks run xs names) : (supSt ks run).core.CanRead xs names := canRead_sp ks xs names

/-- Each supervisor instruction and each completion of SupervisorInstructionsTakeEffect. -/
theorem witness_supervisor :
    let s := supSt [0, 0x8000, 16, 0x3FE00, 0x60000] .running
    let p := supSt [0] .parked
    let m : Msg := { row := 9, w0 := 0, w1 := 0, w2 := 0, w3 := 0 }
    let h (i : Instr) (o : Ops) := spWith (.held i o) []
    s.core.isSup = true ∧ s.core.tx.depth = 0 ∧ s.dieCore (s.core.value (.k 0)) = .ok (.tile 0) ∧
    (s.getCore (.tile 0)).hasThread = true ∧ (s.getCore (.tile 0)).tx.depth = 0 ∧ (p.getCore (.tile 0)).run = .parked ∧
    (p.getCore (.tile 0)).entries = [] ∧ tlbinvOk (s.core.value (.k 1)) (s.core.value (.k 4)) = true ∧
    s.pclrCheck (s.core.value (.k 1)) = .ok () ∧
    s.core.mboxCheck (s.core.value (.k 3)) (s.core.value (.k 2)) = .ok 0x3FE00 ∧
    s.core.vectorHolds 0x3FE00 512 = false ∧ (∀ run ks xs names, (supSt ks run).core.CanRead xs names) ∧
    (st []).core.isSup = false ∧ (st []).core.accessesDone false = true ∧
    (((st []).release (st []).core.who .die).die (dieOf (st []).core.who)).sharedRoom
      ((st []).core.message kindSoft 0 false 0 0).row = true ∧
    (h (.tlbinv (.k 1) (.k 4)) { a := 0, b := 0xE0000 }).txUnder (reachDies 0 0xE0000) 0 0xE0000 = false ∧
    ((h (.tlbinv (.k 1) (.k 4)) { a := 0, b := 0xE0000 }).getCore (.sup 0)).run = .held (.tlbinv (.k 1) (.k 4)) { a := 0, b := 0xE0000 } ∧
    fld (0xE0000 : Word) 19 18 = 3 ∧ fld (0xE0000 : Word) 17 16 = 2 ∧
    (h (.tlbinv (.k 1) (.k 4)) { a := 0, b := 0xE0000 }).ports.tlbs = [] ∧
    ((h (.pclr (.k 1)) { a := 0x8000 }).getCore (.sup 0)).run = .held (.pclr (.k 1)) { a := 0x8000 } ∧
    (0x8000 : Word).toNat = 128 * 256 ∧ (h (.pclr (.k 1)) { a := 0x8000 }).mem.wf = true ∧
    (({ st [] with dies := [{ id := 0, rows := [m] }] } : State).die 0).rows = [m] ∧
    (({ st [] with dies := [{ id := 0, rows := [m] }] } : State).die 0).mailbox.length < 256 :=
  ⟨by decide, by decide, by decide +kernel, by decide +kernel, by decide +kernel, by decide +kernel, by decide +kernel,
    by decide +kernel, by decide +kernel, by decide +kernel, by decide +kernel, fun run ks => canRead_supSt ks run, by decide +kernel⟩

/-- Tile core 0 parked with one unfinished instruction, and a position of its train that awaits it, beside the
supervisor. -/
def parkedSt (ks : List Word) (e : Entry) : State :=
  { sp ks with
    others := [{ tileCore [] with
      run := .parked, entries := [e], leases := [{ reg := .vec 1, own := 3 }]
      regs := { regs0 [] with train := setAt (Vector.replicate 16 {}) 2 { value := 0, tag := some 3 } }
      frame := { code := .align, dec := true, resume := 0x2000, next := 0x2004 } }] }

/-- The end of a park with an entry that completes, one that is discarded and one that is issued again with its checks
passed and failed; items of each class; selections of each kind and reach with a translation that each names; and a
`pclr` that waits and one that does not, of SupervisorInstructionsTakeEffect. -/
theorem witness_unparks :
    let l (f v : Bool) : Entry := { tag := 3, instr := .ldg .d false .cl (.k 2) (.k 0) 0, addr := 0, flt := f, v := v, result := 7 }
    let x (a : Word) : Entry := { tag := 3, instr := .vst 1 (.k 0), addr := 0, ops := { b := a }, v := true, cfg0 := 6 }
    (∀ e, let s := parkedSt [0, 5] e
      s.core.isSup = true ∧ (s.getCore (.tile 0)).run = .parked ∧ (s.getCore (.tile 0)).entries = [e] ∧
      (s.getCore (.tile 0)).tx.depth = 0 ∧ (s.getCore (.tile 0)).locks = [] ∧
      ((s.getCore (.tile 0)).entries.map Entry.tag).Nodup) ∧
    (∀ f v, ((parkedSt [0, 5] (l f v)).getCore (.tile 0)).unfinished (l f v) = true ∧ windowEntry (l f v).instr = false) ∧
    (∀ a, ((parkedSt [0, 5] (x a)).getCore (.tile 0)).unfinished (x a) = true ∧ windowEntry (x a).instr = false ∧
      (x a).met = false) ∧
    (parkedSt [0, 5] (x 0)).dieCore ((parkedSt [0, 5] (x 0)).core.value (.k 0)) = .ok (.tile 0) ∧
    (∀ a, unitOf (x a).instr = 1 ∧ (x a).isAccess = false) ∧
    ((parkedSt [] (x 0x8000)).getCore (.tile 0)).vectorRecheck (x 0x8000) = .ok () ∧
    (match ((parkedSt [] (x 0x8001)).getCore (.tile 0)).vectorRecheck (x 0x8001) with
      | .bad f => f.code == .align
      | _ => false) = true ∧
    ([((0x1000 : Word), (0x40000 : Word)), (0, 0x90007), (0, 0xE0000)].all fun p => tlbinvOk p.1 p.2 &&
      !(spWith (.held (.tlbinv (.k 1) (.k 4)) { a := p.1, b := p.2 }) []).txUnder (reachDies 0 p.2) p.1 p.2) = true ∧
    tlbinvOk 0 0 = false ∧ tlbinvOk 0 0x70000 = false ∧
    ((spWith (.held (.pclr (.k 1)) { a := 0x8000, b := 1 }) []).getCore (.sup 0)).run =
      .held (.pclr (.k 1)) { a := 0x8000, b := 1 } ∧ (sp []).ports.invs = [] ∧
    ({ (sp []).ports with invs := [(256, 1)] } : Ports).invs ≠ [] ∧
    (let s := { supSt [0] .parked with
       teams := [team1], launches := [launch1 false true []]
       others := [{ tileCore [] with run := .parked }] }
     (s.getCore (.tile 0)).task.map Task.team = some 1 ∧ s.teamOf 1 = some team1 ∧
     s.launchOf team1.launch = some (launch1 false true []) ∧ lrGang (launch1 false true []).words = false ∧
     (s.releaseTeam team1 (launch1 false true []).scope).releaseDone (launch1 false true []).scope = true ∧
     ∃ s1 : State, ((s.releaseTeam team1 (launch1 false true []).scope).setLaunch { launch1 false true [] with code := 6 }).retireTeams
       (launch1 false true []) [team1] team1.words = .ok s1 ∧ s1.teams.isEmpty = true) :=
  ⟨fun _ => ⟨rfl, rfl, rfl, rfl, rfl, List.nodup_singleton _⟩, fun _ _ => ⟨rfl, rfl⟩, fun _ => ⟨rfl, rfl, rfl⟩, by decide +kernel,
    fun _ => ⟨rfl, rfl⟩, by decide +kernel, by decide +kernel, by decide +kernel, by decide +kernel,
    by decide +kernel, rfl, rfl, by decide, by decide +kernel, by decide +kernel, by decide +kernel,
    by decide +kernel, by decide +kernel, okOf (p := fun s1 : State => s1.teams.isEmpty) (by decide +kernel)⟩

/-- The members of a saved context, by their place in a team of four: ended, at a blocking point, parked at a forced
stop, and parked for a fault. -/
def savedCores : List Core :=
  [(Run.ended, Code.none), (.blocked (.await 3), .none), (.parked, .deadline), (.parked, .align)].zipIdx.map fun p =>
    { tileCore [] with
      who := .tile (coreAt 0 p.2 0), run := p.1.1, frame := { code := p.1.2, resume := 0x2000 }
      task := some { launch := 1, team := 1, rank := p.2, gang := false, ctx := 1, asid := 0 } }

/-- A team of four by one. -/
def team4 : Team := { team1 with w := 4 }

/-- A saved context of these members, asked back or not. -/
def savedCtx (q : Bool) : Saved :=
  { team := 1, area := 0x8000, csz := 0, free := 0, teams := [team4], cores := savedCores, launch := 1, forced := false
    disc := false, asked := q }

/-- A save that is asked for, of a team with no member stopped by force and of one with such a member, and a saved
context, which a `ctxload` asks for and which comes back, of ContextsAreSavedAndRestored. -/
theorem witness_contexts :
    let s (r : Run) := { supSt [1, 0x8000] .running with
      teams := [team1], launches := [launch1 false true []]
      others := [{ tileCore [] with run := r, frame := { code := .deadline } }] }
    let l := { supSt [1, 0x8000] .running with
      saved := [savedCtx false], launches := [launch1 false true []], mem := [(0x8000, 1), (0x8008, 1)] }
    let t := { l with saved := [savedCtx true], others := [] }
    (∀ r ∈ [Run.running, .parked], (s r).core.isSup = true ∧ (s r).core.tx.depth = 0 ∧
      ((s r).core.value (.k 0)).toNat < 2 ^ 32 ∧ fld ((s r).core.value (.k 1)) 62 56 = 0 ∧
      (s r).teamOnDie ((s r).core.value (.k 0)).toNat (dieOf (s r).core.who) = true ∧
      (s r).saveAsked ((s r).core.value (.k 0)).toNat = false ∧
      (s r).areaReach (fld ((s r).core.value (.k 1)) 55 0) (4096 + ((s r).saveMembers 1).length * (s r).saveSize 1) = .ok () ∧
      ((s r).saveMembers 1).map (fun a => ((s r).getCore a).run) = [r]) ∧
    (∃ x, l.areaHeader (dieOf l.core.who) (fld (l.core.value (.k 1)) 55 0) = .ok x ∧
      (x.2.1 == 1 && x.2.2 == (l.core.value (.k 0)).toNat &&
        x.1.areaReach (fld (l.core.value (.k 1)) 55 0) (x.1.savedSize x.2.2) == .ok ()) = true) ∧
    fld (l.core.value (.k 1)) 63 56 = 0 ∧ (savedCtx false).team = 1 ∧ (savedCtx false).asked = false ∧
    t.saved.find? (fun x => x.area == 0x8000 && x.asked) = some (savedCtx true) ∧
    t.launchOf 1 = some (launch1 false true []) ∧ t.returnable (savedCtx true) (launch1 false true []) = true ∧
    t.areaReach 0x8000 (savedCtx true).bytes = .ok () ∧ (∀ i < (savedCtx true).bytes, t.foreign (0x8000 + i) = false) ∧
    t.clusters = [] ∧ t.ports.held = [] ∧ t.mem.wf = true ∧
    (∀ k < savedCores.length, t.recordAt (savedCtx true) k = (savedCtx true).written k) ∧
    (savedCores.map Core.who).Nodup ∧
    (∀ c ∈ savedCores, c.granules = [] ∧ c.entries = [] ∧ c.scratch.wf = true) := by
  refine ⟨by decide +kernel, okOf (by decide +kernel), by decide +kernel, rfl, rfl, by decide +kernel, by decide +kernel,
    by decide +kernel, by decide +kernel, fun i h => ?_, rfl, rfl, rfl, by decide +kernel⟩
  have h : i < 4096 := h
  simp [State.foreign, modOf, State.self, supSt, sp]; omega

/-- A `yield` with no save asked for, one with a save and another member at a blocking point, a save whose deadline has
come, a stand of several modules with no save here, and a team that rests, saved at its leave or by force, of
ContextsAreSavedAndRestored. -/
theorem witness_evictions :
    let v (d : Option Nat) (f : Bool) : Save := { team := 1, area := 0x8000, disc := false, due := d, die := 0, forced := f }
    let e (run : Run) (d : Option Nat) (f : Bool) := { teamSt run with saves := [v d f] }
    let y : State := { st [] with
      core := { memberCore 0 false with entries := [] }
      others := [{ memberCore 1 false with entries := [], run := .blocked (.await 3) }]
      teams := [team2], launches := [launch1 false true []], saves := [v (some 0) false] }
    let g := gangLaunch win3 (some 0) ((launchRec true).set 2 (2 ^ 9))
    let n := standSt (gangCore 0 .running []) (gangCore 1 .running []) g 20
    (teamSt .running).core.inHandler = false ∧ (teamSt .running).core.tx.depth = 0 ∧ (teamSt .running).saveAsked 1 = false ∧
    y.core.inHandler = false ∧ y.core.tx.depth = 0 ∧ y.core.task.map (fun k => (k.team, k.gang)) = some (1, false) ∧
    y.saveAsked 1 = true ∧ y.core.merge = none ∧ y.saveMembers 1 = [.tile 0, .tile 1] ∧
    ((y.getCore (.tile 1)).rests false = true ∧ (y.getCore (.tile 1)).merge = none ∧
      (y.getCore (.tile 1)).run = .blocked (.await 3)) ∧
    (e .running (some 0) false).saves = [v (some 0) false] ∧ 0 ≤ (e .running (some 0) false).time ∧
    (e .running (some 0) false).saveMembers 1 = [.tile 0] ∧ ((e .running (some 0) false).getCore (.tile 0)).run = .running ∧
    ((e .running (some 0) false).getCore (.tile 0)).yieldAt ≠ some 0 ∧
    ((e .running (some 0) false).getCore (.tile 0)).tx.depth = 0 ∧
    n.saves = [] ∧ n.standSpans 1 = true ∧ n.saveMembers 1 = [.tile 0, .tile 1] ∧
    (∀ f ∈ [true, false], let s1 := (e .stopped none f).sourcesWalked ((e .stopped none f).saveMembers 1)
      s1.saves = [v none f] ∧ s1.teamOf 1 = some team1 ∧ s1.launchOf 1 = some (launch1 false true []) ∧
      s1.evictable 1 = true ∧ ∀ a ∈ team1.members, s1.drained a = true) := by
  decide +kernel

/-- A line of this module, one of them poisoned, asked for by a module of the domain, of
CoherenceAndLinkMessagesTakeTheirEffect. -/
theorem witness_grant (h : 5 ∈ Config.domain) :
    let s (p : List Nat) : State := { st [] with poison := p, ports := { (st []).ports with linkup := 1 } }
    (∀ p, 5 ∈ (s p).otherModules) ∧ (∀ p ∈ [[], [256]], (s p).foreign (256 * 128) = false ∧ (s p).ports.linkup ≠ 0 ∧
      (s p).reach (256 * 128) 0 = .ok ()) ∧ (s [256]).poisoned (256 * 128) = true ∧ (s []).poisoned (256 * 128) = false :=
  ⟨fun p => List.mem_filter.mpr ⟨h, rfl⟩, by decide +kernel, by decide, by decide⟩

/-- A line's bytes, and a line of this module and one of another, with a modified copy and without one, of
CoherenceAndLinkMessagesTakeTheirEffect. -/
theorem witness_coherence : (List.replicate 128 (0 : Byte)).length = 128 ∧ (st []).mem.wf = true ∧
    (st []).foreign (2 ^ 40 * 128) = true ∧ (st []).foreign (0 * 128) = false ∧ fld (0x20000 : Word) 17 16 = 2 ∧
    (st []).txUnder (List.range 8) 0 0x20000 = false ∧ (st []).ports.pst ≠ 3 ∧
    ({ (st []).ports with psctl := 0xF } : Ports).pst = 3 ∧ (st []).poisoned (0 * 128) = false ∧
    (∀ e ∈ (st []).l2, e.line = 2 ^ 40 → e.st ≠ .m ∧ e.st ≠ .o) ∧ (∀ c ∈ (st []).cores, c.tx.depth = 0) ∧
    (∃ e ∈ ({ st [] with l2 := [{ die := 0, line := 2 ^ 40, st := .m }] } : State).l2,
      e.line = 2 ^ 40 ∧ (e.st = .m ∨ e.st = .o)) := by decide +kernel

/-- Units of each kind that are to leave, a function of a module where nothing waits, and a frame's port and counter, of
BringUpFramesAndHostRequestsTakeTheirEffect. -/
theorem witness_bringup :
    let s : State := { State.reset with ports := { State.reset.ports with gateCmd := Vector.replicate 24 (BitVec.allOnes 64), imageOk := true } }
    (∀ d < 8, s.gateWanted d 0 0 = true ∧ s.gateWanted d 1 15 = true ∧ s.gateWanted d 2 31 = true ∧ s.gateWanted d 1 63 = true ∧
      s.gateIs d 1 63 = false ∧ s.gateIs d 2 31 = false ∧ s.gateIs d 1 15 = false ∧
      (s.taskOn fun id => clusterOf id == clusterId d 79) = false ∧ (s.taskOn fun id => dieOf (.tile id) == d) = false) ∧
    s.comesUp (.die 7) = true ∧ s.comesUp (.eth 7 true) = true ∧
    s.ports.ready.getLsbD (fnBit (.eth 7 true)) = false ∧ s.ports.failed.getLsbD (fnBit (.eth 7 true)) = false ∧
    s.ports.posted = [] ∧ s.ports.hostWait = [] ∧ (∀ q ∈ s.queues, q.toTake = 0) ∧
    (match (st []).portWrite 0x8000 [1, 2] with | .ok _ => true | _ => false) = true ∧
    (match (st []).portRead 0x8000 64 with | .ok _ => true | _ => false) = true ∧
    (st []).ports.ready.getLsbD (26 + 7) = true ∧ ({ (st []).ports with split := 0x80 } : Ports).split.getLsbD 7 = true ∧
    (st []).ports.image = [] ∧ ({ (st []).ports with image := [1] } : Ports).image ≠ [] := by decide +kernel

/-- The bridging strap is the module's own: with it, every hypothesis on the host's access is met, of
BringUpFramesAndHostRequestsTakeTheirEffect. -/
theorem witness_host (h : Config.bridging = true) :
    let s := st []
    s.bridgeOn = true ∧ s.ports.hMod = s.self ∧ s.ports.hBase < 128 ∧ s.foreign (s.ports.hMod * 2 ^ 47 + s.ports.hBase * 2 ^ 40 + 0x8000) = false ∧
    s.reach (s.ports.hMod * 2 ^ 47 + s.ports.hBase * 2 ^ 40 + 0x8000) 0 = .ok () ∧
    s.poisoned (s.ports.hMod * 2 ^ 47 + s.ports.hBase * 2 ^ 40 + 0x8000) = false ∧ s.mem.wf = true ∧
    s.ports.memoryOn = true ∧ s.ports.posted = [] ∧ s.ports.hostWait = [] ∧ (∀ h ∈ s.ports.held, h.own = false) ∧
    (∀ k ∈ s.clusters, k.lines = []) ∧ (∀ c ∈ s.cores, c.tx.depth = 0) ∧
    (s.ports.hMod * 2 ^ 47 + s.ports.hBase * 2 ^ 40 + 0x8000) % 128 + 128 ≤ 128 ∧
    (let w := { s with ports := { s.ports with ready := s.ports.ready &&& ~~~0xFFFF00 } }
     w.reach (w.ports.hMod * 2 ^ 47 + w.ports.hBase * 2 ^ 40 + 0x8000) 0 = .wait ∧ w.ports.ready.getLsbD 25 = true ∧
       w.ports.memoryOn = true) ∧
    (let w := { s with ports := { s.ports with posted := [(0x8000, [1])] } }
     w.ports.posted ≠ [] ∧ w.ports.ready.getLsbD 25 = true) :=
  ⟨by unfold State.bridgeOn; rw [h]; decide +kernel, by decide +kernel⟩

/-- A disabled and an enabled queue, with the index at the ring's size and one that announces a record, of
BringUpFramesAndHostRequestsTakeTheirEffect. -/
theorem witness_doorbell :
    let s := { st [] with queues := [queueOf false []] }
    s.ports.posted = [] ∧ s.ports.recovery = false ∧ ((st []).queue 2).en = false ∧ (s.queue 2).en = true ∧ (2 : Word).toNat ≤ (s.queue 2).ringSize.toNat ∧
    (s.queue 2).prod < (s.queue 2).ringSize.toNat ∧
    ((2 : Word).toNat + (s.queue 2).ringSize.toNat - (s.queue 2).prod) % (s.queue 2).ringSize.toNat = 0 ∧
    ((1 : Word).toNat + (s.queue 2).ringSize.toNat - (s.queue 2).prod) % (s.queue 2).ringSize.toNat = 1 ∧ (1 <<< 63 : Word).getLsbD 63 = true := by decide +kernel

/-- An idle and an occupied module, both links, every state of a firmware request, and an alarm that is due, of
PowerAndFirmwareRequestsTakeTheirEffect. -/
theorem witness_power :
    let p := (st []).ports
    let s (cmd : Nat) : State := { st [] with ports := { p with fwBusy := some cmd, fwSt := 0, fwBuf := 0x8000, fwLen := 32 } }
    let a : State := { st [] with time := 1, ports := { p with alarmAt := some 0 } }
    p.posted = [] ∧ p.recovery = false ∧ (teamSt .running).ports.pst ≠ 3 ∧
    ({ teamSt .running with ports := { p with psctl := 0xF } } : State).occupied = true ∧
    (st []).occupied = false ∧ (st []).ports.pst ≠ 3 ∧ (teamSt .running).occupied = true ∧ a.ports.holdEnd = some 0 ∧ 0 < a.time ∧
    p.linkup = 0 ∧ ({ p with linkup := 1 } : Ports).linkup ≠ 0 ∧ (s 1).ports.fwSt = 0 ∧ p.fwSt ≠ 0 ∧
    fld (0x8000 : Word) 5 0 = 0 ∧ (0x8000 : Word).toNat < 2 ^ 56 ∧
    (∀ c, (s c).ports.fwBusy = some c ∧ AtTheHome (s c) 0x8000 32) ∧ (s 1).bufferOk (s 1).ports.fwBuf.toNat (s 1).ports.fwLen.toNat = true ∧
    32 ≤ (s 2).ports.fwLen.toNat ∧ (s 2).ports.recovery = false ∧ fld (0x8020 : Word) 5 0 ≠ 0 ∧
    imageGood ((s 1).mem.readBytes 0x8000 32) = false ∧
    ({ p with psctl := setFld p.psctl 3 0 15 } : Ports).pst = 3 := by
  refine ⟨by decide, by decide, by decide +kernel, by decide +kernel, by decide, by decide +kernel, by decide +kernel,
    by decide +kernel, by decide +kernel, by decide, by decide, by decide, by decide, by decide, by decide,
    fun c => ⟨rfl, rfl, fun b h1 h2 => ?_, by simp [st], by simp [st], by simp [State.cores, st, tileCore]⟩, by decide +kernel,
    by decide +kernel⟩
  have h : b < 0x8020 := h2
  simp [State.foreign, modOf, State.self, st]; omega

/-- Where the part's fuses and keys take an image of zeros, it verifies, of PowerAndFirmwareRequestsTakeTheirEffect. -/
theorem witness_image (h : ∀ x, Config.imageVerifies x = true) (hv : Config.minVersion = 0) :
    imageGood (List.replicate imageHead 0) = true := by
  simp only [imageGood, h, hv, List.drop_replicate, List.take_replicate, List.length_replicate]
  decide

/-- The supervisor core whose next chain is `li #100000`, in memory, and the same words fetched ahead. -/
def stepSt (ahead : Bool) : State :=
  { spWith .running [] with
    core := { (spWith .running []).core with pc := 0x1000, fetched := if ahead then [(0x1000, 0xF061), (0x1002, 0x72A0)] else [] }
    mem := [(0x1000, 0x61), (0x1001, 0xF0), (0x1002, 0xA0), (0x1003, 0x72)] }

/-- A step of each kind, and a chain of two words that is fetched ahead or from memory, of AStepRunsTheDecodedChain. -/
theorem witness_step :
    let s := stepSt false
    let ws := [0xF061, 0x72A0]
    let bad := { stepSt true with core := { (stepSt true).core with fetched := [(0x1000, 0xC800)] } }
    let odd := { stepSt true with core := { (stepSt true).core with pc := 0x1001 } }
    ({ s with agenda := [.event .ifence] } : State).agenda = .event .ifence :: [] ∧
    ({ s with agenda := [.turn (.tile 3)] } : State).agenda = .turn (.tile 3) :: [] ∧ s.agenda = [] ∧ s.exactEvent = none ∧
    s.engTurn = false ∧ s.canIssue s.core = true ∧ ({ s with engTurn := true } : State).engineEvent = none ∧
    (st []).canIssue { tileCore [] with run := .parked } = false ∧
    decodeWords ws = .instr (.li 100000) ws.length ∧ ws.length ≤ 5 ∧ (∀ k < ws.length, decodeWords (ws.take k) = .more) ∧
    (∀ k < ws.length, ((stepSt true).core.fetched.find? (fun p => p.1 == ((stepSt true).core.pc + BitVec.ofNat 64 (2 * k)).toNat)).map
      (fun p => (p.1, p.2.toNat)) = some (((stepSt true).core.pc + BitVec.ofNat 64 (2 * k)).toNat, ws.getD k 0)) ∧
    s.core.who = .sup 0 ∧ s.core.fetched = [] ∧ s.core.pc.toNat % 2 = 0 ∧ s.core.pc.toNat + 10 < 2 ^ 56 ∧
    (∀ k < ws.length, AtTheL2 s s.core.who (s.core.pc.toNat + 2 * k) ∧ s.reach (s.core.pc.toNat + 2 * k) 0 = .ok () ∧
      s.mem.readNat (s.core.pc.toNat + 2 * k) 2 = ws.getD k 0) ∧
    (match s.fetchChain s.core.who with | .chain _ i _ => i == .li 100000 | _ => false) = true ∧
    (match bad.fetchChain bad.core.who with | .decode _ c _ _ => c == .illegal | _ => false) = true ∧
    (match odd.fetchChain odd.core.who with | .fault f => f.code == .align | _ => false) = true := by
  refine ⟨rfl, rfl, rfl, by decide +kernel, rfl, by decide +kernel, by decide +kernel, by decide +kernel, by decide +kernel, by decide,
    by decide +kernel, by decide +kernel, rfl, rfl, by decide, by decide, fun k hk => ⟨?_, ?_⟩, by decide +kernel, by decide +kernel,
    by decide +kernel⟩
  · have hk : k < 2 := hk
    refine atTheL2_sp _ _ _ ?_ ?_ rfl ⟨rfl, rfl⟩ (by decide) <;> (interval_cases k <;> decide +kernel)
  · have hk : k < 2 := hk
    interval_cases k <;> decide +kernel

/-- A chain with every kind of field, of DecodingAnEncodedChainGivesItBack. -/
theorem witness_encode : (Instr.stg .d true .sys (.c 255) (.m 63) (-1)).isChain = true ∧
    (Instr.stg .d true .sys (.c 255) (.m 63) (-1)).wf = true := by decide +kernel

/-- The state after reset keeps both forms and the nesting, and has a next state, of EveryStepKeepsMemoryCanonical,
EveryStepKeepsScratchCanonical and EveryStepKeepsTransactionsWithinSevenLevels. -/
theorem witness_invariants : State.reset.MemoryOk ∧ State.reset.ScratchOk ∧ State.reset.DepthOk ∧ (match step State.reset with | .next _ => true | _ => false) = true := by
  refine ⟨by unfold State.MemoryOk; decide +kernel, by unfold State.ScratchOk; decide +kernel, by unfold State.DepthOk; decide +kernel,
    by decide +kernel⟩

/-- A pending position that an operand reads, and leased registers of both kinds, of
PendingOperandsStallAndLeasedOnesFault. -/
theorem witness_stalls :
    let c := { tileCore [] with regs := { regs0 [] with train := (Vector.replicate 16 ({} : Pos)).set 0 { value := 0, tag := some 3 } } }
    let d := { tileCore [] with leases := [{ reg := .scalar (.k 15), own := 3 }, { reg := .scalar (.m 63), own := 3 }] }
    (∃ x ∈ [Src.t 0, .k 1], c.pending x = true) ∧ (∀ x ∈ [Src.k 15, .m 63], d.pending x = false) ∧
    (namesOf [Src.k 15, .m 63]).find? d.leased = some (.scalar (.k 15)) ∧ d.leased (.scalar (.m 63)) = true := by decide +kernel

/-! ## Steps

One step each, with results taken from the rules. -/

/-- The next state of an outcome. -/
def next (o : Host.Outcome State Fault Refusal) : State := match o with | .next t => t | _ => {}

/-- The state after the first instruction after reset. -/
def first (nbits w : Nat) : State := next (step (State.reset.withFetchWord nbits w))

/-- `li #-3` pushes its value, and the program counter moves past its one word (R43, R121). -/
theorem test_step_li : (first 16 0x73FD).core.value (.t 0) = -3 ∧ (first 16 0x73FD).core.pc = 2 := by decide +kernel

/-- `add t0,t1` of two signs wraps to 0, and the operands move one older (R82, R119). -/
theorem test_add_wraps :
    let t := next (exec (.add (.k 0) (.k 1)) (st [1 <<< 63, 1 <<< 63]))
    t.core.value (.t 0) = 0 ∧ t.core.value (.k 0) = 1 <<< 63 := by decide +kernel

/-- The most negative number divided by -1 is itself, and its remainder 0; division by 0 gives -1 and the dividend
(R127). -/
theorem test_div_corners :
    (next (exec (.div (.k 0) (.k 1)) (st [1 <<< 63, -1]))).core.value (.t 0) = 1 <<< 63 ∧
    (next (exec (.rem (.k 0) (.k 1)) (st [1 <<< 63, -1]))).core.value (.t 0) = 0 ∧
    (next (exec (.div (.k 0) (.k 1)) (st [7, 0]))).core.value (.t 0) = -1 ∧
    (next (exec (.rem (.k 0) (.k 1)) (st [7, 0]))).core.value (.t 0) = 7 := by decide +kernel

/-- A misaligned local load parks its core with ALIGN and the effective address (R136, R392). -/
theorem test_load_misaligned :
    let t := next (exec (.lld .w (.k 0) 1) (st [0x5000]))
    t.core.run = .parked ∧ t.core.frame.code = .align ∧ t.core.frame.detail = 0x5001 ∧ t.core.frame.resume = 0x1000 := by
  decide +kernel

/-- A local store is little endian (R135). -/
theorem test_store_order :
    (next (exec (.lstW (.k 0) (.k 1) 0) (st [0x5000, 0x11223344]))).core.scratch =
      [(0x5000, 0x44), (0x5001, 0x33), (0x5002, 0x22), (0x5003, 0x11)] := by decide +kernel

/-- `call` goes 8 halfwords past its chain and saves the address after it (R43, R105). -/
theorem test_call : (next (exec (.call 8) (st []))).core.pc = 0x1012 ∧
    (next (exec (.call 8) (st []))).core.value (.k 15) = 0x1002 := by decide +kernel

/-- `svc #7` parks with SVC, its number, and the address after it (R115). -/
theorem test_svc :
    let t := next (exec (.svc 7) (st []))
    t.core.frame.code = .svc ∧ t.core.frame.detail = 7 ∧ t.core.frame.resume = 0x1002 := by decide +kernel

/-- One arrival on an escapement whose count is 1 flips its phase and reloads the count (R101). -/
theorem test_arrival :
    let s := next (exec (.einit (.k 0) (.k 1)) (st [0x800, 1]))
    let t := next (exec (.earr (.k 0)) s)
    (t.core.esc 0).ph = 1 ∧ (t.core.esc 0).arr = 1 := by decide +kernel

/-- A supervisor-only chain of a tile core takes PRIV (R49). -/
theorem test_priv : (next (exec (.park (.k 0)) (st []))).core.frame.code = .priv := by decide +kernel

/-- An addition of INT8 vectors wraps in each active element and keeps the others (R88, R213). -/
theorem test_vadd :
    let e : Entry := { tag := 3, instr := .vadd 2 0 1, addr := 0, cfg0 := 0x10 }
    let c := { tileCore [] with
      entries := [e]
      regs := { (regs0 []) with v := ((Vector.replicate 32 (0 : VecReg)).set 0 0xFF80).set 1 0x0181
                                f := (Vector.replicate 8 (0 : MaskReg)).set 1 1 } }
    let t := next (exec (.vectorExecution (.tile 0)) { st [] with core := c })
    t.core.regs.v.get 2 = 1 ∧ t.core.entries = [] := by decide +kernel

/-- An INT8 product of one row by one column (R253). -/
theorem test_mma :
    let e : Entry := { tag := 3, instr := .mma 0 (.k 0) 1, addr := 0, ops := { b := 0x5000, c := 0x6000 }, started := true, k := 2
                       cfg0 := BitVec.ofNat 64 (1 + 2 ^ 9 + 2 * 2 ^ 19 + 10 * 2 ^ 35 + 10 * 2 ^ 39 + 2 ^ 43) }
    let c := { tileCore [] with entries := [e], scratch := [(0x5000, 3), (0x5001, 0xFE), (0x6000, 5), (0x6001, 7)] }
    bankAt ((next (exec (.matrixOperationCompletes (.tile 0) 0) { st [] with core := c })).core.regs.acc.get 0) 0 0 = 1 := by
  decide +kernel

end Sys2Proof.Tests

end
end

/-! ## Register moves

SUPPORT. What every register reads as after a write of one, and from it O27. -/

namespace Sys2Proof.Machine

/-- An element of a register file after one element was set. -/
theorem get_setAt {α : Type} {n : Nat} (r : Vector α n) (i j : Fin n) (x : α) :
    (setAt r i x).get j = if j = i then x else r.get j := by
  simp only [setAt, Vector.get_eq_getElem, Vector.getElem_set, Fin.ext_iff, eq_comm]

/-! ### Named and main registers (R85, R87) -/

/-- Inside a handler k8 to k15 are read in the shadow file (R85). -/
theorem getK_shadow (c : Core) (i : Fin 16) (h : c.inHandler ∧ 8 ≤ i.val) :
    c.getK i = c.regs.shadowK.get ⟨i.val - 8, by omega⟩ := if_pos h
/-- Every other named register is read in the main file. -/
theorem getK_main (c : Core) (i : Fin 16) (h : ¬ (c.inHandler ∧ 8 ≤ i.val)) : c.getK i = c.regs.k.get i := if_neg h

/-- Inside a handler a write of k8 to k15 goes to the shadow file (R85). -/
theorem setK_regs_shadow (c : Core) (i : Fin 16) (v : Word) (h : c.inHandler ∧ 8 ≤ i.val) :
    (c.setK i v).regs = { c.regs with shadowK := setAt c.regs.shadowK ⟨i.val - 8, by omega⟩ v } := if_pos h
/-- A write of any other named register goes to the main file. -/
theorem setK_regs_main (c : Core) (i : Fin 16) (v : Word) (h : ¬ (c.inHandler ∧ 8 ≤ i.val)) :
    (c.setK i v).regs = { c.regs with k := setAt c.regs.k i v } := if_neg h

@[simp] theorem setK_inHandler (c : Core) (i : Fin 16) (v : Word) : (c.setK i v).inHandler = c.inHandler := rfl

/-- A named register after one was written, both as the running code names them. -/
theorem getK_setK (c : Core) (i j : Fin 16) (v : Word) : (c.setK i v).getK j = if j = i then v else c.getK j := by
  by_cases hj : c.inHandler ∧ 8 ≤ j.val
  · rw [getK_shadow (c.setK i v) j (by rwa [setK_inHandler]), getK_shadow c j hj]
    by_cases hi : c.inHandler ∧ 8 ≤ i.val
    · have hij : j.val - 8 = i.val - 8 ↔ j = i := by omega
      simp only [setK_regs_shadow c i v hi, get_setAt, Fin.mk.injEq, hij]
    · have hne : j ≠ i := fun h => hi (h ▸ hj)
      rw [setK_regs_main c i v hi, if_neg hne]
  · rw [getK_main (c.setK i v) j (by rwa [setK_inHandler]), getK_main c j hj]
    by_cases hi : c.inHandler ∧ 8 ≤ i.val
    · have hne : j ≠ i := fun h => hj (h ▸ hi)
      rw [setK_regs_shadow c i v hi, if_neg hne]
    · rw [setK_regs_main c i v hi]; exact get_setAt ..

/-- A write of a k or m register changes no other register file. -/
theorem setDst_regs (c : Core) (d : Dst) (v : Word) :
    ∃ k shadowK m, (c.setDst d v).regs = { c.regs with k := k, shadowK := shadowK, m := m } := by
  cases d with
  | k i =>
    by_cases hi : c.inHandler ∧ 8 ≤ i.val
    · exact ⟨_, _, _, setK_regs_shadow c i v hi⟩
    · exact ⟨_, _, _, setK_regs_main c i v hi⟩
  | m i => exact ⟨_, _, _, rfl⟩

/-- A named register after a k or m register was written. -/
theorem value_k_setDst (c : Core) (d : Dst) (j : Fin 16) (v : Word) :
    (c.setDst d v).value (.k j) = if .k j = d then v else c.value (.k j) := by
  cases d with
  | k i => simp only [Dst.k.injEq]; exact getK_setK c i j v
  | m i => rw [if_neg (by simp)]; rfl

/-- A main register after a k or m register was written. -/
theorem value_m_setDst (c : Core) (d : Dst) (j : Fin 64) (v : Word) :
    (c.setDst d v).value (.m j) = if .m j = d then v else c.value (.m j) := by
  cases d with
  | k i =>
    rw [if_neg (by simp)]
    show (c.setK i v).regs.m.get j = c.regs.m.get j
    by_cases hi : c.inHandler ∧ 8 ≤ i.val
    · rw [setK_regs_shadow c i v hi]
    · rw [setK_regs_main c i v hi]
  | m i => simp only [Dst.m.injEq]; exact get_setAt c.regs.m i j v

/-- A retiring chain changes no operand's value. -/
@[simp] theorem retire_value (c : Core) (x : Src) : c.retire.value x = c.value x := by cases x <;> rfl

/-! ### Mask registers (R88) -/

theorem getF_zero (c : Core) : c.getF 0 = BitVec.allOnes 256 := rfl
theorem setF_zero (c : Core) (v : MaskReg) : c.setF 0 v = c := rfl

theorem getF_of_ne (c : Core) (i : MReg) (h : i ≠ 0) : c.getF i = c.regs.f.get i := if_neg (Fin.val_ne_zero_iff.mpr h)
theorem setF_of_ne (c : Core) (i : MReg) (v : MaskReg) (h : i ≠ 0) :
    c.setF i v = { c with regs := { c.regs with f := setAt c.regs.f i v } } := if_neg (Fin.val_ne_zero_iff.mpr h)

/-- A mask register after one was written: a write to f0 changes nothing, and one to another is what is read back. -/
theorem getF_setF (c : Core) (i j : MReg) (v : MaskReg) :
    (c.setF i v).getF j = if j = i ∧ i ≠ 0 then v else c.getF j := by
  by_cases hi : i = 0
  · rw [if_neg (fun h => h.2 hi), hi, setF_zero]
  · by_cases hj : j = 0
    · have hne : ¬ (j = i ∧ i ≠ 0) := fun h => hi (h.1 ▸ hj)
      rw [if_neg hne, hj, getF_zero, getF_zero]
    · rw [getF_of_ne _ j hj, getF_of_ne c j hj, setF_of_ne c i v hi, get_setAt]
      simp only [ne_eq, hi, not_false_eq_true, and_true]

/-! ### The instructions -/

/-- `nop` moves its program counter and changes nothing else (R114). -/
theorem exec_nop_retires (s : State) :
    GoesOn (exec .nop s) fun t => OnlyCore s t ∧ s.core.RetiredFrom t.core ∧ s.core.TrainsKept t.core :=
  ⟨s.retire, rfl, rfl, retire_retired s.core⟩

/-- What `put` does once its operand can be read and its register is not leased (R87, R91). -/
theorem exec_put_ok (s : State) (d : Dst) (x : Src) (h : s.core.CanRead [x] (nameDst d :: namesOf [x])) :
    exec (.put d x) s = .next { s with core := (s.core.setDst d (s.core.value x)).retire } := issue_ok s _ _ _ h

/-- What `wrsv` does once its operand can be read (R91, R132). -/
theorem exec_wrsv_ok (s : State) (i : Fin 32) (x : Src) (h : s.core.CanRead [x] (namesOf [x])) :
    exec (.wrsv i x) s = .next { s with core := (s.core.setSv i (s.core.value x)).retire } := issue_ok s _ _ _ h

end Sys2Proof.Machine

section

open Sys2Proof Sys2Proof.Machine

/-- Settles O27: each write reads back at its own register and nowhere else, by the laws of `setDst`, `setSv` and
`setF`. -/
theorem registerMovesWriteOneRegister : Obligations.RegisterMovesWriteOneRegister := by
  unfold Obligations.RegisterMovesWriteOneRegister
  refine ⟨⟨by decide, exec_nop_retires⟩, fun s => ⟨fun d x h => ?put, fun i x h => ?wrsv⟩,
    fun c i j v => ⟨getF_zero c, setF_zero c v, getF_setF c i j v⟩⟩
  case put =>
    obtain ⟨k, shadowK, m, hregs⟩ := setDst_regs s.core d (s.core.value x)
    refine ⟨_, exec_put_ok s d x h, rfl, ?_⟩
    simp only [Core.TrainsKept, retire_pc, retire_regs, retire_csr, retire_scratch, retire_value,
      setDst_nextPc, setDst_csr, setDst_scratch, hregs, true_and, and_true]
    intro e
    cases e with
    | k j => exact value_k_setDst s.core d j _
    | m j => exact value_m_setDst s.core d j _
  case wrsv =>
    exact ⟨_, exec_wrsv_ok s i x h, rfl, rfl, ⟨rfl, rfl⟩, fun j => get_setAt s.core.regs.sv i j _,
      rfl, rfl, rfl, rfl, rfl, rfl, rfl, rfl⟩

end

/-! ## Scalar results

SUPPORT. What each function of page 0 and page 1 computes, as arithmetic on numbers or bit by bit, and from it O1. -/

namespace Sys2Proof.Machine

/-! ### Sums, shifts and comparisons (R119, R120, R129) -/

theorem sub_eq_ofInt (x y : Word) : x - y = BitVec.ofInt 64 (x.toInt - y.toInt) := by
  apply BitVec.eq_of_toInt_eq
  rw [BitVec.toInt_sub, BitVec.toInt_ofInt]

theorem mul_eq_ofInt (x y : Word) : x * y = BitVec.ofInt 64 (x.toInt * y.toInt) := by
  rw [BitVec.ofInt_mul, BitVec.ofInt_toInt, BitVec.ofInt_toInt]

theorem add_ofInt (x : Word) (i : Int) : x + BitVec.ofInt 64 i = BitVec.ofInt 64 (x.toInt + i) := by
  rw [BitVec.ofInt_add, BitVec.ofInt_toInt]

theorem add_eq_ofInt (x y : Word) : x + y = BitVec.ofInt 64 (x.toInt + y.toInt) := by
  rw [← add_ofInt, BitVec.ofInt_toInt]

theorem mul_add_eq_ofInt (x y z : Word) : x * y + z = BitVec.ofInt 64 (x.toInt * y.toInt + z.toInt) := by
  rw [BitVec.ofInt_add, BitVec.ofInt_toInt, mul_eq_ofInt]

theorem shiftLeft_eq_ofNat (x : Word) (n : Nat) : x <<< n = BitVec.ofNat 64 (x.toNat * 2 ^ n) := by
  rw [← Nat.shiftLeft_eq]; rfl

theorem ushiftRight_eq_ofNat (x : Word) (n : Nat) : x >>> n = BitVec.ofNat 64 (x.toNat / 2 ^ n) := by
  rw [← Nat.shiftRight_eq_div_pow, ← BitVec.toNat_ushiftRight, BitVec.ofNat_toNat, BitVec.setWidth_eq]

theorem sshiftRight_eq_ofInt (x : Word) (n : Nat) : x.sshiftRight n = BitVec.ofInt 64 (x.toInt / (2 ^ n : Int)) := by
  rw [BitVec.sshiftRight, Int.shiftRight_eq_div_pow, Nat.cast_pow, Nat.cast_ofNat]

theorem add_shiftLeft_eq_ofNat (x y : Word) (n : Nat) :
    x + y <<< n = BitVec.ofNat 64 (x.toNat + y.toNat * 2 ^ n) := by
  rw [BitVec.ofNat_add, BitVec.ofNat_toNat, BitVec.setWidth_eq, shiftLeft_eq_ofNat]

theorem truth_decide (p : Prop) [Decidable p] : truth (decide p) = if p then 1 else 0 := by
  by_cases h : p <;> simp [truth, h]

theorem truth_beq (x y : Word) : truth (x == y) = if x = y then 1 else 0 := truth_decide (x = y)

/-- The lesser of two signed numbers. -/
theorem toInt_ite_slt_min (x y : Word) : (if y.slt x then y else x).toInt = min x.toInt y.toInt := by
  rw [BitVec.slt_eq_decide, apply_ite BitVec.toInt, min_comm, min_def_lt]
  simp only [decide_eq_true_eq]

/-- The greater of two signed numbers. -/
theorem toInt_ite_slt_max (x y : Word) : (if x.slt y then y else x).toInt = max x.toInt y.toInt := by
  rw [BitVec.slt_eq_decide, apply_ite BitVec.toInt, max_def_lt]
  simp only [decide_eq_true_eq]

/-- The lesser of two unsigned numbers. -/
theorem toNat_ite_ult_min (x y : Word) : (if y.ult x then y else x).toNat = min x.toNat y.toNat := by
  rw [BitVec.ult, apply_ite BitVec.toNat, min_comm, min_def_lt]
  simp only [decide_eq_true_eq]

/-- The greater of two unsigned numbers. -/
theorem toNat_ite_ult_max (x y : Word) : (if x.ult y then y else x).toNat = max x.toNat y.toNat := by
  rw [BitVec.ult, apply_ite BitVec.toNat, max_def_lt]
  simp only [decide_eq_true_eq]

/-! ### Counts of bits (R121) -/

/-- A number of at most 64 bits counted is a word. -/
theorem toNat_ofNat_of_le (n : Nat) (h : n ≤ 64) : (BitVec.ofNat 64 n).toNat = n := by
  rw [BitVec.toNat_ofNat, Nat.mod_eq_of_lt]; omega

theorem popN_eq_length_filter (w x : Nat) : popN w x = ((List.range w).filter x.testBit).length := by
  unfold popN
  congr 2
  funext i
  rw [Nat.testBit_eq_decide_div_mod_eq]; rfl

/-- A bit above a pattern that it does not reach is one more zero. -/
theorem clzN_succ_of_lt (w x : Nat) (h : x < 2 ^ w) : clzN (w + 1) x = clzN w x + 1 := by
  unfold clzN
  by_cases h0 : x = 0
  · rw [if_pos h0, if_pos h0]
  · have hlog : x.log2 < w := (Nat.log2_lt h0).mpr h
    rw [if_neg h0, if_neg h0]; omega

/-- A pattern whose highest bit is set has no zero above it. -/
theorem clzN_succ_of_le (w x : Nat) (hl : 2 ^ w ≤ x) (hu : x < 2 ^ (w + 1)) : clzN (w + 1) x = 0 := by
  have h0 : x ≠ 0 := by have := Nat.two_pow_pos w; omega
  have hlog : x.log2 = w := (Nat.log2_eq_iff h0).mpr ⟨hl, hu⟩
  rw [clzN, if_neg h0]; omega

theorem clzN_eq_length_takeWhile (w x : Nat) (h : x < 2 ^ w) :
    clzN w x = ((List.range w).takeWhile fun i => !x.testBit (w - 1 - i)).length := by
  induction w with
  | zero => rw [clzN, if_pos (by omega)]; rfl
  | succ w ih =>
    have hrest : (List.map Nat.succ (List.range w)).takeWhile (fun i => !x.testBit (w + 1 - 1 - i)) =
        ((List.range w).takeWhile fun i => !x.testBit (w - 1 - i)).map Nat.succ := by
      rw [List.takeWhile_map]
      congr 2
      funext i
      rw [Function.comp_apply, show w + 1 - 1 - i.succ = w - 1 - i by omega]
    rw [List.range_succ_eq_map, List.takeWhile_cons, hrest, Nat.sub_zero, Nat.add_sub_cancel]
    by_cases hx : x < 2 ^ w
    · rw [Nat.testBit_lt_two_pow hx, clzN_succ_of_lt w x hx, ih hx]; simp
    · rw [Nat.testBit_of_two_pow_le_and_two_pow_add_one_gt (Nat.le_of_not_lt hx) h,
        clzN_succ_of_le w x (Nat.le_of_not_lt hx) h]; rfl

theorem ctzN_eq_length_takeWhile (w x : Nat) : ctzN w x = ((List.range w).takeWhile fun i => !x.testBit i).length := by
  induction w generalizing x with
  | zero => rfl
  | succ w ih =>
    have hrest : (List.map Nat.succ (List.range w)).takeWhile (fun i => !x.testBit i) =
        ((List.range w).takeWhile fun i => !(x / 2).testBit i).map Nat.succ := by
      rw [List.takeWhile_map]
      congr 2
      funext i
      exact congrArg _ (Nat.testBit_succ x i)
    rw [List.range_succ_eq_map, List.takeWhile_cons, hrest, ctzN, ih, Nat.testBit_zero]
    by_cases hx : x % 2 = 1 <;> simp [hx, Nat.add_comm]

theorem toNat_ofNat_popN (x : Word) :
    (BitVec.ofNat 64 (popN 64 x.toNat)).toNat = ((List.range 64).filter fun i => x.getLsbD i).length := by
  rw [popN_eq_length_filter]
  exact toNat_ofNat_of_le _ (List.length_filter_le ..)

theorem toNat_ofNat_clzN (x : Word) :
    (BitVec.ofNat 64 (clzN 64 x.toNat)).toNat = ((List.range 64).takeWhile fun i => !x.getLsbD (63 - i)).length := by
  rw [clzN_eq_length_takeWhile 64 _ x.isLt]
  exact toNat_ofNat_of_le _ (List.takeWhile_sublist _).length_le

theorem toNat_ofNat_ctzN (x : Word) :
    (BitVec.ofNat 64 (ctzN 64 x.toNat)).toNat = ((List.range 64).takeWhile fun i => !x.getLsbD i).length := by
  rw [ctzN_eq_length_takeWhile]
  exact toNat_ofNat_of_le _ (List.takeWhile_sublist _).length_le

/-! ### Bits chosen, shifted and swapped (R125, R126) -/

/-- A sum of one bit for each place has those bits. -/
theorem testBit_foldl_bits (b : Nat → Nat) (w : Nat) :
    let v := (List.range w).foldl (fun acc k => acc + b k % 2 * 2 ^ k) 0
    v < 2 ^ w ∧ ∀ i < w, v.testBit i = decide (b i % 2 = 1) := by
  induction w with
  | zero => exact ⟨Nat.one_pos, fun i hi => absurd hi (Nat.not_lt_zero i)⟩
  | succ w ih =>
    obtain ⟨hlt, hbits⟩ := ih
    rw [List.range_succ, List.foldl_append, List.foldl_cons, List.foldl_nil]
    generalize (List.range w).foldl (fun acc k => acc + b k % 2 * 2 ^ k) 0 = v at hlt hbits
    have hle : b w % 2 * 2 ^ w ≤ 1 * 2 ^ w := Nat.mul_le_mul_right _ (by omega)
    refine ⟨by rw [Nat.pow_succ]; omega, fun i hi => ?_⟩
    rw [Nat.add_comm, Nat.mul_comm, Nat.testBit_two_pow_mul_add _ hlt]
    split
    · next h => exact hbits i h
    · next h => rw [show i = w by omega, Nat.sub_self, Nat.testBit_zero, Nat.mod_mod]

/-- Each bit of the combined patterns is the chosen table's entry for their bits (R125). -/
theorem testBit_bmuxN (w lo hi x y s i : Nat) (h : i < w) :
    (bmuxN w lo hi x y s).testBit i =
      (if s.testBit i then hi else lo).testBit (2 * (x.testBit i).toNat + (y.testBit i).toNat) := by
  have hbits := (testBit_foldl_bits (fun k => (if s / 2 ^ k % 2 = 0 then lo else hi) /
    2 ^ (2 * (x / 2 ^ k % 2) + y / 2 ^ k % 2)) w).2 i h
  have htable : (if s.testBit i then hi else lo) = if s / 2 ^ i % 2 = 0 then lo else hi := by
    rw [Nat.testBit_eq_decide_div_mod_eq]
    rcases Nat.mod_two_eq_zero_or_one (s / 2 ^ i) with h0 | h1
    · simp [h0]
    · simp [h1]
  rw [htable, Nat.toNat_testBit, Nat.toNat_testBit,
    Nat.testBit_eq_decide_div_mod_eq (x := if s / 2 ^ i % 2 = 0 then lo else hi)]
  exact hbits

theorem getLsbD_bmuxN (lo hi : Nat) (x y s : Word) (i : Nat) (h : i < 64) :
    (BitVec.ofNat 64 (bmuxN 64 lo hi x.toNat y.toNat s.toNat)).getLsbD i =
      (if s.getLsbD i then hi else lo).testBit (2 * (x.getLsbD i).toNat + (y.getLsbD i).toNat) := by
  rw [BitVec.getLsbD_ofNat, decide_eq_true h, Bool.true_and]
  exact testBit_bmuxN 64 lo hi _ _ _ i h

/-- The bits of x followed by y. -/
theorem testBit_pair (x y : Word) (i : Nat) :
    (x.toNat * 2 ^ 64 + y.toNat).testBit i = if i < 64 then y.getLsbD i else x.getLsbD (i - 64) := by
  rw [Nat.mul_comm]; exact Nat.testBit_two_pow_mul_add _ y.isLt i

/-- The funnel shift to the left takes the high half (R126). -/
theorem funnelLeft_eq (x y : Word) (n : Nat) (h : n < 64) :
    funnelLeft x y n = BitVec.ofNat 64 ((x.toNat * 2 ^ 64 + y.toNat) * 2 ^ n / 2 ^ 64) := by
  have hor : funnelLeft x y n = (x <<< n) ||| (y >>> (64 - n)) := by
    unfold funnelLeft
    split
    · next h0 => subst h0; simp [BitVec.ushiftRight_eq_zero]
    · rfl
  apply BitVec.eq_of_getLsbD_eq
  intro i hi
  rw [hor, BitVec.getLsbD_or, BitVec.getLsbD_shiftLeft, BitVec.getLsbD_ushiftRight, BitVec.getLsbD_ofNat,
    Nat.testBit_div_two_pow, Nat.testBit_mul_two_pow, testBit_pair]
  by_cases hn : i < n
  · have hx : i + 64 - n = 64 - n + i := by omega
    have hlt : 64 - n + i < 64 := by omega
    have hle : n ≤ i + 64 := by omega
    simp [hi, hn, hx, hlt, hle]
  · have hx : i + 64 - n - 64 = i - n := by omega
    have hge : ¬ i + 64 - n < 64 := by omega
    have hle : n ≤ i + 64 := by omega
    have hy : y.getLsbD (64 - n + i) = false := BitVec.getLsbD_of_ge _ _ (by omega)
    simp [hi, hn, hx, hge, hle, hy]

/-- The funnel shift to the right takes the low half (R126). -/
theorem funnelRight_eq (x y : Word) (n : Nat) (h : n < 64) :
    funnelRight x y n = BitVec.ofNat 64 ((x.toNat * 2 ^ 64 + y.toNat) / 2 ^ n) := by
  have hor : funnelRight x y n = (x <<< (64 - n)) ||| (y >>> n) := by
    unfold funnelRight
    split
    · next h0 => subst h0; simp
    · rfl
  apply BitVec.eq_of_getLsbD_eq
  intro i hi
  rw [hor, BitVec.getLsbD_or, BitVec.getLsbD_shiftLeft, BitVec.getLsbD_ushiftRight, BitVec.getLsbD_ofNat,
    Nat.testBit_div_two_pow, testBit_pair, Nat.add_comm n i]
  by_cases hn : i + n < 64
  · have hlt : i < 64 - n := by omega
    simp [hi, hn, hlt]
  · have hge : ¬ i < 64 - n := by omega
    have hx : i - (64 - n) = i + n - 64 := by omega
    have hy : y.getLsbD (i + n) = false := BitVec.getLsbD_of_ge _ _ (by omega)
    simp [hi, hn, hge, hx, hy]

theorem length_bytesOfNat (n v : Nat) : (bytesOfNat n v).length = n := by
  induction n generalizing v with
  | zero => rfl
  | succ n ih => rw [bytesOfNat, List.length_cons, ih]

/-- Byte j of a number (R1). -/
theorem getElem?_bytesOfNat (n v j : Nat) (h : j < n) : (bytesOfNat n v)[j]? = some (BitVec.ofNat 8 (v / 256 ^ j)) := by
  induction n generalizing v j with
  | zero => exact absurd h (Nat.not_lt_zero j)
  | succ n ih =>
    cases j with
    | zero => rw [bytesOfNat, List.getElem?_cons_zero, pow_zero, Nat.div_one]
    | succ j => rw [bytesOfNat, List.getElem?_cons_succ, ih _ _ (by omega), Nat.div_div_eq_div_mul, pow_succ']

/-- Bit b of byte j of a little-endian number (R1). -/
theorem testBit_natOfBytes (bs : List Byte) (j b : Nat) (x : Byte) (hj : bs[j]? = some x) (hb : b < 8) :
    (natOfBytes bs).testBit (8 * j + b) = x.getLsbD b := by
  induction bs generalizing j with
  | nil => cases hj
  | cons y t ih =>
    have hsplit : natOfBytes (y :: t) = 2 ^ 8 * natOfBytes t + y.toNat := Nat.add_comm ..
    rw [hsplit, Nat.testBit_two_pow_mul_add _ y.isLt]
    cases j with
    | zero =>
      obtain rfl : y = x := by simpa using hj
      rw [if_pos (by omega), Nat.mul_zero, Nat.zero_add]; rfl
    | succ j => rw [if_neg (by omega), ← ih j hj]; congr 1; omega

/-- Byte j of a byte swap is byte 7 - j (R126). -/
theorem getLsbD_swapBytes (x : Word) (j b : Nat) (hj : j < 8) (hb : b < 8) :
    (swapBytes x).getLsbD (8 * j + b) = x.getLsbD (56 - 8 * j + b) := by
  have hbyte : (bytesOfNat 8 x.toNat).reverse[j]? = some (BitVec.ofNat 8 (x.toNat / 256 ^ (7 - j))) := by
    have hlen : (bytesOfNat 8 x.toNat).length - 1 - j = 7 - j := by rw [length_bytesOfNat]
    rw [List.getElem?_reverse (by rw [length_bytesOfNat]; exact hj), hlen, getElem?_bytesOfNat _ _ _ (by omega)]
  have hpow : 256 ^ (7 - j) = 2 ^ (56 - 8 * j) := by
    rw [show 256 = 2 ^ 8 from rfl, ← pow_mul]; congr 1; omega
  have hlt : 8 * j + b < 64 := by omega
  rw [swapBytes, BitVec.getLsbD_ofNat, testBit_natOfBytes _ j b _ hbyte hb, BitVec.getLsbD_ofNat, hpow,
    Nat.testBit_div_two_pow, Nat.add_comm b, BitVec.testBit_toNat]
  simp [hlt, hb]

/-! ### Division (R128) -/

/-- The quotient that overflows is among those that wrap. -/
theorem divS_eq (x y : Word) : divS x y = if y = 0 then -1
    else if x.toInt = -2 ^ 63 ∧ y.toInt = -1 then BitVec.ofInt 64 (-2 ^ 63)
    else BitVec.ofInt 64 (x.toInt.tdiv y.toInt) := by
  unfold divS
  congr 1
  split
  · next h => rw [h.1, h.2]; decide
  · rfl

theorem toNat_divU (x y : Word) : (divU x y).toNat = if y = 0 then 2 ^ 64 - 1 else x.toNat / y.toNat := by
  unfold divU
  split
  · rfl
  · exact Nat.mod_eq_of_lt (Nat.lt_of_le_of_lt (Nat.div_le_self _ _) x.isLt)

/-- The remainder of the quotient that overflows is 0, like that of any division by -1. -/
theorem remS_eq (x y : Word) : remS x y = if y = 0 then x
    else if x.toInt = -2 ^ 63 ∧ y.toInt = -1 then 0
    else BitVec.ofInt 64 (x.toInt - y.toInt * x.toInt.tdiv y.toInt) := by
  unfold remS
  congr 1
  split
  · next h => rw [h.1, h.2]; decide
  · rw [Int.tmod_def]

theorem toNat_remU (x y : Word) : (remU x y).toNat = if y = 0 then x.toNat else x.toNat % y.toNat := by
  unfold remU
  split
  · rfl
  · exact Nat.mod_eq_of_lt (Nat.lt_of_le_of_lt (Nat.mod_le _ _) x.isLt)

/-! ### Fields, extension and clamping (R130, R131) -/

theorem toNat_extractField (x pos len : Word) : (extractField x pos len).toNat =
    x.toNat / 2 ^ (pos.toNat % 64) % 2 ^ min (len.toNat % 128) 64 := by
  have hpow : 2 ^ min (len.toNat % 128) 64 ≤ 2 ^ 64 := Nat.pow_le_pow_right (by decide) (Nat.min_le_right ..)
  exact Nat.mod_eq_of_lt (Nat.lt_of_lt_of_le (Nat.mod_lt _ (Nat.two_pow_pos _)) hpow)

theorem getLsbD_onesAt (pos len i : Nat) (h : i < 64) :
    (onesAt pos len).getLsbD i = decide (pos ≤ i ∧ i < pos + len) := by
  rw [onesAt, BitVec.getLsbD_ofNat, Nat.testBit_mul_two_pow, Nat.testBit_two_pow_sub_one, decide_eq_true h,
    Bool.true_and, ← Bool.decide_and, decide_eq_decide]
  omega

theorem getLsbD_depositField (x v : Word) (pos len i : Nat) (h : i < 64) : (depositField x v pos len).getLsbD i =
    if pos ≤ i ∧ i < pos + len then v.getLsbD (i - pos) else x.getLsbD i := by
  rw [depositField, BitVec.getLsbD_or, BitVec.getLsbD_and, BitVec.getLsbD_and, BitVec.getLsbD_not,
    getLsbD_onesAt _ _ _ h, BitVec.getLsbD_ofNat, Nat.testBit_mul_two_pow, BitVec.testBit_toNat]
  by_cases hin : pos ≤ i ∧ i < pos + len
  · simp [h, hin]
  · simp [h, hin]

/-- The signed value of a pattern is that of a word of its width. -/
theorem signedOf_eq_toInt (n x : Nat) (h : 0 < n) : signedOf n x = (BitVec.ofNat n x).toInt := by
  have hhalf : 2 ^ n = 2 * 2 ^ (n - 1) := by rw [← pow_succ', Nat.sub_add_cancel h]
  rw [BitVec.toInt_eq_toNat_cond, BitVec.toNat_ofNat, signedOf]
  by_cases hneg : 2 ^ (n - 1) ≤ x % 2 ^ n
  · rw [if_pos hneg, if_neg (by omega), Nat.cast_pow]; rfl
  · rw [if_neg hneg, if_pos (by omega)]

theorem toInt_signFrom (x : Word) (n : Nat) (h0 : 0 < n) (h : n ≤ 64) :
    (signFrom x n).toInt = x.toInt.bmod (2 ^ n) := by
  have hword : signFrom x n = (x.setWidth n).signExtend 64 := by
    have hx : BitVec.ofNat n (x.toNat % 2 ^ n) = x.setWidth n := BitVec.eq_of_toNat_eq (by simp)
    rw [signFrom, signedOf_eq_toInt _ _ h0, hx]; rfl
  rw [hword, BitVec.toInt_signExtend_of_le h, BitVec.toInt_setWidth, BitVec.toInt_eq_toNat_bmod,
    Int.bmod_bmod_of_dvd (Nat.pow_dvd_pow 2 h)]

theorem toNat_ofNat_mod (x : Word) (n : Nat) : (BitVec.ofNat 64 (x.toNat % 2 ^ n)).toNat = x.toNat % 2 ^ n :=
  Nat.mod_eq_of_lt (Nat.lt_of_le_of_lt (Nat.mod_le _ _) x.isLt)

theorem toInt_clamp (x lo hi : Word) :
    (let low := if x.slt lo then lo else x; if hi.slt low then hi else low).toInt =
      min (max x.toInt lo.toInt) hi.toInt := by
  rw [toInt_ite_slt_min, toInt_ite_slt_max]

/-! ### The instructions -/

/-- A constant-window operand needs nothing (R39). -/
theorem canRead_const (c : Core) (n : Fin 256) : c.CanRead [.c n] (namesOf [.c n]) :=
  ⟨List.forall_mem_singleton.mpr rfl, List.forall_mem_nil _⟩

/-- A chain that computes a result with a property pushes such a result. -/
theorem exec_pushes {i : Instr} {s : State} {xs : List Src} {f : Core → Word} {p : Word → Prop}
    (he : exec i s = s.compute xs f) (h : s.core.CanRead xs (namesOf xs)) (hp : p (f s.core)) :
    ∃ r, p r ∧ exec i s = .next (s.result r) := ⟨_, hp, he.trans (compute_ok s xs f h)⟩

/-- A scalar instruction computes the result that its rule gives (R119 to R134). -/
theorem scalarRule_pushes (i : Instr) (s : State) (xs : List Src) (p : Word → Prop)
    (hr : ScalarRule s.core s.time i xs p) (hw : i.wf = true) (h : s.core.CanRead xs (namesOf xs)) :
    ∃ r, p r ∧ exec i s = .next (s.result r) := by
  cases hr with
  | pick => exact exec_pushes (exec_pick ..) h rfl
  | add => exact exec_pushes (exec_add ..) h (add_eq_ofInt ..)
  | sub => exact exec_pushes (exec_sub ..) h (sub_eq_ofInt ..)
  | mul => exact exec_pushes (exec_mul ..) h (mul_eq_ofInt ..)
  | addi => exact exec_pushes (exec_addi ..) h (add_ofInt ..)
  | and => exact exec_pushes (exec_and ..) h fun _ _ => BitVec.getLsbD_and
  | or => exact exec_pushes (exec_or ..) h fun _ _ => BitVec.getLsbD_or
  | xor => exact exec_pushes (exec_xor ..) h fun _ _ => BitVec.getLsbD_xor
  | andi => exact exec_pushes (exec_andi ..) h rfl
  | shl => exact exec_pushes (exec_shl ..) h (shiftLeft_eq_ofNat ..)
  | shr => exact exec_pushes (exec_shr ..) h (ushiftRight_eq_ofNat ..)
  | sra => exact exec_pushes (exec_sra ..) h (sshiftRight_eq_ofInt ..)
  | shli => exact exec_pushes (exec_shli ..) h (shiftLeft_eq_ofNat ..)
  | shri => exact exec_pushes (exec_shri ..) h (ushiftRight_eq_ofNat ..)
  | srai => exact exec_pushes (exec_srai ..) h (sshiftRight_eq_ofInt ..)
  | ceq => exact exec_pushes (exec_ceq ..) h (truth_beq ..)
  | clt => exact exec_pushes (exec_clt ..) h (truth_decide ..)
  | cltu => exact exec_pushes (exec_cltu ..) h (truth_decide ..)
  | clti => exact exec_pushes (exec_clti ..) h (truth_decide ..)
  | min => exact exec_pushes (exec_min ..) h (toInt_ite_slt_min ..)
  | max => exact exec_pushes (exec_max ..) h (toInt_ite_slt_max ..)
  | minu => exact exec_pushes (exec_minu ..) h (toNat_ite_ult_min ..)
  | maxu => exact exec_pushes (exec_maxu ..) h (toNat_ite_ult_max ..)
  | popc => exact exec_pushes (exec_popc ..) h (toNat_ofNat_popN ..)
  | clz => exact exec_pushes (exec_clz ..) h (toNat_ofNat_clzN ..)
  | ctz => exact exec_pushes (exec_ctz ..) h (toNat_ofNat_ctzN ..)
  | li => exact exec_pushes (exec_li ..) h rfl
  | ldc n => exact exec_pushes (exec_ldc ..) (canRead_const _ n) rfl
  | sel => exact exec_pushes (exec_sel ..) h (ite_not ..)
  | bmux => exact exec_pushes (exec_bmux ..) h fun i hi => getLsbD_bmuxN _ _ _ _ _ i hi
  | fshl => exact exec_pushes (exec_fshl ..) h (funnelLeft_eq _ _ _ (Nat.mod_lt _ (by decide)))
  | fshr => exact exec_pushes (exec_fshr ..) h (funnelRight_eq _ _ _ (Nat.mod_lt _ (by decide)))
  | rotl => exact exec_pushes (exec_rotl ..) h (funnelLeft_eq _ _ _ (Nat.mod_lt _ (by decide)))
  | bswap => exact exec_pushes (exec_bswap ..) h fun j hj b hb => getLsbD_swapBytes _ j b hj hb
  | mulh => exact exec_pushes (exec_mulh ..) h rfl
  | mulhu => exact exec_pushes (exec_mulhu ..) h rfl
  | madd => exact exec_pushes (exec_madd ..) h (mul_add_eq_ofInt ..)
  | div => exact exec_pushes (exec_div ..) h (divS_eq ..)
  | divu => exact exec_pushes (exec_divu ..) h (toNat_divU ..)
  | rem => exact exec_pushes (exec_rem ..) h (remS_eq ..)
  | remu => exact exec_pushes (exec_remu ..) h (toNat_remU ..)
  | lea => exact exec_pushes (exec_lea ..) h (add_shiftLeft_eq_ofNat ..)
  | bext => exact exec_pushes (exec_bext ..) h (toNat_extractField ..)
  | bdep => exact exec_pushes (exec_bdep ..) h fun i hi => getLsbD_depositField _ _ _ _ i hi
  | sext x n =>
    obtain ⟨hpos, hle⟩ : 1 ≤ n ∧ n ≤ 64 := by simpa [Instr.wf] using hw
    exact exec_pushes (exec_sext ..) h (toInt_signFrom _ n hpos hle)
  | zext => exact exec_pushes (exec_zext ..) h (toNat_ofNat_mod ..)
  | clamp => exact exec_pushes (exec_clamp ..) h (toInt_clamp ..)
  | rdsv => exact exec_pushes (exec_rdsv ..) h rfl
  | rdtime => exact exec_pushes (exec_rdtime ..) h rfl

end Sys2Proof.Machine

section

open Sys2Proof Sys2Proof.Machine

/-- Settles O1: the result that each instruction computes is its rule's, and a result that is pushed changes nothing
else. -/
theorem scalarInstructionsPushTheirResult : Obligations.ScalarInstructionsPushTheirResult := by
  unfold Obligations.ScalarInstructionsPushTheirResult
  intro i s xs p hr hw h
  obtain ⟨r, hp, he⟩ := scalarRule_pushes i s xs p hr hw h
  obtain ⟨honly, hret, hins⟩ := result_pushes s r
  exact ⟨s.result r, he, honly, hret, r, hp, hins⟩

end
